-- ==== Sys2Proof/Word.lean ====
section
/-!
DEFINITION. The word types of the Tamtik T16 and the one container for numbered plain data.
-/

namespace Sys2Proof

/-- A byte of memory (R268: a location is one byte). -/
abbrev Byte := BitVec 8
/-- One thread's element of a vector register (R148). -/
abbrev Lane := BitVec 32
/-- A scalar register, an address, a system register, a lane mask. -/
abbrev Word := BitVec 64

/-- Numbered plain data: pairs of a number and a value, numbers strictly rising, and no pair that holds
the value an unlisted number reads as. `Machine/Sparse.lean` has the operations. -/
abbrev Sparse (α : Type) := List (Nat × α)

end Sys2Proof
end

