-- ==== Sys2Proof/Machine/Sparse.lean ====
section
/-!
DEFINITION. Reading and writing numbered plain data (`Sparse`), and reading and writing bit fields of numbers.
A write keeps the canonical form: numbers rising, no entry that holds the default.
-/

namespace Sys2Proof.Machine

/-- The value at `k`, or the default `d` where `k` is not listed. -/
def sget {α : Type} (d : α) (m : Sparse α) (k : Nat) : α :=
  match m.find? (fun p => p.1 == k) with
  | some p => p.2
  | none => d

/-- Write `v` at `k`; writing the default removes the entry. -/
def sput {α : Type} [DecidableEq α] (d : α) (m : Sparse α) (k : Nat) (v : α) : Sparse α :=
  m.filter (fun p => p.1 < k) ++ (if v = d then [] else [(k, v)]) ++ m.filter (fun p => k < p.1)

/-- The canonical form: numbers strictly rising, no entry equal to the default. -/
def swf {α : Type} [DecidableEq α] (d : α) (m : Sparse α) : Bool :=
  decide (m.Pairwise (fun p q => p.1 < q.1)) && m.all (fun p => decide (p.2 ≠ d))

/-- Bits lo + n − 1 … lo of a number. -/
def bits (w lo n : Nat) : Nat := w / 2 ^ lo % 2 ^ n

/-- The same as a bit vector. -/
def field (n w lo : Nat) : BitVec n := BitVec.ofNat n (w / 2 ^ lo)

/-- Bit t of a lane mask. -/
def bit (m : Word) (t : Nat) : Bool := m.getLsbD t

/-- The lanes 0 to 63 in ascending order. -/
def lanes : List Nat := List.range 64

/-- The mask that holds the lanes for which `f` holds. -/
def maskOf (f : Nat → Bool) : Word :=
  BitVec.ofNat 64 (lanes.foldl (fun a t => if f t then a + 2 ^ t else a) 0)

/-- A list with `a` put before the first element that `le` puts it before. -/
def insertBy {α : Type} (le : α → α → Bool) (a : α) : List α → List α
  | [] => [a]
  | b :: r => if le a b then a :: b :: r else b :: insertBy le a r

/-- A list in the order of `le`. -/
def sortBy {α : Type} (le : α → α → Bool) : List α → List α
  | [] => []
  | a :: r => insertBy le a (sortBy le r)

/-- The lanes of a mask, ascending. -/
def lanesOf (m : Word) : List Nat := lanes.filter (bit m)

end Sys2Proof.Machine
end

