-- ==== Sys2Proof/Config.lean ====
section
/-!
DEFINITION. What a part fixes, and the free values: functions without a body that stand where the manual
gives no value (notes/assumptions/3.md, 4.md). Nothing in Lean can evaluate a free value.
-/

namespace Sys2Proof

/-- A part (R3, R186): its die count and units, its stepping class (R361), the GiB populated behind
each CXL port (R205), the package's number in collective rank words (R380), and the packages joined to it by Highlead, each with the
die whose port joins it (R386). -/
structure Part where
  dies16 : Bool
  netx : Bool
  cxl : Bool
  boom : Bool
  xpose : Bool
  sparse : Bool
  stepping : Byte
  cxlGiB : Nat
  package : Nat
  joined : List (Nat × Nat)
  deriving DecidableEq, Repr

/-- The T16 at stepping A1 (R3), with 4 TiB behind each CXL port (R387) and no package joined to it. DESIGN CHOICE (notes/assumptions/29.md). -/
def Part.t16 : Part :=
  { dies16 := true, netx := true, cxl := true, boom := true, xpose := true, sparse := true
    stepping := 0xA1, cxlGiB := 4096, package := 0, joined := [] }

/-- %caps (R186). -/
def capsOf (p : Part) : Word :=
  BitVec.ofNat 64 ((if p.dies16 then 0 else 32) + (if p.netx then 16 else 0) + (if p.cxl then 8 else 0)
    + (if p.boom then 4 else 0) + (if p.xpose then 2 else 0) + (if p.sparse then 1 else 0))

/-- Dies of the part (R3, R4). -/
def diesOf (p : Part) : Nat := if p.dies16 then 16 else 8

/-- FREE (R91): which of the results within the bound the special function number `fn` delivers for an
FP32 operand. It depends on nothing else: R91 makes it the same on every part. -/
opaque Config.sfuPick : Nat → BitVec 32 → Nat
/-- FREE (R308): the sealing MAC of bits 159:0 of a capability. -/
opaque Config.sealMac : BitVec 160 → BitVec 96
/-- FREE (R383): where a firmware image holds its public key, its signature (r and s) and the bytes they sign. -/
opaque Config.firmwareCard : List Byte → List Byte × List Byte × List Byte
/-- FREE (R383): the fused digest of the firmware key. -/
opaque Config.fusedDigest : List Byte
/-- FREE (R383): the private device attestation key, and the secret number of the signature over a digest. -/
opaque Config.attestPrivate : Nat
opaque Config.attestNonce : List Byte → Nat
/-- FREE (R378): mcycle of a Yarder at a read. -/
opaque Config.yarderCycles : Nat → BitVec 64
/-- FREE (R217): the hash that indexes a slice's contention predictor. -/
opaque Config.lineHash : Nat → Nat
/-- FREE (R208): which resident tile a full slice evicts, as an index into its resident tiles. -/
opaque Config.evictPick : Nat → Nat
/-- FREE (R328): busy cycles of a step of the matrix unit beyond those of R6's peak rate. -/
opaque Config.busyCycles : Nat → Nat
/-- FREE (R302): the flags that ranks of other packages raised in the k-th operation on a collective. -/
opaque Config.farFlags : Nat → Nat → Nat

/-- FREE (R378): the result of a `y.rfetch` whose packet cannot be read. -/
opaque Config.rfetchLost : Nat → Word

end Sys2Proof
end

