-- ==== Sys2Proof/Syntax.lean ====
section
/-!
DEFINITION. The instructions and events of spec/opcode_table.json as plain data: one constructor of `Instr`
per row. Operands are the fields of the encodings (06_encoding.md and each instruction's rule); an event's
operands name the unit it happens to and carry what arrives from outside.
-/

namespace Sys2Proof

/-- A scalar register s0 to s63 (R17). -/
abbrev SReg := BitVec 6
/-- A vector register v0 to v127 (R17). -/
abbrev VReg := BitVec 7
/-- A mask register m0 to m7 (R17). -/
abbrev MReg := BitVec 3
/-- A guard slot g0 to g15 (R64). -/
abbrev GReg := BitVec 4
/-- An accumulator tile a0 to a63 (R17). -/
abbrev AReg := BitVec 6

/-- TYPE (R105), in the order of its codes 0x0 to 0xB. -/
inductive Ty
  | i8 | i16 | i32 | i64 | z8 | z16 | z32 | z64 | f32 | f16 | bf16 | qb
  deriving DecidableEq, Repr

/-- A compare condition (R23), in the order of COND (R130). -/
inductive Cond
  | eq | ne | lt | le | gt | ge
  deriving DecidableEq, Repr

/-- A compare code (R130): condition, width code WID, and Z. -/
structure CmpCode where
  cond : Cond
  wid : BitVec 2
  z : Bool
  deriving DecidableEq, Repr

/-- The face qualifier FQ (R26, R106). -/
inductive FQ
  | both | fa | fb
  deriving DecidableEq, Repr

/-- A scalar shift count: a register or an immediate (R128). -/
inductive Cnt
  | reg (b : SReg)
  | imm (n : BitVec 6)
  deriving DecidableEq, Repr

/-- One source, one destination: the VR form, or the VT form (R104, R149). -/
inductive VUn
  | vr (fq : FQ) (vd va : VReg)
  | vt (vdA vdB vaA vaB : VReg)
  deriving DecidableEq, Repr

/-- Two sources, one destination: VR or VT (R104, R149). -/
inductive VBin
  | vr (fq : FQ) (vd va vb : VReg)
  | vt (vdA vdB vaA vaB vbA vbB : VReg)
  deriving DecidableEq, Repr

/-- `v.mad` and `v.fma`: three sources in VR, the shared addend in VT (R149). -/
inductive VTer
  | vr (fq : FQ) (vd va vb vc : VReg)
  | vt (vdA vdB vaA vaB vbA vbB : VReg)
  deriving DecidableEq, Repr

/-- The VI form's operands (R104, R152). -/
structure VImm where
  fq : FQ
  vd : VReg
  va : VReg
  imm : BitVec 16
  deriving DecidableEq, Repr

/-- The second operand of `v.shfl` and `v.bcast`: a register or IMM (R167). -/
inductive ShSrc
  | reg (vb : VReg)
  | imm (n : BitVec 6)
  deriving DecidableEq, Repr

/-- The fields of `wait` (R179). -/
structure WaitArg where
  etc : Bool
  tcv : BitVec 4
  ecc : Bool
  ccv : BitVec 5
  esc : Bool
  scv : BitVec 6
  elc : Bool
  lcv : BitVec 6
  deriving DecidableEq, Repr

/-- The VM form's fields (R104). `off` is bits 31:18: OFF for AM 0b00; INDEX (31:25) and AUX (24:18) for
AM 0b01; AUX for AM 0b10. `p` is OPX bit 4. An instruction without a type suffix has `ty` = TYPE 0x0. -/
structure MOp where
  m : MReg
  data : BitVec 7
  base : SReg
  off : BitVec 14
  fq : FQ
  acc : BitVec 2
  scope : BitVec 3
  am : BitVec 2
  d : Bool
  p : Bool
  ty : Ty
  deriving DecidableEq, Repr

/-- A group: its launch tag, its core's linear index (R37) and %grp. -/
structure GId where
  tag : Nat
  core : Nat
  grp : Nat
  deriving DecidableEq, Repr

/-- A master of a request: its identity (R375) and the context it carries, if any (a host carries none, R376). -/
structure Master where
  ident : Nat
  ctx : Option Nat
  deriving DecidableEq, Repr

/-- One 64-byte write to a notify-block register of a die (R310). -/
structure NWrite where
  die : Nat
  by_ : Master
  data : List Byte
  deriving DecidableEq, Repr

/-- A Highlead request header with its data (R385). `resv` holds the reserved bits 246:240, 183:176 and 127:0. -/
structure HlReq where
  die : Nat
  opc : Byte
  ord : Bool
  srcid : BitVec 16
  tag : BitVec 16
  len : BitVec 16
  status : Byte
  addr : BitVec 48
  resv : BitVec 143
  data : List Byte
  deriving DecidableEq, Repr

/-- A Boom message (R386). -/
structure BoomMsg where
  kind : Nat
  coll : Nat
  k : Nat
  src : Nat
  dst : Nat
  seg : Nat
  phase : Nat
  payload : List Byte
  status : Nat
  deriving DecidableEq, Repr

/-- The figures of one sampler record that are times, in cycles (R357): inputs. -/
structure SampleTimes where
  fetch : BitVec 16
  issue : BitVec 16
  opnd : BitVec 16
  exec : BitVec 16
  wb : BitVec 16
  sat : Bool
  deriving DecidableEq, Repr

/-- One constructor per row of spec/opcode_table.json. -/
inductive Instr
  -- scalar slot, row 0x0 to 0x2 (R125 to R137)
  | nop
  | sAdd (d a b : SReg) | sSub (d a b : SReg) | sAddi (d a : SReg) (imm : BitVec 32)
  | sMul (d a b : SReg) | sMulh (d a b : SReg) | sMulhz (d a b : SReg)
  | sDiv (d a b : SReg) | sDivz (d a b : SReg) | sRem (d a b : SReg) | sRemz (d a b : SReg)
  | sAnd (d a b : SReg) | sOr (d a b : SReg) | sXor (d a b : SReg)
  | sAndi (d a : SReg) (imm : BitVec 32) | sOri (d a : SReg) (imm : BitVec 32) | sXori (d a : SReg) (imm : BitVec 32)
  | sNot (d a : SReg)
  | sShl (d a : SReg) (n : Cnt) | sShr (d a : SReg) (n : Cnt) | sSra (d a : SReg) (n : Cnt) | sRot (d a : SReg) (n : Cnt)
  | sClz (d a : SReg) | sPopc (d a : SReg)
  | sBfx (d a : SReg) (sx : Bool) (len : BitVec 7) (pos : BitVec 6)
  | sBfi (d a : SReg) (len : BitVec 7) (pos : BitVec 6)
  | sMin (d a b : SReg) | sMax (d a b : SReg) | sMinz (d a b : SReg) | sMaxz (d a b : SReg)
  | sSel (d a b c : SReg) | sCmp (d a b : SReg) (code : CmpCode)
  | sMovi (d : SReg) (imm : BitVec 32) | sMovhi (d a : SReg) (imm : BitVec 32) | sLea (d : SReg) (imm : BitVec 32)
  | sSetfmtImm (imm : BitVec 32) | sSetfmtReg (a : SReg) | sGetfmt (d : SReg)
  | sGset (k : GReg) (a b : SReg) (code : CmpCode) | sGclr (k : GReg)
  -- row 0x3 (R138 to R146)
  | br (off : BitVec 38) | bcc (a b : SReg) (code : CmpCode) (off : BitVec 20)
  | jmp (a : SReg) (imm : BitVec 32) | brx (a b : SReg) (limit : BitVec 20)
  | call (mt : Bool) (off : BitVec 38) | callx (mt : Bool) (a : SReg) | ret (a : SReg)
  | loopS (d : SReg) (off : BitVec 38) | sYield | sEnd
  -- rows 0x4, 0x5 (R174 to R194)
  | barGrp (kind : BitVec 2) | barBlk (kind : BitVec 2) (n : BitVec 4)
  | barClu (kind : BitVec 2) (n : BitVec 4) | barGrid (kind : BitVec 2) (n : BitVec 4)
  | wait (c : WaitArg)
  | gLd (k : GReg) (a b : SReg) (off : BitVec 15) (scope : BitVec 3) (acc : BitVec 2) (code : CmpCode)
  | draw (n : SReg) (k : GReg) | deal (n : SReg) | idem
  | sGetsr (d : SReg) (num : BitVec 8) | sSetsr (num : BitVec 8) (a : SReg) | sSys (d : SReg) (sel : BitVec 5)
  | trap (e : BitVec 16) | brk (e : BitVec 16) | rett (mode : BitVec 2)
  | sBudget (d : SReg) (sel : BitVec 2) | halt | ifence (a b : SReg)
  -- row 0x6 (R286)
  | mZero (d : AReg)
  | mMma (d : AReg) (a b k : SReg) (la lb : Bool)
  | mMmas (d : AReg) (a b k : SReg) (la lb : Bool) (i : SReg) (nc : BitVec 2)
  | mLd (d : AReg) (a : SReg) (ty : Ty) (w : BitVec 4) (l : Bool)
  | mSt (d : AReg) (a : SReg) (ty : Ty) (w : BitVec 4) (l : Bool)
  | mXpose (d s : AReg) | mPerm (d s : AReg) (p : SReg) | mRsum (d s : AReg) | mScale (d s : AReg) (v : VReg)
  -- row 0x7 (R300, R302)
  | cCopy (d a b : SReg) (ldst lsrc ord : Bool)
  | cCopyt (d a b : SReg) (ldst lsrc ord : Bool) (g : BitVec 2)
  | cFill (d a : SReg) (byte : Byte) (ldst : Bool)
  | cSend (d a b : SReg) (lsrc ord tm : Bool) (treg : SReg)
  | cSig (a : SReg)
  | xAllred (a : SReg) (op : BitVec 4) (ty : Ty) (w : BitVec 4)
  | xAllmax (a : SReg) (ty : Ty) | xBcast (a : SReg) (ty : Ty) | xGather (a : SReg) (ty : Ty) | xWait (d : SReg)
  -- vector slot, rows 0x00 to 0x03 (R151 to R156); `m` is MASK (R103)
  | vNop
  | vAdd (m : MReg) (o : VBin) (t : Ty) | vSub (m : MReg) (o : VBin) (t : Ty) | vMul (m : MReg) (o : VBin) (t : Ty)
  | vMad (m : MReg) (o : VTer) (t : Ty) | vMulhi (m : MReg) (o : VBin) (t : Ty)
  | vMin (m : MReg) (o : VBin) (t : Ty) | vMax (m : MReg) (o : VBin) (t : Ty)
  | vAbs (m : MReg) (o : VUn) (t : Ty) | vNeg (m : MReg) (o : VUn) (t : Ty)
  | vAnd (m : MReg) (o : VBin) (t : Ty) | vOr (m : MReg) (o : VBin) (t : Ty) | vXor (m : MReg) (o : VBin) (t : Ty)
  | vNot (m : MReg) (o : VUn) (t : Ty)
  | vShl (m : MReg) (o : VBin) (t : Ty) | vShr (m : MReg) (o : VBin) (t : Ty) | vSra (m : MReg) (o : VBin) (t : Ty)
  | vClz (m : MReg) (o : VUn) (t : Ty) | vPopc (m : MReg) (o : VUn) (t : Ty)
  | vAddImm (m : MReg) (o : VImm) (t : Ty) | vSubImm (m : MReg) (o : VImm) (t : Ty) | vMulImm (m : MReg) (o : VImm) (t : Ty)
  | vMinImm (m : MReg) (o : VImm) (t : Ty) | vMaxImm (m : MReg) (o : VImm) (t : Ty)
  | vAndImm (m : MReg) (o : VImm) (t : Ty) | vOrImm (m : MReg) (o : VImm) (t : Ty) | vXorImm (m : MReg) (o : VImm) (t : Ty)
  | vShlImm (m : MReg) (o : VImm) (t : Ty) | vShrImm (m : MReg) (o : VImm) (t : Ty) | vSraImm (m : MReg) (o : VImm) (t : Ty)
  | vBfx (m : MReg) (fq : FQ) (vd va : VReg) (t : Ty) (len : BitVec 6) (pos : BitVec 5)
  | vSel (m : MReg) (fq : FQ) (vd va vb : VReg) (k : MReg)
  | vMov (m : MReg) (o : VUn)
  | vMovi (m : MReg) (fq : FQ) (vd : VReg) (t : Ty) (imm : BitVec 16)
  | vMovs (m : MReg) (fq : FQ) (vd : VReg) (s : SReg) (hi : Bool)
  | vLane (m : MReg) (fq : FQ) (vd : VReg) (sel : BitVec 3)
  | vCmpEq (m : MReg) (fq : FQ) (k : MReg) (va vb : VReg) (t : Ty) | vCmpNe (m : MReg) (fq : FQ) (k : MReg) (va vb : VReg) (t : Ty)
  | vCmpLt (m : MReg) (fq : FQ) (k : MReg) (va vb : VReg) (t : Ty) | vCmpLe (m : MReg) (fq : FQ) (k : MReg) (va vb : VReg) (t : Ty)
  | vCmpGt (m : MReg) (fq : FQ) (k : MReg) (va vb : VReg) (t : Ty) | vCmpGe (m : MReg) (fq : FQ) (k : MReg) (va vb : VReg) (t : Ty)
  | vCmpEqImm (m : MReg) (fq : FQ) (k : MReg) (va : VReg) (t : Ty) (imm : BitVec 16)
  | vCmpNeImm (m : MReg) (fq : FQ) (k : MReg) (va : VReg) (t : Ty) (imm : BitVec 16)
  | vCmpLtImm (m : MReg) (fq : FQ) (k : MReg) (va : VReg) (t : Ty) (imm : BitVec 16)
  | vCmpLeImm (m : MReg) (fq : FQ) (k : MReg) (va : VReg) (t : Ty) (imm : BitVec 16)
  | vCmpGtImm (m : MReg) (fq : FQ) (k : MReg) (va : VReg) (t : Ty) (imm : BitVec 16)
  | vCmpGeImm (m : MReg) (fq : FQ) (k : MReg) (va : VReg) (t : Ty) (imm : BitVec 16)
  -- rows 0x04, 0x05 (R157 to R166)
  | vFadd (m : MReg) (o : VBin) (t : Ty) | vFsub (m : MReg) (o : VBin) (t : Ty) | vFmul (m : MReg) (o : VBin) (t : Ty)
  | vFma (m : MReg) (o : VTer) (t : Ty) | vFmin (m : MReg) (o : VBin) (t : Ty) | vFmax (m : MReg) (o : VBin) (t : Ty)
  | vFclass (m : MReg) (fq : FQ) (vd va : VReg) (t : Ty)
  | vTwosum (m : MReg) (fq : FQ) (vd va vb vc : VReg)
  | vFcmpEq (m : MReg) (fq : FQ) (k : MReg) (va vb : VReg) (t : Ty) | vFcmpNe (m : MReg) (fq : FQ) (k : MReg) (va vb : VReg) (t : Ty)
  | vFcmpLt (m : MReg) (fq : FQ) (k : MReg) (va vb : VReg) (t : Ty) | vFcmpLe (m : MReg) (fq : FQ) (k : MReg) (va vb : VReg) (t : Ty)
  | vFcmpGt (m : MReg) (fq : FQ) (k : MReg) (va vb : VReg) (t : Ty) | vFcmpGe (m : MReg) (fq : FQ) (k : MReg) (va vb : VReg) (t : Ty)
  | vCvt (m : MReg) (fq : FQ) (vd va : VReg) (src dst : Ty)
  | vPack (m : MReg) (fq : FQ) (vd va vb : VReg) (t : Ty)
  | vUnpack (m : MReg) (fq : FQ) (vd va : VReg) (hi : Bool) (t : Ty)
  | vQpack (m : MReg) (fq : FQ) (vd va vc : VReg) (w : BitVec 4)
  | vQunpack (m : MReg) (fq : FQ) (vd va vb : VReg) (w : BitVec 4)
  | vRcp (m : MReg) (o : VUn) (t : Ty) | vRsqrt (m : MReg) (o : VUn) (t : Ty) | vSqrt (m : MReg) (o : VUn) (t : Ty)
  | vExp2 (m : MReg) (o : VUn) (t : Ty) | vLog2 (m : MReg) (o : VUn) (t : Ty)
  | vSinpi (m : MReg) (o : VUn) (t : Ty) | vCospi (m : MReg) (o : VUn) (t : Ty)
  -- row 0x06 (R167 to R172)
  | vShfl (m : MReg) (fq : FQ) (vd va : VReg) (src : ShSrc) (mode : BitVec 2)
  | vBcast (m : MReg) (fq : FQ) (vd va : VReg) (src : ShSrc)
  | vRedx (m : MReg) (fq : FQ) (vd va : VReg) (op : BitVec 4) (t : Ty)
  | vScan (m : MReg) (fq : FQ) (vd va : VReg) (x : Bool) (op : BitVec 4) (t : Ty)
  | vBallot (m : MReg) (fq : FQ) (k : MReg) (va : VReg) (t : Ty)
  | kAnd (m : MReg) (fq : FQ) (d a b : MReg) | kOr (m : MReg) (fq : FQ) (d a b : MReg) | kXor (m : MReg) (fq : FQ) (d a b : MReg)
  | kNot (m : MReg) (fq : FQ) (d a : MReg) | kMov (m : MReg) (fq : FQ) (d a : MReg)
  | kPopc (m : MReg) (fq : FQ) (vd : VReg) (a : MReg) | kFirst (m : MReg) (fq : FQ) (d a : MReg)
  -- rows 0x08 to 0x0A (R224)
  | ld (o : MOp) | st (o : MOp) | ldv (o : MOp) | stv (o : MOp)
  | lds (o : MOp) | sts (o : MOp) | ldsv (o : MOp) | stsv (o : MOp)
  | rdc (o : MOp) | stLog (o : MOp) | tlogFlush (o : MOp) | tlogLen (o : MOp)
  | fence (o : MOp) | waitw (o : MOp) | pf (o : MOp) | ipf (o : MOp)
  | atomAdd (o : MOp) | atomMin (o : MOp) | atomMax (o : MOp) | atomAnd (o : MOp)
  | atomOr (o : MOp) | atomXor (o : MOp) | atomXchg (o : MOp) | atomCas (o : MOp)
  | redAdd (o : MOp) | redMin (o : MOp) | redMax (o : MOp) | redAnd (o : MOp)
  | redOr (o : MOp) | redXor (o : MOp) | redFadd (o : MOp) | redFaddc (o : MOp)
  | elide (o : MOp) | elidend (o : MOp) | eliabort (o : MOp)
  -- row 0x0C (R248)
  | brv (k : MReg) (off : BitVec 39) | join | meld (k : MReg) (off : BitVec 39) | meldend
  | demote (fq : FQ) (k : MReg) | exit (fq : FQ) (k : MReg)
  | loopv (v : VReg) (off : BitVec 39) | loopvEnd
  | bany (k : MReg) (off : BitVec 39) | ball (k : MReg) (off : BitVec 39)
  -- Yarder custom-0 (R378)
  | yRfetch (d a b : BitVec 5) | yBfx (d a b : BitVec 5) | ySwait (d a b : BitVec 5) | yDisp (d a b : BitVec 5)
  -- events of the Yarders, the cores and the memory side
  | ySwaitWake (y : Nat)
  | spinDemotion (g : GId) | loadCompletion (g : GId) | storeCompletion (g : GId)
  | homeSliceAccess (g : GId) (op acc : Nat)
  | tileFetch (tile : Nat) (bad : Bool) | tileEviction (tile : Nat)
  | lineBufferWriteBack (core line : Nat)
  | translationWalk (die ctx : Nat) (va : Word)
  | chuteFill (core : Nat) (line : Nat) | ifenceDiscard (g : GId) (path : Nat)
  -- events of the engines
  | skidderCompletion (core : Nat) | matrixKStep (core : Nat) | tileOperationComplete (core : Nat)
  | boomOperationComplete (g : GId) (id : Nat)
  -- events of waiting paths
  | barrierArrivalSignal (g : GId) (level n : Nat) | waitwWake (g : GId) (path : Nat)
  | drawWake (g : GId) (path : Nat) | dealEntry (g : GId) (path : Nat)
  | elisionCommit (g : GId) | eventDelivery (g : GId)
  -- events of queues, launches and the Dealer
  | launchCompletion (tag : Nat)
  | notify (w : NWrite) | notifyForward (die : Nat) | queueTakeUp (die : Nat)
  | abort (w : NWrite) | rearm (w : NWrite) | query (w : NWrite) | nrefusedClear (die : Nat) (m : Master) (v : Word)
  | packetDispatch (q : Nat) | barrierSignalRead (q pkt idx : Nat)
  | launchPlacement (part : Nat) | politeWindowExpiry (tag : Nat) | shadowSwap (tag core : Nat)
  | budgetOverrun (tag : Nat) | budgetReport (tag : Nat)
  -- events of the platform
  | clklockWrite (m : Master) (v : Word) | clockChange | pwrgateWrite (m : Master) (die : Nat) (v : Word)
  | partitionWrite (m : Master) (p : Nat) (v : Word)
  | accessWindowWrite (m : Master) (die group win : Nat) (v : Word)
  | registerWrite (m : Master) (addr : Nat) (data : List Byte)
  | shootdownRequest (m : Master) (data : List Byte) | shootdownCompletion
  | attestationRequest (m : Master) (data : List Byte) | mintreq (m : Master) (die : Nat) (data : List Byte)
  | svcResume (m : Master) (die : Nat) (v : Word) | svcEnd (m : Master) (die : Nat) (v : Word)
  | debugHaltLaunch (m : Master) (ctx : Nat) (v : Word) | debugResumeLaunch (m : Master) (ctx : Nat) (v : Word)
  | debugResumeGroup (m : Master) (ctx : Nat) (v : Word)
  | gstateWrite (m : Master) (ctx off : Nat) (data : List Byte) | gpoolWrite (m : Master) (ctx off : Nat) (data : List Byte)
  | safePointHalt (g : GId) (path : Nat) | samplerTag (g : GId) (path : Nat) | sampleRecord (core : Nat) (t : SampleTimes)
  | thermalTrip (die : Nat) | packageReset | firmwareCheck (image : List Byte) | memoryTraining | linkUp
  | highleadRead (r : HlReq) | highleadWrite (r : HlReq)
  | highleadReadResponse (die : Nat) (tag : BitVec 16) (status : Byte) (data : List Byte)
  | highleadWriteResponse (die : Nat) (tag : BitVec 16) (status : Byte)
  | highleadStop (die : Nat) | highleadReplay (die : Nat)
  | boomData (b : BoomMsg) | boomAcknowledgement (b : BoomMsg) | boomHaltNotice (b : BoomMsg) | boomResumeNotice (b : BoomMsg)
  | boomFailure (b : BoomMsg) | boomResend (b : BoomMsg) | collectiveTimeout (g : GId) (id : Nat)
  | senderReplay (die n : Nat)
  deriving DecidableEq, Repr

end Sys2Proof
end

