-- ==== Sys2Proof/Machine/State.lean ====
section
/-!
DEFINITION. The state of a Tamtik T16 package as plain data, and the state after package reset.
Every structure cites the rule that gives it. INVENTORY.md lists every field with its reset value.
-/

namespace Sys2Proof.Machine

/-- A guard slot's value (R64). -/
inductive Guard
  | unres | isTrue | isFalse
  deriving DecidableEq, Repr

/-- What a path waits for before it issues its next word (R50, R174, R335, R341). Both slots of a word may leave one. -/
inductive Wait
  /-- `wait`: the enabled counters (R179) -/
  | counters (c : WaitArg)
  /-- `fence`: every LC and SC operation whose number is below `n` has retired (R239) -/
  | fence (n : Nat)
  /-- a barrier wait: level 0 to 3 for group, block, cluster, grid; number; the phase awaited (R176) -/
  | barrier (level n phase : Nat)
  /-- `waitw`: address, bytes, scratchpad or global, comparand, and the number of its read (R240) -/
  | waitw (a : Word) (w : Nat) (l : Bool) (v : Word) (n : Nat)
  /-- `draw` on an empty shoe; the path's pc stays on the draw word `w`, `nxt` is the word after it (R181), or `w` itself where the whole word
  issues only then: its vector slot is one of row 0x0C -/
  | draw (n : SReg) (k : GReg) (w nxt : Word)
  /-- `deal` to a full shoe, or behind a waiting one of its group: the coordinate, the deal's own word `w`, on which the path's pc stays,
  the word after it, as for `draw`, and its place in the order of issue (R41, R182) -/
  | deal (c0 c1 c2 c3 : BitVec 32) (w nxt : Word) (n : Nat)
  /-- `ifence`: the range, and the operation number before which SC must have retired (R194) -/
  | ifence (a len : Word) (n : Nat)
  /-- `x.wait`: status register, and the operation number before which Boom operations must have ended (R305) -/
  | xwait (d : SReg) (n : Nat)
  /-- standing at the `join` at `w`; whether a child has fused into the path there (R253) -/
  | join (w : Word) (fused : Bool)
  /-- standing at the `meldend` at `w` (R257) -/
  | meldend (w : Word) (fused : Bool)
  /-- `elidend` of the region, until it commits (R245) -/
  | elidend
  deriving DecidableEq, Repr

/-- A path (R55, R250): the undivided path, or a split-table entry. `parent` is a path number: 0 is the
undivided path (PARENT 0xF), e + 1 is entry e. -/
structure Path where
  mask : Word
  pc : Word
  fmt : BitVec 32
  fmtc : BitVec 32
  parent : Nat
  mdep : Nat
  ldep : Nat
  waits : List Wait
  /-- lanes that `rett.excl` removes from the effective mask of the next word only (R191) -/
  excl : Word
  /-- the engine command of the word at pc is already enqueued under an unresolved guard (R65) -/
  bound : Bool
  deriving DecidableEq, Repr

/-- A face-stack record (R58); a call record has END bits 3:0 = 0b0001 (R259). -/
structure FaceRec where
  facea : Word
  entry : Word
  stop : Word
  fmtc : BitVec 32
  deriving DecidableEq, Repr

/-- A loop-stack record (R142, R261). `count` is COUNT for KIND 0 and LMASK for KIND 1. -/
structure LoopRec where
  kind : Bool
  start : Word
  stop : Word
  count : Word
  entry : Word
  regn : VReg
  deriving DecidableEq, Repr

/-- The checkpoint (R183). -/
structure Checkpoint where
  ckv : Bool
  ckpc : Word
  mask : Word
  loops : List LoopRec
  fmt : BitVec 32
  flags : Word
  guards : Sparse Guard
  deriving DecidableEq, Repr

/-- What one memory operation does at its target (R209, R230 to R238). -/
inductive MemKind
  | load | gld | store | logStore | rdc | tlogLen | tlogFlush | faddc | fadd
  /-- a read-modify-write: add, signed and unsigned min and max, and, or, xor, xchg, cas; returning or not -/
  | rmw (op : Nat) (returns : Bool)
  deriving DecidableEq, Repr

/-- How far one access has come: not performed, queued behind a tile fetch (R215), performed, failed with a code, given up since
another access of its operation failed (R336). -/
inductive AccSt
  | pending | queued | done | failed (code : Nat) | dropped
  deriving DecidableEq, Repr

/-- One access of one thread, or of the group (R228). `data` is the operand of a write and then the value
read; `data2` is a comparand, or the upper half of a 16-byte `st.log`. -/
structure Acc where
  thread : Nat
  va : Word
  pa : Nat
  size : Nat
  data : Word
  data2 : Word
  st : AccSt
  deriving DecidableEq, Repr

/-- Where an LC operation writes when it completes (R116). -/
inductive Dest
  | none
  | sreg (d : SReg)
  | vreg (d : VReg)
  | guard (k : GReg) (code : CmpCode) (v : Word)
  deriving DecidableEq, Repr

/-- An operation in a group's load or store queue (R116, R119). `held` marks a store held by an open
elided region (R242), `counted` is false for the held write half of an atomic, which no counter counts, `loc` a
scratchpad operation, `level` the sampler's memory level so far (R358), `appended` the highest SEQ it appended and the
tile's physical address (R338). `after` is the wait of the word's scalar slot that its accesses follow (R272), `pair` the held
write half of a returning atomic's read half (R242), `quiet` that its region has aborted, so that a fault of it traps nothing (R243),
`member` that a member of the region then open issued it (R241), `rel` that it is a release (R270), `readBy` the earliest load of its group
that has read the store while it was queued (R230). -/
structure QOp where
  id : Nat
  word : Word
  path : Nat
  kind : MemKind
  ty : Ty
  accs : List Acc
  dest : Dest
  loc : Bool
  held : Bool
  counted : Bool
  level : Nat
  appended : Option (Nat × Nat)
  after : Option Wait
  pair : Option Nat
  quiet : Bool
  member : Bool
  rel : Bool
  readBy : Option Nat
  deriving DecidableEq, Repr

/-- An open elided region (R241). `reads` is the read set as physical 128-byte line numbers, `start` the number of the
first operation issued in the region. -/
structure Region where
  fallback : Word
  k : GReg
  path : Nat
  mask : Word
  nsplit : List Nat
  nface : Nat
  nloop : Nat
  nest : Nat
  reads : List Nat
  members : List Nat
  start : Nat
  deriving DecidableEq, Repr

/-- A group's arrival at a barrier (R176): level, number, the phase it arrived in, the lanes that share its flag, whose path has not yet
passed its wait, the lanes that have arrived, whether the signal is sent (R177), and the operation number before which SC must have retired. At a
group barrier a path arrives for its LIVE active lanes; above, for every lane that is its own (R53). -/
structure BarRec where
  level : Nat
  n : Nat
  phase : Nat
  share : Word
  lanes : Word
  signalled : Bool
  before : Nat
  deriving DecidableEq, Repr

/-- A held event or class A fault (R335). -/
structure HeldEv where
  code : Nat
  arg : Nat
  addr : Word
  deriving DecidableEq, Repr

/-- What handler entry keeps for `rett` (R334). -/
structure Kept where
  path : Nat
  mask : Word
  fmt : BitVec 32
  nsplit : Nat
  nface : Nat
  nloop : Nat
  waits : List Wait
  /-- the word whose engine command is already enqueued (R65) -/
  bound : Option Word
  /-- a word that `rett.excl` has not yet seen issue, and the lanes it lacks (R191) -/
  excl : Option (Word × Word)
  code : Nat
  deriving DecidableEq, Repr

/-- A word that a path halted before, or would have issued next when its group halted: it issues without a step's halt, and, where
`points` is set, without a breakpoint's (R352, R353). -/
structure Skip where
  path : Nat
  word : Word
  points : Bool
  deriving DecidableEq, Repr

/-- A group's place in R333. RUN, BLOCK and HANDLER are `active`, told apart by H and by its paths' waits. -/
inductive GStatus
  | active
  | halted
  /-- saved; `true` for saved marked halted (R346) -/
  | saved (wasHalted : Bool)
  | stopped
  | retired
  deriving DecidableEq, Repr

/-- A group (R34, R187, R344). -/
structure Group where
  status : GStatus
  sregs : Sparse Word
  /-- element (register, thread) at 64 × register + thread -/
  vregs : Sparse Lane
  mregs : Sparse Word
  guards : Sparse Guard
  flags : Word
  xpc : Word
  xcode : Word
  faultmask : Word
  faultface : Word
  faultaddr : Word
  elcause : BitVec 4
  elcode : Byte
  spord : BitVec 32
  svc : Bool
  h : Bool
  /-- primary, matrix, Skidder and log-apply budgets last reported (R192) -/
  budleft : List Nat
  ck : Checkpoint
  helper : Word
  gone : Word
  root : Path
  split : Sparse Path
  face : List FaceRec
  loops : List LoopRec
  lc : Nat
  sc : Nat
  cc : Nat
  tc : Nat
  loadq : List QOp
  storeq : List QOp
  spin : Nat
  spinWord : Option (Bool × Nat)
  region : Option Region
  bars : List BarRec
  held : List HeldEv
  kept : Option Kept
  /-- the last 64 issued word addresses, newest first (R359) -/
  hist : List Word
  haltReq : Bool
  stepReq : Bool
  /-- HALTED by `halt`: only the Yarder that launched the group resumes it (R193) -/
  byHalt : Bool
  /-- the words that a resumed group issues without being halted before them (R352, R353) -/
  skip : List Skip
  /-- the polite window has ended: the group issues nothing more and is cut back once its queues are empty (R342) -/
  cutback : Bool
  deriving DecidableEq, Repr

/-- A range-lock entry (R220): registering command, scratchpad or global, write or read lock, first and last byte as signed
addresses. -/
structure Lock where
  id : Nat
  loc : Bool
  wr : Bool
  lo : Int
  hi : Int
  deriving DecidableEq, Repr

/-- An operand descriptor as read at issue (R29, R284). -/
structure Desc where
  base : Word
  stride : Word
  off : Word
  loc : Bool
  deriving DecidableEq, Repr

/-- A guard binding of an engine command (R65): slot, GNEG, and its fate: none yet, run, discard. -/
structure Bind where
  k : GReg
  neg : Bool
  fate : Option Bool
  deriving DecidableEq, Repr

/-- A tile operation in the core's tile-operation queue (R283, R291). `rows` is S, `live` the rows whose thread was
LIVE; `vals` is v[V] for `m.scale`. -/
structure TileOp where
  id : Nat
  grp : Nat
  word : Word
  op : Instr
  rows : Word
  live : Word
  fmt : BitVec 32
  da : Desc
  db : Desc
  kval : Nat
  ival : Word
  vals : List Lane
  bind : Option Bind
  next : Nat
  begun : Bool
  flags : Word
  fault : Option (Nat × Word)
  deriving DecidableEq, Repr

/-- A Skidder command in the core's copy queue (R294 to R299). -/
structure CopyOp where
  id : Nat
  grp : Nat
  word : Word
  op : Instr
  dst : Word
  src : Word
  ldst : Bool
  lsrc : Bool
  ord : Bool
  xpose : Bool
  target : Nat
  elog : Nat
  ext : List Nat
  srcs : List Word
  dsts : List Word
  ckind : Nat
  cval : Word
  caddr : Word
  fill : Option Byte
  bind : Option Bind
  suppressed : Bool
  bytes : Nat
  deriving DecidableEq, Repr

/-- Where the group state of a workgroup lies (R344): on its core, in shadow storage, or paged to the save area. -/
inductive Place
  | core | shadow | saveArea
  deriving DecidableEq, Repr

/-- A workgroup: what one launch holds on one core (R195, R198, R344). Element (i, j) of tile a is at
4096 × a + 64 × i + j. `paged` says that its granules have been paged out of the pool. -/
structure Workgroup where
  stage : Nat
  place : Place
  paged : Bool
  order : Nat
  scratch : Sparse Byte
  acc : Sparse (BitVec 32)
  tileq : List TileOp
  copyq : List CopyOp
  locks : List Lock
  retired : Bool
  deriving DecidableEq, Repr

/-- How a tagged word ended: its operations ended; a fault cut it short; or its launch's end cut it off before its operations completed,
or between their completion and their retirement (R357). -/
inductive SampleEnd
  | whole | faulted | inExec | inWb
  deriving DecidableEq, Repr

/-- A tagged word of the sampler (R356, R357): its operations are those numbered from `id0` on, with `id1` past them, and the engine
command `bound` that it had enqueued before. `waits` are the waits that it has left its path. -/
structure TagRec where
  dtime : Word
  gid : GId
  path : Nat
  deck : Word
  offs : BitVec 32
  spord : BitVec 32
  vs : Bool
  gf : Bool
  id0 : Nat
  id1 : Nat
  bound : Option Nat
  fate : SampleEnd
  lq : Nat
  sq : Nat
  cq : Nat
  tq : Nat
  level : Nat
  waits : List Wait
  deriving DecidableEq, Repr

/-- A line of an instruction cache (R222): context, virtual line number, its 128 bytes. -/
structure ILine where
  ctx : Nat
  line : Nat
  bytes : List Byte
  deriving DecidableEq, Repr

/-- A core (R49): the launch placed on it (0 for none), its active and pending groups in order of age
and of waiting, for each ready pending group the swaps that have passed it over (R51), instruction cache, fills requested by `ipf` and not yet arrived (context, line; R194, R246), atomic
line buffer with the tag of the workgroup that used each line last (R218), sampler (R356): `due` is a tagged word whose tag SAMPLER_TAG has not yet taken up, `sample` the tag outstanding. -/
structure Core where
  tag : Nat
  active : List Nat
  pending : List Nat
  passed : Sparse Nat
  icache : List ILine
  fills : List (Nat × Nat)
  lineBuf : List (Nat × Nat)
  lfsr : BitVec 24
  countdown : Nat
  due : Option TagRec
  sample : Option TagRec
  deriving DecidableEq, Repr

/-- A tile-log entry (R210). `order` is the place of its append among all appends of the package: the age that R214 compares. -/
structure LogEntry where
  opnd : Word
  tag : Nat
  seq : Nat
  size : Nat
  op : Nat
  word : Nat
  order : Nat
  deriving DecidableEq, Repr

/-- An access queued behind a tile fetch (R215): the operation of a group's load or store queue and the access; `began` marks the one
that began the fetch, which found the tile non-resident (R217). -/
structure Queued where
  gid : GId
  id : Nat
  acc : Nat
  began : Bool
  deriving DecidableEq, Repr

/-- A tile (R208 to R216). `rewritten` has bit b set once byte b of a poisoned tile has been written through the memory window (R216). -/
structure Tile where
  resident : Bool
  fetching : Bool
  poisoned : Bool
  log : List LogEntry
  seq : Nat
  queue : List Queued
  rewritten : Nat
  deriving DecidableEq, Repr

/-- A LOG_LOST record that is still to be delivered (R216, R340): tile, lowest and highest SEQ, tags. -/
structure LostRec where
  tile : Nat
  lo : Nat
  hi : Nat
  tags : List Nat
  deriving DecidableEq, Repr

/-- A kept translation (R204): die, context, virtual page base, page bytes, physical page base, permissions. -/
structure TlbEntry where
  die : Nat
  ctx : Nat
  vbase : Nat
  bytes : Nat
  pbase : Nat
  r : Bool
  w : Bool
  x : Bool
  deriving DecidableEq, Repr

/-- A stage's tile shoe (R39 to R42). Stage 0 counts dispensed coordinates; a later stage is a FIFO. -/
structure Shoe where
  ext : List Nat
  given : Nat
  fifo : List (List (BitVec 32))
  deriving DecidableEq, Repr

/-- The phase count of a barrier of a launch (R54): level, number, the scope's index (group key, core,
cluster, or 0), and how many phases have completed. -/
structure Phase where
  level : Nat
  n : Nat
  at_ : Nat
  count : Nat
  deriving DecidableEq, Repr

/-- A launch's state (R326); `placing true` restores saved workgroups. -/
inductive LState
  | admitted | placing (restore : Bool) | running | saved | completing
  deriving DecidableEq, Repr

/-- An entry of a launch's partial-work table (R338). -/
structure PwEntry where
  kind : Nat
  grp : Nat
  core : Nat
  word : Word
  done : Word
  where_ : Word
  deriving DecidableEq, Repr

/-- A launch (R315, R320 to R330, R337, R366). Budgets are in cycles, cycles, bytes and entries. `owed` holds the events that
the groups get when they are placed (R330); `sp` and `spCount` name the image's safe-point table, and `points` is what the Dealer has loaded of it
(R349); `stopped` lists the reserved cores that have stopped for the launch (R326), and `askedFor` is the launch whose wait for cores made the Dealer ask
for this one's (R327, R328). -/
structure Launch where
  tag : Nat
  ctx : Nat
  state : LState
  queue : Word
  signal : Word
  rscope : Nat
  ascope : Nat
  npre : Bool
  idem : Bool
  svc : Bool
  svcDie : Nat
  /-- the Yarder that launched it (R193, R379) -/
  svcBy : Nat
  part : Nat
  c : Nat
  s : Nat
  deadline : Nat
  prio : Nat
  order : Nat
  args : Word
  deckId : Word
  code : Word
  entry : Word
  handler : Option Word
  pword : BitVec 32
  groups : Nat
  vregs : Nat
  lq : Nat
  sq : Nat
  cq : Nat
  tq : Nat
  budget : List Int
  charged : List Nat
  enforced : Bool
  cores : List Nat
  reserved : List Nat
  asked : Bool
  askedAt : Nat
  askedFor : Nat
  shoes : Sparse Shoe
  phases : List Phase
  sp : Word
  spCount : Nat
  points : List (Nat × Nat)
  stopped : List Nat
  status : Option Nat
  cause : Option GId
  first : Nat
  xpc : Word
  flagsOr : Word
  pwt : List PwEntry
  owed : List HeldEv
  deriving DecidableEq, Repr

/-- A queue's state (R312). -/
inductive QState
  | idle | active | waitslots | hold | aborted | halted
  deriving DecidableEq, Repr

/-- A packet dispatched and not completed (R312, R319): its first slot, type, B, launch tag, and for a BARRIER its
completion signal, scopes, and the watched signals with whether each has read 0. -/
structure Packet where
  at_ : Nat
  typ : Nat
  b : Bool
  tag : Nat
  signal : Word
  rscope : Nat
  watch : List (Word × Bool)
  deriving DecidableEq, Repr

/-- A queue whose state a serving die holds (R309). `covers` keeps, per accepted notify, the index it
covered up to and whether it carried SUBMIT (R311); `need` the slots of the packet that WAITSLOTS waits for; `stalled` that a read of the packet at `ri` faulted and no notify has
been accepted since (R388). -/
structure Queue where
  base : Word
  ridx : Word
  logn : Nat
  owner : Nat
  state : QState
  ri : Nat
  wl : Nat
  covers : List (Nat × Bool)
  inflight : List Packet
  need : Nat
  stalled : Bool
  deriving DecidableEq, Repr

/-- A Yarder (R378): RV64 registers and program counter, local SRAM, the machine trap registers. -/
structure Yarder where
  x : Sparse Word
  pc : Word
  sram : Sparse Byte
  mepc : Word
  mcause : Word
  mtval : Word
  mtvec : Word
  mscratch : Word
  /-- instructions retired -/
  minstret : Word
  /-- the reservation: in SRAM, the first byte, the length -/
  reserve : Option (Bool × Nat × Nat)
  mie : Bool
  mpie : Bool
  meie : Bool
  meip : Bool
  /-- waiting in `y.swait`: rd, address, value -/
  swait : Option (BitVec 5 × Word × Word)
  deriving DecidableEq, Repr

/-- A Boom operation at one rank (R301 to R305, R386). `ranks` holds the collective's rank words, `started` that SRC has been
read, `segs` (phase, segment, rank, bytes) what the rank holds of its own and has received; `left` what is left of its timeout in
nanoseconds, counted from DTIME `since` while it is not frozen (R347, R380). -/
structure BoomOp where
  id : Nat
  gid : GId
  word : Word
  op : Instr
  coll : Nat
  k : Nat
  rank : Nat
  ranks : List Nat
  started : Bool
  root : Nat
  count : Nat
  src : Word
  dst : Word
  seoff : Word
  deoff : Word
  outw : Nat
  sig : Word
  fmt : BitVec 32
  segs : List (Nat × Nat × Nat × List Byte)
  bind : Option Bind
  frozen : Bool
  left : Nat
  since : Nat
  status : Option Nat
  flags : Word
  ended : Bool
  deriving DecidableEq, Repr

/-- One Highlead port (R385): the last 512 flits it sent, which it keeps for replay; every flit it has put on the link; its
outstanding requests and the responses that came back to them; discarding after a bad CRC, replay asked for, stop flit received.
Transactions are kept whole. -/
structure Port where
  sent : List (List Byte)
  wire : List (List Byte)
  outstanding : List (Nat × List Byte)
  answers : List (Nat × List Byte)
  discarding : Bool
  replayAsked : Bool
  stopped : Bool
  deriving DecidableEq, Repr

/-- A UDP datagram that leaves a scale-out port, from port 0xB7A0 to port 0xB7A0 (R386): port index, IPv6 address, and the message. -/
structure Datagram where
  port : Nat
  dest : List Byte
  bytes : List Byte
  deriving DecidableEq, Repr

/-- Who moves next when no event is listed. -/
inductive Agent
  | core (c : Nat)
  | group (g : GId)
  | yarder (y : Nat)
  deriving DecidableEq, Repr

/-- One entry of the schedule: an event of the opcode table, an agent that issues, or time that passes. -/
inductive Turn
  | event (i : Instr)
  | run (a : Agent)
  | elapse (ns : Nat)
  deriving DecidableEq, Repr

/-- What follows the word being executed (R138, R144): the next word, a target already found, or nothing
more because the word has ended otherwise. -/
inductive NextPc
  | fall | goto (t : Word) | ended
  deriving DecidableEq, Repr

/-- The issue latch: the group and path whose word is executed, the word's address and guard fields, and what
the word reads before either slot writes (R110): active mask, FLAGS, FMT, ELSTAT, the lanes of face B. `first` is the number
of the word's first operation. `passed` is set once the whole word has passed its checks (R111). -/
structure Issue where
  gid : GId
  path : Nat
  w : Word
  gen : Bool
  gneg : Bool
  gslot : GReg
  solo : Bool
  uniform : Bool
  passed : Bool
  mask : Word
  flags : Word
  fmt : BitVec 32
  elstat : Word
  face : Word
  first : Nat
  next : NextPc
  deriving DecidableEq, Repr

/-- Where bring-up stands (R387): the number of steps ended, or 9 when firmware was refused. -/
abbrev Bringup := Nat

/-- The package. -/
structure State where
  part : Part
  /-- the schedule: what moves next, first entry first (the model's own input) -/
  sched : List Turn
  /-- the agent that moves when the schedule is empty (the model's own input) -/
  cur : Agent
  iss : Issue
  groups : Sparse Group
  wgs : Sparse Workgroup
  cores : Sparse Core
  launches : List Launch
  queues : Sparse Queue
  /-- writes forwarded to a serving die and writes that wait there (R309) -/
  forwarded : Sparse (List (Nat × NWrite))
  nrefused : Sparse Nat
  yarders : Sparse Yarder
  mem : List Host.Cell
  tiles : Sparse Tile
  /-- tiles whose next fetch meets an uncorrectable error (the model's own input, R216) -/
  bad : List Nat
  lost : List LostRec
  tlb : List TlbEntry
  predictor : Sparse Nat
  /-- bytes of the register windows that have no behaviour of their own (R372), as differences from reset -/
  regs : List Host.Cell
  /-- access tables (R377): byte `off` of target t of die d at (16 × d + t) × 0x8000 + off -/
  atab : List Host.Cell
  atLow : Sparse Word
  atsel : Sparse Word
  dtime : Nat
  /-- half core cycles that have passed and are not yet charged (R328) -/
  halfCycle : Nat
  clkCur : BitVec 2
  clkSet : BitVec 2
  clkPend : Bool
  pwrgate : Sparse (BitVec 4)
  thermstat : Sparse Word
  stopped : Bool
  bringup : Bringup
  firmware : List Byte
  sdreqs : List (Nat × Nat × Nat)
  sdstat : Nat
  escidx : Sparse Word
  ports : Sparse Port
  boomOps : List BoomOp
  /-- the messages that are kept, each with the DTIME at which it was sent last (R386) -/
  boomSent : List (BoomMsg × Nat)
  boomWaiting : List BoomMsg
  boomSeq : List (Nat × Nat × Nat)
  /-- the datagrams that have left the scale-out ports (R386) -/
  datagrams : List Datagram
  nextId : Nat
  nextOrder : Nat
  /-- the context of the launch that last carried a tag (R340) -/
  tagCtx : Sparse Nat
  deriving DecidableEq, Repr

/-- How a step stops with a fault. -/
inductive Fault
  /-- Raised by `step` after the thermal trip (R381): the clocks have stopped, and only a reset restarts the
  package. Safe: nothing moves on the hardware either. -/
  | thermalStop
  deriving DecidableEq, Repr

/-- Why a step has no meaning. -/
inductive Refusal
  /-- Raised by an arm of `exec` for an instruction that has no meaning yet. Safe. -/
  | notModelled (mnemonic : String)
  deriving DecidableEq, Repr

/-- FMT at reset (R133). -/
def fmtReset : BitVec 32 := 0x88

/-- A path that is not in use: every field 0 (R55). -/
def Path.zero : Path :=
  { mask := 0, pc := 0, fmt := fmtReset, fmtc := 0, parent := 0, mdep := 0, ldep := 0, waits := [], excl := 0, bound := false }

/-- An empty checkpoint (R183). -/
def Checkpoint.zero : Checkpoint :=
  { ckv := false, ckpc := 0, mask := 0, loops := [], fmt := 0, flags := 0, guards := [] }

/-- A group before its creation: retired, every register 0. DESIGN CHOICE (notes/assumptions/7.md). -/
def Group.zero : Group :=
  { status := .retired, sregs := [], vregs := [], mregs := [], guards := [], flags := 0, xpc := 0, xcode := 0
    faultmask := 0, faultface := 0, faultaddr := 0, elcause := 0, elcode := 0, spord := 0xFFFFFFFF, svc := false
    h := false, budleft := [0, 0, 0, 0], ck := .zero, helper := 0, gone := 0, root := .zero, split := [], face := []
    loops := [], lc := 0, sc := 0, cc := 0, tc := 0, loadq := [], storeq := [], spin := 0, spinWord := none
    region := none, bars := [], held := [], kept := none, hist := [], haltReq := false, stepReq := false, byHalt := false
    skip := [], cutback := false }

/-- A workgroup before placement: every granule 0 (R197). -/
def Workgroup.zero : Workgroup :=
  { stage := 0, place := .core, paged := false, order := 0, scratch := [], acc := [], tileq := [], copyq := [], locks := [], retired := false }

/-- An idle core. DESIGN CHOICE (notes/assumptions/7.md). -/
def Core.zero : Core :=
  { tag := 0, active := [], pending := [], passed := [], icache := [], fills := [], lineBuf := [], lfsr := 1, countdown := 0, due := none
    sample := none }

/-- A tile nothing has touched (notes/assumptions/5.md): non-resident with an empty log (R208). -/
def Tile.zero : Tile :=
  { resident := false, fetching := false, poisoned := false, log := [], seq := 0, queue := [], rewritten := 0 }

/-- A Yarder at reset (notes/assumptions/2.md). -/
def Yarder.zero : Yarder :=
  { x := [], pc := 0, sram := [], mepc := 0, mcause := 0, mtval := 0, mtvec := 0, mscratch := 0, minstret := 0, reserve := none
    mie := false, mpie := false
    meie := false, meip := false, swait := none }

/-- A queue nobody has taken up. -/
def Queue.zero : Queue :=
  { base := 0, ridx := 0, logn := 0, owner := 0, state := .idle, ri := 0, wl := 0, covers := [], inflight := [], need := 0, stalled := false }

/-- A port before the link comes up. -/
def Port.zero : Port :=
  { sent := [], wire := [], outstanding := [], answers := [], discarding := false, replayAsked := false, stopped := false }

/-- A launch record before its packet fills it. DESIGN CHOICE (notes/assumptions/7.md). -/
def Launch.zero : Launch :=
  { tag := 0, ctx := 0, state := .admitted, queue := 0, signal := 0, rscope := 0, ascope := 0, npre := false, idem := false
    svc := false, svcDie := 0, svcBy := 0, part := 0, c := 1, s := 1, deadline := 0, prio := 0, order := 0, args := 0, deckId := 0
    code := 0, entry := 0, handler := none, pword := 0, groups := 1, vregs := 8, lq := 48, sq := 32, cq := 16, tq := 8
    budget := [0, 0, 0, 0], charged := [0, 0, 0, 0], enforced := true, cores := [], reserved := [], asked := false
    askedAt := 0, askedFor := 0, shoes := [], phases := [], sp := 0, spCount := 0, points := [], stopped := [], status := none, cause := none, first := 0, xpc := 0
    flagsOr := 0, pwt := [], owed := [] }

/-- The latch when nothing is being executed. DESIGN CHOICE (notes/assumptions/7.md). -/
def Issue.zero : Issue :=
  { gid := { tag := 0, core := 0, grp := 0 }, path := 0, w := 0, gen := false, gneg := false, gslot := 0
    solo := false, uniform := false, passed := false, mask := 0, flags := 0, fmt := fmtReset, elstat := 0, face := 0, first := 0
    next := .fall }

/-- The package right after package reset: DTIME 0 (R382), no launch, every table and register at its reset
value, bring-up not begun (R387), CLKLOCK 0b11 (R381). -/
def State.reset : State :=
  { part := .t16, sched := [], cur := .yarder 0, iss := .zero, groups := [], wgs := [], cores := [], launches := []
    queues := [], forwarded := [], nrefused := [], yarders := [], mem := [], tiles := [], bad := [], lost := [], tlb := [], predictor := []
    regs := [], atab := [], atLow := [], atsel := [], dtime := 0, halfCycle := 0, clkCur := 3, clkSet := 3, clkPend := false
    pwrgate := [], thermstat := [], stopped := false, bringup := 0, firmware := [], sdreqs := [], sdstat := 0
    escidx := [], ports := [], boomOps := [], boomSent := [], boomWaiting := [], boomSeq := [], datagrams := [], nextId := 0
    nextOrder := 0, tagCtx := [] }

end Sys2Proof.Machine
end

