-- ==== Sys2Proof/Machine/Regs.lean ====
section
/-!
DEFINITION. Reading and writing the parts of State: groups, paths, registers, guards, launches, cores. Every
register is reached through these operations only (s0 and m0 are hard-wired here, R109).
-/

namespace Sys2Proof.Machine

/-- The number a group is listed under. -/
def gkey (g : GId) : Nat := g.tag * 2 ^ 14 + g.core * 32 + g.grp
/-- The number a workgroup is listed under. -/
def wkey (tag core : Nat) : Nat := tag * 512 + core

/-! ## Registers of a group -/

/-- s[r]; s0 reads 0 (R109). -/
def readS (g : Group) (r : SReg) : Word := if r = 0 then 0 else sget 0 g.sregs r.toNat
/-- A write of s[r]; one to s0 is discarded (R109). -/
def writeS (g : Group) (r : SReg) (v : Word) : Group :=
  if r = 0 then g else { g with sregs := sput 0 g.sregs r.toNat v }
/-- v[r] of thread t. -/
def readV (g : Group) (r : VReg) (t : Nat) : Lane := sget 0 g.vregs (64 * r.toNat + t)
def writeV (g : Group) (r : VReg) (t : Nat) (v : Lane) : Group :=
  { g with vregs := sput 0 g.vregs (64 * r.toNat + t) v }
/-- m[k]; m0 reads all ones (R109). -/
def readM (g : Group) (k : MReg) : Word := if k = 0 then BitVec.allOnes 64 else sget 0 g.mregs k.toNat
/-- A write of m[k]; one to m0 is discarded (R109). -/
def writeM (g : Group) (k : MReg) (v : Word) : Group :=
  if k = 0 then g else { g with mregs := sput 0 g.mregs k.toNat v }
def readGuard (g : Group) (k : GReg) : Guard := sget .unres g.guards k.toNat
def writeGuard (g : Group) (k : GReg) (v : Guard) : Group := { g with guards := sput .unres g.guards k.toNat v }

def Guard.ofBool (b : Bool) : Guard := if b then .isTrue else .isFalse

/-! ## Lane states (R45) -/

def isLive (g : Group) (t : Nat) : Bool := !bit g.helper t && !bit g.gone t
def liveMask (g : Group) : Word := ~~~(g.helper ||| g.gone)

/-! ## Paths (R250) -/

/-- Path 0 is the undivided path, path e + 1 entry e of the split table. -/
def pathOf (g : Group) (k : Nat) : Path := if k = 0 then g.root else sget .zero g.split k
def putPath (g : Group) (k : Nat) (p : Path) : Group :=
  if k = 0 then { g with root := p } else { g with split := sput .zero g.split k p }
/-- Path numbers in order of issue (R56). -/
def pathKeys (g : Group) : List Nat := 0 :: g.split.map (fun p => p.1)

/-- The lanes a path holds (R250). Records are pushed only by the undivided path (R251). -/
def heldLanes (g : Group) (k : Nat) : Word :=
  if k = 0 then
    let a := g.face.foldl (fun m r => m ||| r.entry) g.root.mask
    g.loops.foldl (fun m r => if r.kind then m ||| r.entry else m) a
  else (pathOf g k).mask

/-- The lanes that are a path's own: of those the undivided path holds, the ones that no path split from it holds (R53). -/
def ownLanes (g : Group) (k : Nat) : Word :=
  if k = 0 then g.split.foldl (fun m p => m &&& ~~~p.2.mask) (heldLanes g 0) else heldLanes g k

/-- A path whose held lanes are all GONE has ended (R250). -/
def pathEnded (g : Group) (k : Nat) : Bool := heldLanes g k &&& ~~~g.gone == 0

/-! ## Faces (R255 to R259) -/

/-- A call record has END bits 3:0 = 1 (R259). -/
def FaceRec.isCall (r : FaceRec) : Bool := r.stop &&& 15 == 1
/-- The topmost meld record; call records are skipped (R255). The list's head is the top. -/
def topMeld (g : Group) : Option FaceRec := g.face.find? (fun r => !r.isCall)
/-- The top face-stack record, when it is a call record (R259). -/
def topCall (g : Group) : Option FaceRec :=
  match g.face with
  | r :: _ => if r.isCall then some r else none
  | [] => none
/-- Whether lane t holds face B; face A outside every region (R256). -/
def faceB (g : Group) (t : Nat) : Bool :=
  match topMeld g with
  | some r => !bit r.facea t
  | none => false
def faceBMask (g : Group) : Word :=
  match topMeld g with
  | some r => ~~~r.facea
  | none => 0

/-! ## The package -/

def State.group (s : State) (g : GId) : Group := sget .zero s.groups (gkey g)
def State.setGroup (s : State) (g : GId) (v : Group) : State := { s with groups := sput .zero s.groups (gkey g) v }
def State.updGroup (s : State) (g : GId) (f : Group → Group) : State := s.setGroup g (f (s.group g))
def State.wg (s : State) (tag core : Nat) : Workgroup := sget .zero s.wgs (wkey tag core)
def State.updWg (s : State) (tag core : Nat) (f : Workgroup → Workgroup) : State :=
  { s with wgs := sput .zero s.wgs (wkey tag core) (f (s.wg tag core)) }
def State.core (s : State) (c : Nat) : Core := sget .zero s.cores c
def State.updCore (s : State) (c : Nat) (f : Core → Core) : State :=
  { s with cores := sput .zero s.cores c (f (s.core c)) }
def State.launch (s : State) (tag : Nat) : Launch := (s.launches.find? (fun l => l.tag == tag)).getD .zero
def State.updLaunch (s : State) (tag : Nat) (f : Launch → Launch) : State :=
  { s with launches := s.launches.map (fun l => if l.tag == tag then f l else l) }
def State.yarder (s : State) (y : Nat) : Yarder := sget .zero s.yarders y
def State.updYarder (s : State) (y : Nat) (f : Yarder → Yarder) : State :=
  { s with yarders := sput .zero s.yarders y (f (s.yarder y)) }

/-! ## The group and the path whose word is executed -/

def cg (s : State) : Group := s.group s.iss.gid
def updCg (s : State) (f : Group → Group) : State := s.updGroup s.iss.gid f
def cp (s : State) : Path := pathOf (cg s) s.iss.path
def updPath (s : State) (f : Path → Path) : State :=
  updCg s (fun g => putPath g s.iss.path (f (pathOf g s.iss.path)))
/-- s[r] of the group. -/
def rs (s : State) (r : SReg) : Word := readS (cg s) r
/-- A write of s[r]. -/
def ws (s : State) (r : SReg) (v : Word) : State := updCg s (fun g => writeS g r v)
/-- FMT of the issuing path (R66, R250). -/
def fmtNow (s : State) : BitVec 32 := (cp s).fmt
/-- FMT's fields (R133). -/
def fmtRnd (f : BitVec 32) : Nat := bits f.toNat 12 2
def fmtSat (f : BitVec 32) : Bool := bits f.toNat 14 1 == 1
def fmtAf (f : BitVec 32) : Nat := bits f.toNat 0 4
def fmtBf (f : BitVec 32) : Nat := bits f.toNat 4 4
def fmtAcc (f : BitVec 32) : Nat := bits f.toNat 8 4

/-- The unit a word lies in: its own address for a pair word, the address bits 63:4 for a solo word (R93). -/
def unitOf (w : Word) : Word := w &&& ~~~15
/-- `w + 16 × n` (R102). For `s.lea` in a solo word too, w is the unit's address, though R93 says so of transfers only. DEDUCED
(notes/assumptions/9.md). -/
def relTarget (w : Word) (n : Int) : Word := unitOf w + BitVec.ofInt 64 (16 * n)
/-- The address of the unit after the word (`w + 16` of the rules). -/
def afterUnit (w : Word) : Word := unitOf w + 16

/-- A canonical 57-bit address (R200). -/
def canonical (a : Word) : Bool := a.toNat < 2 ^ 56 || 2 ^ 64 - 2 ^ 56 ≤ a.toNat

/-- The lanes of the active mask that are LIVE. -/
def liveActive (s : State) : Word := s.iss.mask &&& liveMask (cg s)

/-- Die, cluster and core of a linear index (R37). -/
def dieOf (c : Nat) : Nat := c / 32
def clusterOf (c : Nat) : Nat := c / 8
/-- Cores of the part. -/
def coresOf (p : Part) : Nat := diesOf p * 32

/-- The stage of the core at ordinal i of a launch (R38). -/
def ordinalOf (l : Launch) (c : Nat) : Nat := (l.cores.filter (fun x => x < c)).length
def stageOf (l : Launch) (c : Nat) : Nat := ordinalOf l c * l.s / l.c
/-- The cores of a stage, ascending. -/
def stageCores (l : Launch) (st : Nat) : List Nat := l.cores.filter (fun c => stageOf l c == st)

/-- The groups of a workgroup, and of a launch. -/
def groupsOf (l : Launch) (c : Nat) : List GId :=
  (List.range l.groups).map (fun g => { tag := l.tag, core := c, grp := g })
def launchGroups (l : Launch) : List GId := l.cores.flatMap (groupsOf l)

/-- A group that issues nothing more: retired or stopped. -/
def groupDone (g : Group) : Bool := g.status == .retired || g.status == .stopped

/-! ## Operations of the load and store queues -/

def settledAcc (a : Acc) : Bool := a.st != .pending && a.st != .queued
/-- Every access of an operation has been performed, has failed or has been given up. -/
def settled (o : QOp) : Bool := o.accs.all settledAcc

/-- Operations without accesses have completed: they retire once nothing stands before them (R117). The queue that is left, and how far
the counter falls. -/
def dropEmpty : List QOp → List QOp × Nat
  | [] => ([], 0)
  | o :: r => if o.accs.isEmpty then let p := dropEmpty r; (p.1, p.2 + (if o.counted then 1 else 0)) else (o :: r, 0)

def retireEmpty (g : Group) : Group :=
  let l := dropEmpty g.loadq
  let s := dropEmpty g.storeq
  { g with loadq := l.1, lc := g.lc - l.2, storeq := s.1, sc := g.sc - s.2 }

/-- A load-class operation (R116). -/
def isLc (k : MemKind) : Bool :=
  match k with
  | .load | .gld | .rdc | .tlogLen | .rmw _ true => true
  | _ => false

/-- A read-modify-write that no atomic holds: its value is known only once it is performed. -/
def isRmwStore (k : MemKind) : Bool :=
  match k with
  | .rmw _ _ | .fadd | .faddc => true
  | _ => false

/-- The number belongs to an operation of a tagged word. -/
def TagRec.mine (r : TagRec) (n : Nat) : Bool :=
  r.bound == some n || (decide (r.id0 ≤ n) && (r.id1 == 0 || decide (n + 1 < r.id1)))

/-- Rewrite a core's tags. -/
def updTags (s : State) (core : Nat) (f : TagRec → TagRec) : State :=
  s.updCore core (fun c => { c with due := c.due.map f, sample := c.sample.map f })

/-- The sampler's record of the word that operation or wait `n` belongs to takes a memory level (R358). -/
def noteLevel (s : State) (gid : GId) (n level : Nat) : State :=
  updTags s gid.core (fun r => if r.gid == gid && r.mine n then { r with level := max r.level level } else r)

/-- The tagged word that operation or wait `n` belongs to has been cut short by a fault (R357). -/
def noteFault (s : State) (gid : GId) (n : Nat) : State :=
  updTags s gid.core (fun r => if r.gid == gid && r.mine n && r.fate == .whole then { r with fate := .faulted } else r)

/-! ## Engine commands -/

/-- The span of an endpoint: its lowest and highest byte as the sum of base and strides, none where an extent is 0 (R220). -/
def copySpan (base : Word) (ext : List Nat) (st : List Word) (n : Nat) : Option (Int × Int) :=
  if ext.contains 0 then none
  else
    let ds := (ext.zip st).map (fun p => ((p.1 : Int) - 1) * p.2.toInt)
    let lo := ds.foldl (fun a d => if d < 0 then a + d else a) base.toInt
    let hi := ds.foldl (fun a d => if 0 < d then a + d else a) base.toInt
    some (lo, hi + (n : Int) - 1)

def srcSpan (o : CopyOp) : Option (Int × Int) := copySpan o.src o.ext o.srcs (2 ^ o.elog)
def dstSpan (o : CopyOp) : Option (Int × Int) := copySpan o.dst o.ext o.dsts (2 ^ o.elog)

/-- An operation with nothing to do: S is empty, or for `m.st` no row of S is LIVE (R283). R306's row on all-HELPER engine commands, which
R283 contradicts for the other matrix operations, is read as naming `m.st` and the Skidder. DESIGN CHOICE (notes/assumptions/25.md). -/
def nothingToDo (i : Instr) (rows live : Word) : Bool :=
  match i with
  | .mSt _ _ _ _ _ => live == 0
  | _ => rows == 0

/-- The tile operation has nothing to do: it has completed, and waits to retire behind earlier ones of its group (R117). -/
def TileOp.idle (o : TileOp) : Bool := nothingToDo o.op o.rows o.live

/-- Commands that have completed leave their queue once no earlier one of their group is in it (R116, R117): the queue that is left,
and the groups of those that have retired. `seen` lists the groups with an earlier command. -/
def retireIdle {α : Type} (grp : α → Nat) (idle : α → Bool) : List Nat → List α → List α × List Nat
  | _, [] => ([], [])
  | seen, x :: r =>
    if idle x && !seen.contains (grp x) then
      let p := retireIdle grp idle seen r
      (p.1, grp x :: p.2)
    else
      let p := retireIdle grp idle (grp x :: seen) r
      (x :: p.1, p.2)

/-- The tile operations and copies of a core that have completed retire in order (R116, R117). -/
def retireEngines (s : State) (tag core : Nat) : State :=
  let w := s.wg tag core
  let t := retireIdle TileOp.grp TileOp.idle [] w.tileq
  let c := retireIdle CopyOp.grp CopyOp.suppressed [] w.copyq
  let s := s.updWg tag core (fun w => { w with tileq := t.1, copyq := c.1 })
  let s := t.2.foldl (fun s x => s.updGroup { tag := tag, core := core, grp := x } (fun g => { g with tc := g.tc - 1 })) s
  c.2.foldl (fun s x => s.updGroup { tag := tag, core := core, grp := x } (fun g => { g with cc := g.cc - 1 })) s

/-! ## Accumulator tiles -/

/-- Accumulator tiles that an instruction names (R121). -/
def aRegs : Instr → List AReg
  | .mZero d | .mMma d _ _ _ _ _ | .mMmas d _ _ _ _ _ _ _ | .mLd d _ _ _ _ | .mSt d _ _ _ _ => [d]
  | .mXpose d s | .mPerm d s _ | .mRsum d s | .mScale d s _ => [d, s]
  | _ => []

end Sys2Proof.Machine
end

