-- ==== Sys2Proof/Machine/Flags.lean ====
section
/-!
DEFINITION. The FLAGS register (R79 to R81): sticky, set by OR, cleared only by `s.setsr`.
-/

namespace Sys2Proof.Machine

/-- The bits of FLAGS that exist (R79). -/
def flagBits : Word := 63

/-- FLAGS of a group with further flags raised (R81). -/
def orFlags (g : Group) (fl : Nat) : Group := { g with flags := g.flags ||| (BitVec.ofNat 64 fl &&& flagBits) }

/-- Flags raised by a vector operation of the issuing group. -/
def raise (s : State) (fl : Nat) : State := updCg s (fun g => orFlags g fl)

/-- Flags of an asynchronous operation: into the group's FLAGS while it is resident or saved, into the launch's
record once it has retired or stopped (R339). -/
def raiseFor (s : State) (gid : GId) (fl : Nat) : State :=
  if groupDone (s.group gid) then
    s.updLaunch gid.tag (fun l => { l with flagsOr := l.flagsOr ||| (BitVec.ofNat 64 fl &&& flagBits) })
  else s.updGroup gid (fun g => orFlags g fl)

/-- What `s.setsr` leaves in FLAGS (R79): reserved bits ignore writes and read 0. -/
def flagsWritten (v : Word) : Word := v &&& flagBits

/-- The OR of the flags of a list of results. -/
def flagsOf {α : Type} (rs : List (α × Nat)) : Nat := rs.foldl (fun a r => a ||| r.2) 0

end Sys2Proof.Machine
end

