-- ==== Sys2Proof/WellFormed.lean ====
section
/-!
DEFINITION. Which instructions are well formed: `typeOk` holds the type and code checks that trap ILLEGAL_OPCODE,
`fieldsOk` the operand checks that trap RESERVED_FIELD, each read off the instruction's own rule. The checks that
need the group's state (`.vregs`, tiles, units, PRIV) are in `Machine/Issue.lean`.
-/

namespace Sys2Proof

/-- The list `int` of R151. -/
def intTys : List Ty := [.i8, .i16, .i32, .z8, .z16, .z32]
/-- The list `sint` of R151. -/
def sintTys : List Ty := [.i8, .i16, .i32]
/-- The floating-point types (R157). -/
def fpTys : List Ty := [.f32, .f16, .bf16]
/-- Vector data of loads and stores (R227). -/
def memVecTys : List Ty := [.i8, .i16, .i32, .z8, .z16, .z32, .f32, .f16, .bf16]
/-- Scalar data of loads and stores (R227). -/
def memScaTys : List Ty := [.i8, .i16, .i32, .i64, .z8, .z16, .z32, .z64]

/-- The width of a type in bits (R105, R148). -/
def Ty.width : Ty → Nat
  | .i8 | .z8 => 8
  | .i16 | .z16 | .f16 | .bf16 => 16
  | .i32 | .z32 | .f32 => 32
  | .i64 | .z64 => 64
  | .qb => 0

/-- `.i` types read as signed (R68). -/
def Ty.signed : Ty → Bool
  | .i8 | .i16 | .i32 | .i64 => true
  | _ => false

/-- What R224, R225 and R227 accept for one memory instruction. -/
structure MRow where
  am : List Nat
  d0 : Bool
  d1 : Bool
  acc : List Nat
  t0 : List Ty
  t1 : List Ty
  suffix : Bool
  loc : Bool
  p : Bool
  fence : Bool
  cas : Bool

/-- A row with the usual entries; each use names what differs. -/
def MRow.mk' (am : List Nat) (d0 d1 : Bool) (acc : List Nat) (t0 t1 : List Ty) : MRow :=
  { am := am, d0 := d0, d1 := d1, acc := acc, t0 := t0, t1 := t1, suffix := true, loc := false, p := false
    fence := false, cas := false }

def atomTys0 : List Ty := [.i32, .z32]
def atomTys1 : List Ty := [.i32, .z32, .i64, .z64]
def logTys0 : List Ty := [.i8, .i16, .i32, .z8, .z16, .z32]

def rowLd : MRow := .mk' [0] true true [0, 1] memVecTys memScaTys
def rowSt : MRow := .mk' [0] true true [0, 2] memVecTys memScaTys
def rowLdv : MRow := .mk' [1] true false [0, 1] memVecTys memScaTys
def rowStv : MRow := .mk' [1] true false [0, 2] memVecTys memScaTys
def rowRdc : MRow := .mk' [0, 1] true true [0, 1] [.f32] [.f32]
def rowStLog : MRow := { MRow.mk' [0, 1] true true [3] logTys0 memScaTys with p := true }
def rowFlush : MRow := { MRow.mk' [0] true false [0] [.i8] [.i8] with suffix := false }
def rowLen : MRow := { MRow.mk' [0] false true [0] [.i8] [.i8] with suffix := false }
def rowFence : MRow := { MRow.mk' [0] true false [0] [.i8] [.i8] with suffix := false, fence := true }
def rowWaitw : MRow := { MRow.mk' [0] false true [0, 1] [] atomTys1 with p := true }
def rowAtom : MRow := .mk' [0, 1] true true [0, 1, 2] atomTys0 atomTys1
def rowCas : MRow := { MRow.mk' [1, 2] true true [0, 1, 2] atomTys0 atomTys1 with cas := true }
def rowRed : MRow := .mk' [0, 1] true true [0, 2] atomTys0 atomTys1
def rowRedF : MRow := .mk' [0, 1] true true [0, 2] [.f32] [.f32]
def rowElide : MRow := .mk' [2] true false [0] [.z32, .z64] []
def rowElidend : MRow := { MRow.mk' [0] true false [0] [.i8] [.i8] with suffix := false }
def rowEliabort : MRow := { MRow.mk' [2] true false [0] [.i8] [.i8] with suffix := false }

/-- A type outside R227 on an instruction that takes a suffix traps ILLEGAL_OPCODE. A dash of R227's table accepts no type, so `waitw` with D = 0
and `elide` with D = 1 trap it too, before R224's RESERVED_FIELD for their D. DESIGN CHOICE (notes/assumptions/9.md). -/
def MRow.typeOk (r : MRow) (o : MOp) : Bool :=
  !r.suffix || (if o.d then r.t1 else r.t0).contains o.ty

/-- AM, D, ACC, SCOPE, FQ, OPX and AUX as R224 to R226 accept them, DATA as R108 does. -/
def MRow.fieldsOk (r : MRow) (o : MOp) : Bool :=
  r.am.contains o.am.toNat && (if o.d then r.d1 else r.d0) && !(o.am == 1 && o.d)
  && r.acc.contains o.acc.toNat
  && (r.suffix || o.ty == .i8)
  && o.scope != 7 && (o.scope == 0 || o.acc == 1 || o.acc == 2 || r.fence)
  && (!r.loc || o.scope.toNat ≤ 2)
  && (o.fq == .both || !o.d)
  && (r.p || !o.p)
  && (!o.d || o.data.toNat < 64)
  && (o.am != 1 || r.cas || o.off.toNat % 128 == 0)
  && (o.am != 2 || !r.cas || o.off.toNat / 128 == 0)
  && (o.am != 2 || !r.cas || !o.d || o.off.toNat < 64)

/-- The row of a memory instruction with its operands. -/
def mrow : Instr → Option (MRow × MOp)
  | .ld o => some (rowLd, o) | .st o => some (rowSt, o) | .ldv o => some (rowLdv, o) | .stv o => some (rowStv, o)
  | .lds o => some ({ rowLd with loc := true }, o) | .sts o => some ({ rowSt with loc := true }, o)
  | .ldsv o => some ({ rowLdv with loc := true }, o) | .stsv o => some ({ rowStv with loc := true }, o)
  | .rdc o => some (rowRdc, o) | .stLog o => some (rowStLog, o) | .tlogFlush o => some (rowFlush, o)
  | .tlogLen o => some (rowLen, o) | .fence o => some (rowFence, o) | .waitw o => some (rowWaitw, o)
  | .pf o => some (rowFlush, o) | .ipf o => some (rowLen, o)
  | .atomAdd o | .atomMin o | .atomMax o | .atomAnd o | .atomOr o | .atomXor o | .atomXchg o => some (rowAtom, o)
  | .atomCas o => some (rowCas, o)
  | .redAdd o | .redMin o | .redMax o | .redAnd o | .redOr o | .redXor o => some (rowRed, o)
  | .redFadd o | .redFaddc o => some (rowRedF, o)
  | .elide o => some (rowElide, o) | .elidend o => some (rowElidend, o) | .eliabort o => some (rowEliabort, o)
  | _ => none

/-- The rules of single memory instructions beyond R224 to R226: R224 (`tlog.flush`, `pf`, `fence`), R236, R241, R244, R245. -/
def memExtraOk : Instr → Bool
  | .tlogFlush o | .pf o => o.data == 0
  | .fence o => o.m == 0 && o.data == 0 && o.base == 0 && o.off == 0 && o.fq == .both
  | .stLog o => !o.p || (o.d && (o.ty == .z64 || o.ty == .i64) && o.data.toNat % 2 == 0)
  | .elide o => o.m == 0 && o.fq == .both && o.data.toNat < 16
  | .elidend o => o.m == 0 && o.data == 0 && o.base == 0 && o.off == 0 && o.fq == .both
  | .eliabort o => o.m == 0 && o.data == 0 && o.base == 0 && o.fq == .both && o.off.toNat < 256
  | _ => true

/-- A shift count of the VI form must lie below the width (R152). -/
def shImmOk (o : VImm) (t : Ty) : Bool := o.imm.toNat < t.width

/-- The register codes of `s.getsr` (R187). -/
def srNums : List Nat := [0, 1, 2, 3, 4, 8, 9, 10, 11, 12, 13]

/-- FMT's reserved bits and codes (R133). -/
def fmtValid (v : Nat) : Bool :=
  let ok := fun c => (2 ≤ c && c ≤ 8) || c == 10
  v < 2 ^ 15 && ok (v % 16) && ok (v / 16 % 16) && v / 256 % 16 < 2

/-- The type a reduction OP takes (R169); under an OP outside R169 every type that some OP takes passes this check. -/
def redOpTypeOk (op : Nat) (t : Ty) : Bool :=
  if op < 6 then intTys.contains t else if 8 ≤ op && op ≤ 10 then t == .f32 else t == .f32 || intTys.contains t
/-- The OP codes of R169. -/
def redOps : List Nat := [0, 1, 2, 3, 4, 5, 8, 9, 10]

/-- The first register of a descriptor (R29, R285). -/
def descOk (a : SReg) : Bool := 1 ≤ a.toNat && a.toNat ≤ 58

/-- What the type rules accept (ILLEGAL_OPCODE otherwise). -/
def typeOk (i : Instr) : Bool :=
  match mrow i with
  | some (r, o) => r.typeOk o
  | none =>
  match i with
  | .mLd _ _ ty _ _ | .mSt _ _ ty _ _ => [Ty.f32, .f16, .bf16, .qb].contains ty
  | .xAllred _ op ty _ =>
    if ty == .qb then op == 0
    else if ty == .f32 then 8 ≤ op.toNat && op.toNat ≤ 10
    else [Ty.i32, .z32, .i64, .z64].contains ty && op.toNat < 6
  | .xAllmax _ ty => [Ty.z8, .z16, .z32, .i32, .f32].contains ty
  | .xBcast _ ty | .xGather _ ty => [Ty.z8, .z16, .z32, .z64].contains ty
  | .vAdd _ _ t | .vSub _ _ t | .vMul _ _ t | .vMulhi _ _ t | .vMin _ _ t | .vMax _ _ t | .vAnd _ _ t | .vOr _ _ t
  | .vXor _ _ t | .vShl _ _ t | .vShr _ _ t | .vSra _ _ t => intTys.contains t
  | .vMad _ _ t => intTys.contains t
  | .vAbs _ _ t | .vNeg _ _ t => sintTys.contains t
  | .vNot _ _ t | .vClz _ _ t | .vPopc _ _ t => intTys.contains t
  | .vAddImm _ _ t | .vSubImm _ _ t | .vMulImm _ _ t | .vMinImm _ _ t | .vMaxImm _ _ t | .vAndImm _ _ t
  | .vOrImm _ _ t | .vXorImm _ _ t | .vShlImm _ _ t | .vShrImm _ _ t | .vSraImm _ _ t => intTys.contains t
  | .vBfx _ _ _ _ t _ _ => t == .i32 || t == .z32
  | .vMovi _ _ _ t _ => intTys.contains t
  | .vCmpEq _ _ _ _ _ t | .vCmpNe _ _ _ _ _ t | .vCmpLt _ _ _ _ _ t | .vCmpLe _ _ _ _ _ t | .vCmpGt _ _ _ _ _ t
  | .vCmpGe _ _ _ _ _ t => intTys.contains t
  | .vCmpEqImm _ _ _ _ t _ | .vCmpNeImm _ _ _ _ t _ | .vCmpLtImm _ _ _ _ t _ | .vCmpLeImm _ _ _ _ t _
  | .vCmpGtImm _ _ _ _ t _ | .vCmpGeImm _ _ _ _ t _ => intTys.contains t
  | .vFadd _ _ t | .vFsub _ _ t | .vFmul _ _ t | .vFmin _ _ t | .vFmax _ _ t => fpTys.contains t
  | .vFma _ _ t => fpTys.contains t
  | .vFclass _ _ _ _ t => fpTys.contains t
  | .vFcmpEq _ _ _ _ _ t | .vFcmpNe _ _ _ _ _ t | .vFcmpLt _ _ _ _ _ t | .vFcmpLe _ _ _ _ _ t | .vFcmpGt _ _ _ _ _ t
  | .vFcmpGe _ _ _ _ _ t => fpTys.contains t
  | .vCvt _ _ _ _ a b => (intTys ++ fpTys).contains a && (intTys ++ fpTys).contains b && a != b
  | .vPack _ _ _ _ _ t => [Ty.f16, .bf16, .i16, .z16].contains t
  | .vUnpack _ _ _ _ _ t => [Ty.f16, .bf16, .i16, .z16].contains t
  | .vRcp _ _ t | .vRsqrt _ _ t | .vSqrt _ _ t | .vExp2 _ _ t | .vLog2 _ _ t | .vSinpi _ _ t | .vCospi _ _ t => fpTys.contains t
  | .vRedx _ _ _ _ op t => redOpTypeOk op.toNat t
  | .vScan _ _ _ _ _ op t => redOpTypeOk op.toNat t
  | .vBallot _ _ _ _ t => intTys.contains t
  | _ => true

/-- What the operand rules accept (RESERVED_FIELD otherwise). -/
def fieldsOk (i : Instr) : Bool :=
  match mrow i with
  | some (r, o) => r.fieldsOk o && memExtraOk i
  | none =>
  match i with
  | .sBfx _ _ _ len pos | .sBfi _ _ len pos => 1 ≤ len.toNat && pos.toNat + len.toNat ≤ 64
  | .sSetfmtImm imm => fmtValid imm.toNat
  | .sSetfmtReg a => a != 0
  | .loopS _ off => decide (2 ≤ off.toInt)
  | .barGrp kind => kind != 3
  | .barBlk kind _ => kind != 3
  | .barClu kind n => kind != 3 && n.toNat < 8
  | .barGrid kind n => kind != 3 && n.toNat < 4
  | .wait c =>
    (c.etc || c.ecc || c.esc || c.elc) && c.tcv.toNat ≤ 8 && c.ccv.toNat ≤ 16 && c.scv.toNat ≤ 32 && c.lcv.toNat ≤ 48
    && (c.etc || c.tcv == 0) && (c.ecc || c.ccv == 0) && (c.esc || c.scv == 0) && (c.elc || c.lcv == 0)
  | .gLd _ _ _ _ scope acc _ => scope != 7 && acc.toNat < 2 && (scope == 0 || acc == 1)
  | .draw n _ => 1 ≤ n.toNat && n.toNat ≤ 57
  | .deal n => 1 ≤ n.toNat && n.toNat ≤ 60
  | .sGetsr _ num | .sSetsr num _ => srNums.contains num.toNat
  | .sSys _ sel => sel.toNat ≤ 10
  | .rett mode => mode != 3
  | .mMma _ a b _ _ _ => descOk a && descOk b
  | .mMmas _ a b _ _ _ _ nc => descOk a && descOk b && nc != 3
  | .mLd _ a ty w _ | .mSt _ a ty w _ => descOk a && (if ty == .qb then 2 ≤ w.toNat && w.toNat ≤ 8 else w == 0)
  | .cCopyt _ _ _ _ _ _ g => g == 1 || g == 2
  | .xAllred _ _ ty w => if ty == .qb then 2 ≤ w.toNat && w.toNat ≤ 8 else w == 0
  | .vShlImm _ o t | .vShrImm _ o t | .vSraImm _ o t => shImmOk o t
  | .vBfx _ _ _ _ _ len pos => 1 ≤ len.toNat && pos.toNat + len.toNat ≤ 32
  | .vLane _ _ _ sel => sel.toNat ≤ 4
  | .vTwosum _ _ vd _ _ vc => vd != vc
  | .vQpack _ _ vd _ vc w => 2 ≤ w.toNat && w.toNat ≤ 8 && vd != vc
  | .vQunpack _ _ _ _ _ w => 2 ≤ w.toNat && w.toNat ≤ 8
  | .vRedx _ _ _ _ op _ => redOps.contains op.toNat
  | .vScan _ _ _ _ _ op _ => redOps.contains op.toNat
  | .meld _ off | .loopv _ off => decide (1 ≤ off.toInt)
  | _ => true

/-- An instruction some word encodes (every event is well formed: it has no word). -/
def WellFormed (i : Instr) : Bool := typeOk i && fieldsOk i

end Sys2Proof
end

