-- ==== Sys2Proof/Machine/Float.lean ====
section
/-!
DEFINITION. Arithmetic on the formats of 04_numbers_rules.md. A value is taken apart into an exact number
`m × 2^e`, computed exactly, and rounded once at the end. Flags are a number with the bits of R79:
NV 1, DZ 2, OF 4, UF 8, NX 16, QS 32. A rounding mode is FMT's RND code (R133): 0 rne, 1 rtz, 2 rup, 3 rdn.
-/

namespace Sys2Proof.Machine

def fNV : Nat := 1
def fDZ : Nat := 2
def fOF : Nat := 4
def fUF : Nat := 8
def fNX : Nat := 16
def fQS : Nat := 32

/-- A floating-point format (R69). -/
structure Fmt where
  ebits : Nat
  fbits : Nat
  deriving DecidableEq, Repr

def fp32 : Fmt := { ebits := 8, fbits := 23 }
def fp16 : Fmt := { ebits := 5, fbits := 10 }
def bf16 : Fmt := { ebits := 8, fbits := 7 }

/-- The format of a floating-point type; FP32 for the others. -/
def fmtOfTy : Ty → Fmt
  | .f16 => fp16
  | .bf16 => bf16
  | _ => fp32

def Fmt.bias (f : Fmt) : Nat := 2 ^ (f.ebits - 1) - 1
/-- The exponent of the smallest normal number. -/
def Fmt.emin (f : Fmt) : Int := 1 - f.bias
/-- The magnitude bits of infinity. -/
def Fmt.top (f : Fmt) : Nat := (2 ^ f.ebits - 1) * 2 ^ f.fbits
/-- The sign bit of a negative number. -/
def Fmt.sign (f : Fmt) (neg : Bool) : Nat := if neg then 2 ^ (f.ebits + f.fbits) else 0
/-- The canonical NaN (R71). -/
def Fmt.nan (f : Fmt) : Nat := f.top + 2 ^ (f.fbits - 1)

/-- A value taken apart: a NaN (signalling or not), an infinity, or ±m × 2^e. -/
inductive FV
  | nan (sig : Bool)
  | inf (neg : Bool)
  | fin (neg : Bool) (m : Nat) (e : Int)
  deriving DecidableEq, Repr

/-- The value of a word of format `f` (R69, R71). -/
def unpack (f : Fmt) (w : Nat) : FV :=
  let ex := bits w f.fbits f.ebits
  let fr := bits w 0 f.fbits
  let neg := bits w (f.fbits + f.ebits) 1 == 1
  if ex == 2 ^ f.ebits - 1 then
    if fr == 0 then .inf neg else .nan (decide (fr < 2 ^ (f.fbits - 1)))
  else if ex == 0 then .fin neg fr (f.emin - f.fbits)
  else .fin neg (2 ^ f.fbits + fr) ((ex : Int) - f.bias - f.fbits)

/-- Whether a value with `r` left over of `2^sh` is moved away from zero (R76). -/
def roundsUp (mode : Nat) (neg odd : Bool) (r d : Nat) : Bool :=
  match mode with
  | 0 => decide (d < 2 * r) || (2 * r == d && odd)
  | 1 => false
  | 2 => !neg && decide (0 < r)
  | _ => neg && decide (0 < r)

/-- m / 2^sh rounded to an integer, and whether that was inexact. -/
def shiftRound (mode : Nat) (neg : Bool) (m sh : Nat) : Nat × Bool :=
  let d := 2 ^ sh
  let q := m / d
  let r := m % d
  (if roundsUp mode neg (q % 2 == 1) r d then q + 1 else q, r != 0)

/-- m × 2^e rounded to a multiple of 2^q. -/
def quantize (mode : Nat) (neg : Bool) (m : Nat) (e q : Int) : Nat × Bool :=
  if q ≤ e then (m * 2 ^ (e - q).toNat, false) else shiftRound mode neg m (q - e).toNat

/-- What IEEE 754 delivers on overflow in a mode. -/
def overflowMag (f : Fmt) (mode : Nat) (neg : Bool) : Nat :=
  match mode with
  | 0 => f.top
  | 1 => f.top - 1
  | 2 => if neg then f.top - 1 else f.top
  | _ => if neg then f.top else f.top - 1

/-- ±m × 2^e with m > 0, rounded once (R76), with its flags (R80: tininess is detected after rounding). -/
def roundMag (f : Fmt) (mode : Nat) (neg : Bool) (m : Nat) (e : Int) : Nat × Nat :=
  let x : Int := e + (Nat.log2 m : Nat)
  let xc : Int := if x < f.emin then f.emin else x
  let r := quantize mode neg m e (xc - f.fbits)
  let enc := (xc - f.emin).toNat * 2 ^ f.fbits + r.1
  if f.top ≤ enc then (f.sign neg + overflowMag f mode neg, fOF ||| fNX)
  else
    let r' := quantize mode neg m e (x - f.fbits)
    let tiny := decide (x < f.emin) && !(r'.1 == 2 ^ (f.fbits + 1) && x + 1 == f.emin)
    (f.sign neg + enc, if r.2 then (if tiny then fUF ||| fNX else fNX) else 0)

/-- An exact number n × 2^e. -/
abbrev Dy := Int × Int

def dyAdd (a b : Dy) : Dy :=
  let e := min a.2 b.2
  (a.1 * 2 ^ (a.2 - e).toNat + b.1 * 2 ^ (b.2 - e).toNat, e)

/-- An exact number rounded; an exact zero takes the sign `zneg`. -/
def roundDy (f : Fmt) (mode : Nat) (zneg : Bool) (v : Dy) : Nat × Nat :=
  if v.1 = 0 then (f.sign zneg, 0) else roundMag f mode (decide (v.1 < 0)) v.1.natAbs v.2

def FV.isNan : FV → Bool
  | .nan _ => true
  | _ => false

def FV.isSig : FV → Bool
  | .nan s => s
  | _ => false

def FV.isInf (neg : Bool) : FV → Bool
  | .inf n => n == neg
  | _ => false

def FV.isZero (neg : Bool) : FV → Bool
  | .fin n m _ => m == 0 && n == neg
  | _ => false

def FV.neg : FV → FV
  | .nan s => .nan s
  | .inf n => .inf (!n)
  | .fin n m e => .fin (!n) m e

/-- The exact number of a finite value, 0 otherwise. -/
def FV.dy : FV → Dy
  | .fin n m e => (if n then -(m : Int) else m, e)
  | _ => (0, 0)

/-- The exact sum of the terms, rounded once: NaN, infinity and zero sign as IEEE 754 and R70 give. -/
def sumFV (f : Fmt) (mode : Nat) (ts : List FV) : Nat × Nat :=
  if ts.any FV.isNan then (f.nan, if ts.any FV.isSig then fNV else 0)
  else if ts.any (FV.isInf true) && ts.any (FV.isInf false) then (f.nan, fNV)
  else if ts.any (FV.isInf true) then (f.sign true + f.top, 0)
  else if ts.any (FV.isInf false) then (f.top, 0)
  else
    let zneg := if ts.all (FV.isZero true) then true else if ts.all (FV.isZero false) then false else mode == 3
    roundDy f mode zneg ((ts.map FV.dy).foldl dyAdd (0, 0))

/-- The exact product, with NV for a signalling operand and for 0 × ∞ (R80). -/
def prodFV (a b : FV) : FV × Nat :=
  match a, b with
  | .nan s, y => (.nan false, if s || y.isSig then fNV else 0)
  | x, .nan s => (.nan false, if s || x.isSig then fNV else 0)
  | .inf n, .inf k => (.inf (n != k), 0)
  | .inf n, .fin k m _ => if m == 0 then (.nan false, fNV) else (.inf (n != k), 0)
  | .fin k m _, .inf n => if m == 0 then (.nan false, fNV) else (.inf (n != k), 0)
  | .fin n m e, .fin k p d => (.fin (n != k) (m * p) (e + d), 0)

/-- A value rounded into a format. -/
def packFV (f : Fmt) (mode : Nat) : FV → Nat × Nat
  | .nan s => (f.nan, if s then fNV else 0)
  | .inf n => (f.sign n + f.top, 0)
  | .fin n m e => if m = 0 then (f.sign n, 0) else roundMag f mode n m e

def fAdd (f : Fmt) (mode a b : Nat) : Nat × Nat := sumFV f mode [unpack f a, unpack f b]
def fSub (f : Fmt) (mode a b : Nat) : Nat × Nat := sumFV f mode [unpack f a, (unpack f b).neg]

def fMul (f : Fmt) (mode a b : Nat) : Nat × Nat :=
  let p := prodFV (unpack f a) (unpack f b)
  let r := packFV f mode p.1
  (r.1, p.2 ||| r.2)

/-- One rounding of a × b + c; 0 × ∞ raises NV even when c is a quiet NaN (R157). -/
def fFma (f : Fmt) (mode a b c : Nat) : Nat × Nat :=
  let p := prodFV (unpack f a) (unpack f b)
  let r := sumFV f mode [p.1, unpack f c]
  (r.1, p.2 ||| r.2)

/-- Whether a < b for values that are no NaN; −0 and +0 are equal. -/
def FV.lt (a b : FV) : Bool :=
  match a, b with
  | .inf n, .inf k => n && !k
  | .inf n, .fin _ _ _ => n
  | .fin _ _ _, .inf k => !k
  | .fin n m e, .fin k p d =>
    let s := dyAdd (FV.fin n m e).dy (FV.fin (!k) p d).dy
    decide (s.1 < 0)
  | _, _ => false

/-- v.fmin and v.fmax (R158). -/
def fMinMax (f : Fmt) (isMax : Bool) (a b : Nat) : Nat × Nat :=
  let x := unpack f a
  let y := unpack f b
  if x.isSig || y.isSig then (f.nan, fNV)
  else if x.isNan && y.isNan then (f.nan, 0)
  else
    let aLess :=
      if x.isNan || y.isNan then y.isNan != isMax
      else if x.lt y then true else if y.lt x then false else bits a (f.ebits + f.fbits) 1 == 1
    (bits (if aLess != isMax then a else b) 0 (f.ebits + f.fbits + 1), 0)

/-- A comparison (R159): the truth value and the flags. -/
def fCmp (f : Fmt) (c : Cond) (a b : Nat) : Bool × Nat :=
  let x := unpack f a
  let y := unpack f b
  let nan := x.isNan || y.isNan
  let sig := x.isSig || y.isSig
  let ordered := c != .eq && c != .ne
  let fl := if sig || (nan && ordered) then fNV else 0
  if nan then (c == .ne, fl)
  else
    let l := x.lt y
    let g := y.lt x
    (match c with
      | .eq => !l && !g | .ne => l || g | .lt => l | .le => !g | .gt => g | .ge => !l, fl)

/-- The class word (R160). -/
def fClass (f : Fmt) (a : Nat) : Nat :=
  match unpack f a with
  | .nan s => if s then 256 else 512
  | .inf n => if n then 1 else 128
  | .fin n m _ =>
    if m == 0 then (if n then 8 else 16)
    else if m < 2 ^ f.fbits then (if n then 4 else 32)
    else if n then 2 else 64

/-- (a + b) − s for a finite rounded sum s; +0 when s is not finite (R161, R87). Where a directed mode leaves a difference that FP32 does not
hold, it is rounded once in that mode and raises no flag of its own. DESIGN CHOICE (notes/assumptions/26.md). -/
def sumError (mode a b s : Nat) : Nat :=
  match unpack fp32 s with
  | .fin n m e => (sumFV fp32 mode [unpack fp32 a, unpack fp32 b, (FV.fin n m e).neg]).1
  | _ => 0

/-- v.twosum (R161): s, e and the flags of the addition. -/
def twoSum (mode a b : Nat) : Nat × Nat × Nat :=
  let s := fAdd fp32 mode a b
  (s.1, sumError mode a b s.1, s.2)

/-- A compensated pair as its 64-bit value: hi in 63:32, lo in 31:0 (R86). FADDC (R87). -/
def faddc (pair x : Nat) : Nat :=
  let t := twoSum 0 (bits pair 32 32) x
  t.1 * 2 ^ 32 + (fAdd fp32 0 (bits pair 0 32) t.2.1).1

/-- RDC (R87). -/
def rdcOf (pair : Nat) : Nat := (fAdd fp32 0 (bits pair 32 32) (bits pair 0 32)).1

/-! ## Conversions (R78, R162) -/

/-- The least and the greatest value of an integer type. -/
def tyMin (t : Ty) : Int := if t.signed then -(2 ^ (t.width - 1) : Nat) else 0
def tyMax (t : Ty) : Int := if t.signed then (2 ^ (t.width - 1) : Nat) - 1 else (2 ^ t.width : Nat) - 1

/-- The value of the low bits of a word under an integer type (R68, R148). -/
def intOf (t : Ty) (w : Nat) : Int :=
  let v := bits w 0 t.width
  if t.signed && 2 ^ (t.width - 1) ≤ v then (v : Int) - (2 ^ t.width : Nat) else v

/-- The low `n` bits of an integer. -/
def lowBits (n : Nat) (v : Int) : Nat := (v % ((2 ^ n : Nat) : Int)).toNat

/-- A result of an integer type as a lane holds it (R148). -/
def laneOf (t : Ty) (v : Int) : Lane :=
  let x := lowBits t.width v
  BitVec.ofInt 32 (intOf t x)

/-- FP to integer (R78). -/
def fpToInt (t : Ty) (mode : Nat) (sat : Bool) (v : FV) : Int × Nat :=
  let pat : Int := (2 ^ (t.width - 1) : Nat)
  match v with
  | .nan _ => (if sat then 0 else pat, fNV)
  | .inf n => (if sat then (if n then tyMin t else tyMax t) else pat, fNV)
  | .fin n m e =>
    let r := quantize mode n m e 0
    let i : Int := if n then -(r.1 : Int) else r.1
    if i < tyMin t || tyMax t < i then
      (if sat then (if i < tyMin t then tyMin t else tyMax t) else pat, fNV)
    else (i, if r.2 then fNX else 0)

/-- A finite value into a format, the overflow row of R78 applied. -/
def toFp (f : Fmt) (mode : Nat) (sat : Bool) (v : FV) : Nat × Nat :=
  let r := packFV f mode v
  if sat && bits r.2 2 1 == 1 then (f.sign (bits r.1 (f.ebits + f.fbits) 1 == 1) + (f.top - 1), r.2) else r

/-- An integer as an exact value. -/
def fvOfInt (i : Int) : FV := .fin (decide (i < 0)) i.natAbs 0

/-- Whether a type is one of R157. -/
def isFp (t : Ty) : Bool := fpTys.contains t

/-- v.cvt: the lane `a` from `s` to `d` (R162). -/
def convert (s d : Ty) (mode : Nat) (sat : Bool) (a : Nat) : Lane × Nat :=
  if isFp s then
    let v := unpack (fmtOfTy s) a
    if isFp d then
      let r := toFp (fmtOfTy d) mode sat v
      (BitVec.ofNat 32 r.1, r.2)
    else
      let r := fpToInt d mode sat v
      (laneOf d r.1, r.2)
  else
    let i := intOf s a
    if isFp d then
      let r := toFp (fmtOfTy d) mode sat (fvOfInt i)
      (BitVec.ofNat 32 r.1, r.2)
    else if s.width < d.width then (laneOf d i, 0)
    else if sat then (laneOf d (if i < tyMin d then tyMin d else if tyMax d < i then tyMax d else i), 0)
    else (laneOf d i, 0)

/-- Widening to FP32: exact, a signalling NaN becomes the canonical NaN and raises NV (R162). -/
def widen (t : Ty) (a : Nat) : Nat × Nat := packFV fp32 0 (unpack (fmtOfTy t) a)

/-! ## Block floating point (R72 to R75) -/

/-- The signed value of the low `w` bits. -/
def signedBits (w v : Nat) : Int := if 2 ^ (w - 1) ≤ bits v 0 w then (bits v 0 w : Int) - (2 ^ w : Nat) else bits v 0 w

/-- The exact value of a QB element (R72); a NaN for the exponent 0xFF. -/
def qbValue (w ex : Nat) (m : Int) : FV :=
  if ex == 0xFF then .nan false else .fin (decide (m < 0)) m.natAbs ((ex : Int) - 127 - ((w : Int) - 1))

/-- A QB element as FP32 (R74): exact. -/
def qbToFp32 (w ex : Nat) (m : Int) : Nat :=
  match qbValue w ex m with
  | .fin _ 0 _ => 0
  | v => (packFV fp32 0 v).1

/-- |x| as (infinite, mantissa, exponent); QUANT compares these. -/
def magLt (a b : FV) : Bool :=
  match a, b with
  | .inf _, _ => false
  | _, .inf _ => true
  | .fin _ m e, .fin _ p d => (FV.fin false m e).lt (.fin false p d)
  | _, _ => false

/-- One mantissa of QUANT: y = x × 2^(w − 1 − (E − 127)) rounded to nearest, ties to even, and clamped. -/
def quantElem (w : Nat) (ex : Nat) (x : FV) : Int × Nat :=
  let hi : Int := (2 ^ (w - 1) : Nat) - 1
  let lo : Int := -(2 ^ (w - 1) : Nat)
  match x with
  | .nan _ => (0, 0)
  | .inf n => (if n then lo else hi, fQS ||| fNX)
  | .fin n m e =>
    let e' : Int := e + (w : Int) - 1 - ((ex : Int) - 127)
    let r := quantize 0 n m e' 0
    let i : Int := if n then -(r.1 : Int) else r.1
    let y : Dy := (FV.fin n m e').dy
    let beyond := decide (0 ≤ (dyAdd y (lo, 0)).1) || decide ((dyAdd y (-lo, 0)).1 < 0)
    let c := if i < lo then lo else if hi < i then hi else i
    (c, (if beyond then fQS else 0) ||| (if r.2 || c != i then fNX else 0))

/-- QUANT (R75): the shared exponent, the mantissas and the flags. -/
def quant (w : Nat) (xs : List FV) : Nat × List Int × Nat :=
  if xs.any FV.isNan then (0xFF, xs.map (fun _ => 0), if xs.any FV.isSig then fNV else 0)
  else
    let big := xs.foldl (fun a x => if magLt a x then x else a) (.fin false 0 0)
    match big with
    | .fin _ 0 _ => (0, xs.map (fun _ => 0), 0)
    | _ =>
      let ex : Nat := match big with
        | .fin _ m e => min 0xFE (e + (Nat.log2 m : Nat) + 128).toNat
        | _ => 0xFE
      let rs := xs.map (quantElem w ex)
      (ex, rs.map (fun r => r.1), rs.foldl (fun a r => a ||| r.2) 0)

end Sys2Proof.Machine
end

