-- ==== Sys2Proof/Decode.lean ====
section
/-!
DEFINITION. The decoder, from bytes (R93) to instructions or a rejection by fault code, and the encoder, both written
from 06_encoding.md and the encodings of each instruction's rule. Decoding is total. A slot is a number whose
bit 0 is its least significant bit.
-/

namespace Sys2Proof

open Sys2Proof.Machine

/-- What a slot decodes to: an instruction, or the code of the decoding fault it raises (R111, R332):
2 ILLEGAL_OPCODE, 3 RESERVED_FIELD. -/
inductive Dec
  | ok (i : Instr)
  | bad (code : Nat)
  deriving DecidableEq, Repr

/-- The checks on one decoded slot: the type rules first, since their code is the lower one; then the unused bits
`u` (R101, R104) and the operand rules. -/
def chk (u : Nat) (i : Instr) : Dec :=
  if !typeOk i then .bad 2 else if u != 0 || !fieldsOk i then .bad 3 else .ok i

/-- TYPE (R105). -/
def tyOf : Nat → Option Ty
  | 0 => some .i8 | 1 => some .i16 | 2 => some .i32 | 3 => some .i64
  | 4 => some .z8 | 5 => some .z16 | 6 => some .z32 | 7 => some .z64
  | 8 => some .f32 | 9 => some .f16 | 10 => some .bf16 | 11 => some .qb
  | _ => none

/-- The code of a TYPE (R105). -/
def Ty.code : Ty → Nat
  | .i8 => 0 | .i16 => 1 | .i32 => 2 | .i64 => 3 | .z8 => 4 | .z16 => 5 | .z32 => 6 | .z64 => 7
  | .f32 => 8 | .f16 => 9 | .bf16 => 10 | .qb => 11

/-- COND (R130). -/
def condOf : Nat → Option Cond
  | 0 => some .eq | 1 => some .ne | 2 => some .lt | 3 => some .le | 4 => some .gt | 5 => some .ge
  | _ => none

/-- The code of a COND (R130). -/
def Cond.code : Cond → Nat
  | .eq => 0 | .ne => 1 | .lt => 2 | .le => 3 | .gt => 4 | .ge => 5

/-- The code of a compare code (R130). -/
def CmpCode.code (c : CmpCode) : Nat := c.cond.code + 8 * c.wid.toNat + 32 * c.z.toNat

/-- FQ (R26); 0b11 is caught by `fqBad`. -/
def fqOf : Nat → FQ
  | 1 => .fa | 2 => .fb | _ => .both

/-- The code of a face qualifier (R26). -/
def FQ.code : FQ → Nat
  | .both => 0 | .fa => 1 | .fb => 2

/-- FQ = 0b11 traps RESERVED_FIELD (R106). -/
def fqBad (n : Nat) : Nat := if n == 3 then 1 else 0

/-- A one-bit field. -/
def flag (w lo : Nat) : Bool := bits w lo 1 == 1

/-! ## The scalar slot (R101) -/

def sD (w : Nat) : SReg := field 6 w 38
def sA (w : Nat) : SReg := field 6 w 32
def sB (w : Nat) : SReg := field 6 w 26
def sImm (w : Nat) : BitVec 32 := field 32 w 0

/-- An instruction with a type in bits lo + 3 … lo; a reserved TYPE traps ILLEGAL_OPCODE (R105). -/
def withTy (w lo : Nat) (f : Ty → Dec) : Dec :=
  match tyOf (bits w lo 4) with
  | some t => f t
  | none => .bad 2

/-- An instruction with a compare code in bits 5:0; a COND of 6 or 7 traps RESERVED_FIELD (R130). -/
def withCmp (w : Nat) (f : CmpCode → Dec) : Dec :=
  match condOf (bits w 0 3) with
  | some c => f { cond := c, wid := field 2 w 3, z := flag w 5 }
  | none => .bad 3

/-- A shift (R128). -/
def decShift (w : Nat) (mk : SReg → SReg → Cnt → Instr) : Dec :=
  if flag w 6 then chk (bits w 7 25) (mk (sD w) (sA w) (.imm (field 6 w 0)))
  else chk (bits w 0 26) (mk (sD w) (sA w) (.reg (sB w)))

/-- sd, sa and sb used, func 0 (R125). -/
def decS3 (w : Nat) (mk : SReg → SReg → SReg → Instr) : Dec := chk (bits w 0 26) (mk (sD w) (sA w) (sB w))
/-- sd and sa used. -/
def decS2 (w : Nat) (mk : SReg → SReg → Instr) : Dec := chk (bits w 0 32) (mk (sD w) (sA w))
/-- SI (R127). -/
def decSI (w : Nat) (mk : SReg → SReg → BitVec 32 → Instr) : Dec := chk 0 (mk (sD w) (sA w) (sImm w))
/-- SI with sa = 0. -/
def decSI0 (w : Nat) (mk : SReg → BitVec 32 → Instr) : Dec := chk (bits w 32 6) (mk (sD w) (sImm w))
/-- A barrier (R175). -/
def decBar (w : Nat) (mk : BitVec 2 → BitVec 4 → Instr) : Dec := chk (bits w 6 38) (mk (field 2 w 0) (field 4 w 2))
/-- m.ld and m.st (R286). -/
def decMT (w : Nat) (mk : AReg → SReg → Ty → BitVec 4 → Bool → Instr) : Dec :=
  withTy w 0 fun t => chk (bits w 9 23) (mk (sD w) (sA w) t (field 4 w 4) (flag w 8))
/-- Two tiles (R286). -/
def decMM (w : Nat) (mk : AReg → AReg → Instr) : Dec := chk (bits w 6 32) (mk (sD w) (field 6 w 0))
/-- x.allmax, x.bcast, x.gather (R302). -/
def decX (w : Nat) (mk : SReg → Ty → Instr) : Dec :=
  withTy w 4 fun t => chk (bits w 0 4 + bits w 8 24 + bits w 38 6) (mk (sA w) t)

/-- The scalar slot, 52 bits, by the map of R112. -/
def decodeScalar (w : Nat) : Dec :=
  match bits w 44 8 with
  | 0x00 => chk (bits w 0 44) .nop
  | 0x01 => decS3 w .sAdd | 0x02 => decS3 w .sSub | 0x03 => decSI w .sAddi
  | 0x04 => decS3 w .sMul | 0x05 => decS3 w .sMulh | 0x06 => decS3 w .sMulhz
  | 0x07 => decS3 w .sDiv | 0x08 => decS3 w .sDivz | 0x09 => decS3 w .sRem | 0x0A => decS3 w .sRemz
  | 0x10 => decS3 w .sAnd | 0x11 => decS3 w .sOr | 0x12 => decS3 w .sXor
  | 0x13 => decSI w .sAndi | 0x14 => decSI w .sOri | 0x15 => decSI w .sXori
  | 0x16 => decS2 w .sNot
  | 0x18 => decShift w .sShl | 0x19 => decShift w .sShr | 0x1A => decShift w .sSra | 0x1B => decShift w .sRot
  | 0x1C => decS2 w .sClz | 0x1D => decS2 w .sPopc
  | 0x1E => chk (bits w 14 18) (.sBfx (sD w) (sA w) (flag w 13) (field 7 w 6) (field 6 w 0))
  | 0x1F => chk (bits w 13 19) (.sBfi (sD w) (sA w) (field 7 w 6) (field 6 w 0))
  | 0x20 => decS3 w .sMin | 0x21 => decS3 w .sMax | 0x22 => decS3 w .sMinz | 0x23 => decS3 w .sMaxz
  | 0x24 => chk (bits w 6 20) (.sSel (sD w) (sA w) (sB w) (field 6 w 0))
  | 0x25 => withCmp w fun c => chk (bits w 6 20) (.sCmp (sD w) (sA w) (sB w) c)
  | 0x28 => decSI0 w .sMovi | 0x29 => decSI w .sMovhi | 0x2A => decSI0 w .sLea
  | 0x2C =>
    if bits w 32 6 == 0 then chk (bits w 38 6) (.sSetfmtImm (sImm w))
    else chk (bits w 38 6 + bits w 0 32) (.sSetfmtReg (sA w))
  | 0x2D => chk (bits w 0 38) (.sGetfmt (sD w))
  | 0x2E => withCmp w fun c => chk (bits w 6 20 + bits w 42 2) (.sGset (field 4 w 38) (sA w) (sB w) c)
  | 0x2F => chk (bits w 0 38 + bits w 42 2) (.sGclr (field 4 w 38))
  | 0x30 => chk (bits w 38 6) (.br (field 38 w 0))
  | 0x31 => withCmp w fun c => chk (bits w 38 6) (.bcc (sA w) (sB w) c (field 20 w 6))
  | 0x32 => chk (bits w 38 6) (.jmp (sA w) (sImm w))
  | 0x33 => chk (bits w 38 6 + bits w 20 6) (.brx (sA w) (sB w) (field 20 w 0))
  | 0x34 => chk (bits w 39 5) (.call (flag w 38) (field 38 w 0))
  | 0x35 => chk (bits w 38 6 + bits w 1 31) (.callx (flag w 0) (sA w))
  | 0x36 => chk (bits w 38 6 + bits w 0 32) (.ret (sA w))
  | 0x37 => chk 0 (.loopS (sD w) (field 38 w 0))
  | 0x38 => chk (bits w 0 44) .sYield
  | 0x39 => chk (bits w 0 44) .sEnd
  | 0x40 => chk (bits w 2 42) (.barGrp (field 2 w 0))
  | 0x41 => decBar w .barBlk | 0x42 => decBar w .barClu | 0x43 => decBar w .barGrid
  | 0x44 =>
    chk (bits w 25 19) (.wait { etc := flag w 24, tcv := field 4 w 20, ecc := flag w 19, ccv := field 5 w 14
                                esc := flag w 13, scv := field 6 w 7, elc := flag w 6, lcv := field 6 w 0 })
  | 0x45 =>
    withCmp w fun c =>
      chk (bits w 42 2) (.gLd (field 4 w 38) (sA w) (sB w) (field 15 w 11) (field 3 w 8) (field 2 w 6) c)
  | 0x46 => chk (bits w 4 34) (.draw (sD w) (field 4 w 0))
  | 0x47 => chk (bits w 38 6 + bits w 0 32) (.deal (sA w))
  | 0x48 => chk (bits w 0 44) .idem
  | 0x49 => chk (bits w 8 30) (.sGetsr (sD w) (field 8 w 0))
  | 0x4A => chk (bits w 8 24 + bits w 38 6) (.sSetsr (field 8 w 0) (sA w))
  | 0x4B => chk (bits w 5 33) (.sSys (sD w) (field 5 w 0))
  | 0x4C => chk (bits w 16 28) (.trap (field 16 w 0))
  | 0x4D => chk (bits w 2 42) (.rett (field 2 w 0))
  | 0x4E => chk (bits w 16 28) (.brk (field 16 w 0))
  | 0x4F => chk (bits w 2 36) (.sBudget (sD w) (field 2 w 0))
  | 0x50 => chk (bits w 0 44) .halt
  | 0x51 => chk (bits w 0 26 + bits w 38 6) (.ifence (sA w) (sB w))
  | 0x60 => chk (bits w 0 38) (.mZero (sD w))
  | 0x61 => chk (bits w 8 18) (.mMma (sD w) (sA w) (sB w) (field 6 w 0) (flag w 6) (flag w 7))
  | 0x62 =>
    chk (bits w 16 10)
      (.mMmas (sD w) (sA w) (sB w) (field 6 w 0) (flag w 6) (flag w 7) (field 6 w 8) (field 2 w 14))
  | 0x63 => decMT w .mLd | 0x64 => decMT w .mSt
  | 0x65 => decMM w .mXpose
  | 0x66 => chk (bits w 6 26) (.mPerm (sD w) (field 6 w 0) (sA w))
  | 0x67 => decMM w .mRsum
  | 0x68 => chk (bits w 13 25) (.mScale (sD w) (field 6 w 0) (field 7 w 6))
  | 0x70 => chk (bits w 3 23) (.cCopy (sD w) (sA w) (sB w) (flag w 0) (flag w 1) (flag w 2))
  | 0x71 => chk (bits w 5 21) (.cCopyt (sD w) (sA w) (sB w) (flag w 0) (flag w 1) (flag w 2) (field 2 w 3))
  | 0x72 => chk (bits w 9 23) (.cFill (sD w) (sA w) (field 8 w 0) (flag w 8))
  | 0x73 =>
    chk (bits w 0 1 + bits w 10 16) (.cSend (sD w) (sA w) (sB w) (flag w 1) (flag w 2) (flag w 3) (field 6 w 4))
  | 0x74 => chk (bits w 0 32 + bits w 38 6) (.cSig (sA w))
  | 0x78 =>
    withTy w 4 fun t => chk (bits w 12 20 + bits w 38 6) (.xAllred (sA w) (field 4 w 0) t (field 4 w 8))
  | 0x79 => decX w .xAllmax | 0x7A => decX w .xBcast | 0x7B => decX w .xGather
  | 0x7C => chk (bits w 0 38) (.xWait (sD w))
  | _ => .bad 2

/-! ## The vector slot (R103, R104) -/

def vM (w : Nat) : MReg := field 3 w 46
def vD (w : Nat) : VReg := field 7 w 39
def vA (w : Nat) : VReg := field 7 w 32
def vB (w : Nat) : VReg := field 7 w 25
def vC (w : Nat) : VReg := field 7 w 18
def vFq (w : Nat) : FQ := fqOf (bits w 16 2)
def vFqBad (w : Nat) : Nat := fqBad (bits w 16 2)

/-- Two sources: VT when M = 1, else VR with vc and OPX 0 (R104, R151). -/
def decVBin (w : Nat) (mk : MReg → VBin → Ty → Instr) : Dec :=
  withTy w 0 fun t =>
  if flag w 49 then chk 0 (mk (vM w) (.vt (vD w) (vA w) (vB w) (vC w) (field 7 w 11) (field 7 w 4)) t)
  else chk (bits w 18 7 + bits w 4 12 + vFqBad w) (mk (vM w) (.vr (vFq w) (vD w) (vA w) (vB w)) t)

/-- One source: VT with vbA and vbB 0, or VR with vb, vc and OPX 0. -/
def decVUn (w : Nat) (mk : MReg → VUn → Ty → Instr) : Dec :=
  withTy w 0 fun t =>
  if flag w 49 then chk (bits w 4 14) (mk (vM w) (.vt (vD w) (vA w) (vB w) (vC w)) t)
  else chk (bits w 18 14 + bits w 4 12 + vFqBad w) (mk (vM w) (.vr (vFq w) (vD w) (vA w)) t)

/-- Three sources: the shared-addend VT, or VR (R149). -/
def decVTer (w : Nat) (mk : MReg → VTer → Ty → Instr) : Dec :=
  withTy w 0 fun t =>
  if flag w 49 then chk 0 (mk (vM w) (.vt (vD w) (vA w) (vB w) (vC w) (field 7 w 11) (field 7 w 4)) t)
  else chk (bits w 4 12 + vFqBad w) (mk (vM w) (.vr (vFq w) (vD w) (vA w) (vB w) (vC w)) t)

/-- VI (R104, R152). -/
def decVI (w : Nat) (mk : MReg → VImm → Ty → Instr) : Dec :=
  withTy w 28 fun t =>
  chk (bits w 18 10 + vFqBad w) (mk (vM w) { fq := vFq w, vd := vD w, va := vA w, imm := field 16 w 0 } t)

/-- A compare of two registers (R155, R159). -/
def decVCmp (w : Nat) (mk : MReg → FQ → MReg → VReg → VReg → Ty → Instr) : Dec :=
  withTy w 0 fun t =>
  chk (bits w 42 4 + bits w 18 7 + bits w 4 12 + vFqBad w) (mk (vM w) (vFq w) (field 3 w 39) (vA w) (vB w) t)

/-- A compare with an immediate (R155). -/
def decVCmpI (w : Nat) (mk : MReg → FQ → MReg → VReg → Ty → BitVec 16 → Instr) : Dec :=
  withTy w 28 fun t =>
  chk (bits w 42 4 + bits w 18 10 + vFqBad w) (mk (vM w) (vFq w) (field 3 w 39) (vA w) t (field 16 w 0))

/-- `v.shfl` and `v.bcast` (R167, R168). -/
def decSh (w : Nat) (u : Nat) (mk : ShSrc → Instr) : Dec :=
  if flag w 6 then chk (u + bits w 13 3 + bits w 18 14 + bits w 0 4 + vFqBad w) (mk (.imm (field 6 w 7)))
  else chk (u + bits w 7 9 + bits w 18 7 + bits w 0 4 + vFqBad w) (mk (.reg (vB w)))

/-- Two mask sources and a mask destination (R172). -/
def decK2 (w : Nat) (mk : MReg → FQ → MReg → MReg → MReg → Instr) : Dec :=
  chk (bits w 42 4 + bits w 35 4 + bits w 28 4 + bits w 18 7 + bits w 0 16 + vFqBad w)
    (mk (vM w) (vFq w) (field 3 w 39) (field 3 w 32) (field 3 w 25))

/-- One mask source and a mask destination (R172). -/
def decK1 (w : Nat) (mk : MReg → FQ → MReg → MReg → Instr) : Dec :=
  chk (bits w 42 4 + bits w 35 4 + bits w 18 14 + bits w 0 16 + vFqBad w)
    (mk (vM w) (vFq w) (field 3 w 39) (field 3 w 32))

/-- VM (R104). An instruction without a type suffix treats a reserved TYPE as a non-zero unused field (R105). -/
def decVM (w : Nat) (suffix : Bool) (mk : MOp → Instr) : Dec :=
  let o := fun t =>
    mk { m := vM w, data := vD w, base := field 6 w 32, off := field 14 w 18, fq := vFq w, acc := field 2 w 14
         scope := field 3 w 11, am := field 2 w 9, d := flag w 8, p := flag w 4, ty := t }
  match tyOf (bits w 0 4) with
  | some t => chk (bits w 38 1 + bits w 5 3 + vFqBad w) (o t)
  | none => .bad (if suffix then 2 else 3)

/-- VJ with a mask register in REG (R248). -/
def decVJ (w : Nat) (mk : MReg → BitVec 39 → Instr) : Dec :=
  chk (bits w 46 3 + bits w 42 4) (mk (field 3 w 39) (field 39 w 0))

/-- `demote` and `exit` (R248). -/
def decDX (w : Nat) (mk : FQ → MReg → Instr) : Dec :=
  chk (bits w 46 3 + bits w 39 7 + bits w 35 4 + bits w 18 14 + bits w 0 16 + vFqBad w) (mk (vFq w) (field 3 w 32))

/-- The VOPs that the map of R114 marks †. -/
def daggers : List Nat :=
  [0x001, 0x002, 0x003, 0x004, 0x005, 0x006, 0x007, 0x008, 0x009, 0x00A, 0x00B, 0x00C, 0x00D, 0x00E, 0x00F, 0x010]
  ++ [0x011, 0x012, 0x015, 0x040, 0x041, 0x042, 0x043, 0x044, 0x045]
  ++ [0x058, 0x059, 0x05A, 0x05B, 0x05C, 0x05D, 0x05E]

/-- Rows 0x00 to 0x03 of the map of R114. -/
def decodeVecInt (w : Nat) : Dec :=
  match bits w 50 10 with
  | 0x000 => chk (bits w 0 49) .vNop
  | 0x001 => decVBin w .vAdd | 0x002 => decVBin w .vSub | 0x003 => decVBin w .vMul
  | 0x004 => decVTer w .vMad | 0x005 => decVBin w .vMulhi | 0x006 => decVBin w .vMin | 0x007 => decVBin w .vMax
  | 0x008 => decVUn w .vAbs | 0x009 => decVUn w .vNeg
  | 0x00A => decVBin w .vAnd | 0x00B => decVBin w .vOr | 0x00C => decVBin w .vXor | 0x00D => decVUn w .vNot
  | 0x00E => decVBin w .vShl | 0x00F => decVBin w .vShr | 0x010 => decVBin w .vSra
  | 0x011 => decVUn w .vClz | 0x012 => decVUn w .vPopc
  | 0x013 =>
    withTy w 0 fun t =>
    chk (bits w 18 14 + bits w 4 1 + vFqBad w) (.vBfx (vM w) (vFq w) (vD w) (vA w) t (field 6 w 10) (field 5 w 5))
  | 0x014 =>
    chk (bits w 21 4 + bits w 0 16 + vFqBad w) (.vSel (vM w) (vFq w) (vD w) (vA w) (vB w) (field 3 w 18))
  | 0x015 =>
    if flag w 49 then chk (bits w 0 18) (.vMov (vM w) (.vt (vD w) (vA w) (vB w) (vC w)))
    else chk (bits w 18 14 + bits w 0 16 + vFqBad w) (.vMov (vM w) (.vr (vFq w) (vD w) (vA w)))
  | 0x016 =>
    chk (bits w 38 1 + bits w 18 14 + bits w 5 11 + bits w 0 4 + vFqBad w)
      (.vMovs (vM w) (vFq w) (vD w) (field 6 w 32) (flag w 4))
  | 0x017 =>
    chk (bits w 18 21 + bits w 7 9 + bits w 0 4 + vFqBad w) (.vLane (vM w) (vFq w) (vD w) (field 3 w 4))
  | 0x018 => decVCmp w .vCmpEq | 0x019 => decVCmp w .vCmpNe | 0x01A => decVCmp w .vCmpLt
  | 0x01B => decVCmp w .vCmpLe | 0x01C => decVCmp w .vCmpGt | 0x01D => decVCmp w .vCmpGe
  | 0x021 => decVI w .vAddImm | 0x022 => decVI w .vSubImm | 0x023 => decVI w .vMulImm
  | 0x026 => decVI w .vMinImm | 0x027 => decVI w .vMaxImm
  | 0x02A => decVI w .vAndImm | 0x02B => decVI w .vOrImm | 0x02C => decVI w .vXorImm
  | 0x02E => decVI w .vShlImm | 0x02F => decVI w .vShrImm | 0x030 => decVI w .vSraImm
  | 0x035 =>
    withTy w 28 fun t =>
    chk (bits w 32 7 + bits w 18 10 + vFqBad w) (.vMovi (vM w) (vFq w) (vD w) t (field 16 w 0))
  | 0x038 => decVCmpI w .vCmpEqImm | 0x039 => decVCmpI w .vCmpNeImm | 0x03A => decVCmpI w .vCmpLtImm
  | 0x03B => decVCmpI w .vCmpLeImm | 0x03C => decVCmpI w .vCmpGtImm | 0x03D => decVCmpI w .vCmpGeImm
  | _ => .bad 2

/-- Rows 0x04 to 0x06 of the map of R114. -/
def decodeVecFp (w : Nat) : Dec :=
  match bits w 50 10 with
  | 0x040 => decVBin w .vFadd | 0x041 => decVBin w .vFsub | 0x042 => decVBin w .vFmul | 0x043 => decVTer w .vFma
  | 0x044 => decVBin w .vFmin | 0x045 => decVBin w .vFmax
  | 0x046 =>
    withTy w 0 fun t => chk (bits w 18 14 + bits w 4 12 + vFqBad w) (.vFclass (vM w) (vFq w) (vD w) (vA w) t)
  | 0x047 =>
    if bits w 0 4 == 8 then chk (bits w 4 12 + vFqBad w) (.vTwosum (vM w) (vFq w) (vD w) (vA w) (vB w) (vC w))
    else .bad 2
  | 0x048 => decVCmp w .vFcmpEq | 0x049 => decVCmp w .vFcmpNe | 0x04A => decVCmp w .vFcmpLt
  | 0x04B => decVCmp w .vFcmpLe | 0x04C => decVCmp w .vFcmpGt | 0x04D => decVCmp w .vFcmpGe
  | 0x050 =>
    withTy w 0 fun t => withTy w 4 fun s =>
    chk (bits w 8 8 + bits w 18 14 + vFqBad w) (.vCvt (vM w) (vFq w) (vD w) (vA w) s t)
  | 0x051 =>
    withTy w 0 fun t => chk (bits w 18 7 + bits w 4 12 + vFqBad w) (.vPack (vM w) (vFq w) (vD w) (vA w) (vB w) t)
  | 0x052 =>
    withTy w 0 fun t =>
    chk (bits w 18 14 + bits w 5 11 + vFqBad w) (.vUnpack (vM w) (vFq w) (vD w) (vA w) (flag w 4) t)
  | 0x053 =>
    if bits w 0 4 == 11 then
      chk (bits w 25 7 + bits w 8 8 + vFqBad w) (.vQpack (vM w) (vFq w) (vD w) (vA w) (vC w) (field 4 w 4))
    else .bad 2
  | 0x054 =>
    if bits w 0 4 == 11 then
      chk (bits w 18 7 + bits w 8 8 + vFqBad w) (.vQunpack (vM w) (vFq w) (vD w) (vA w) (vB w) (field 4 w 4))
    else .bad 2
  | 0x058 => decVUn w .vRcp | 0x059 => decVUn w .vRsqrt | 0x05A => decVUn w .vSqrt | 0x05B => decVUn w .vExp2
  | 0x05C => decVUn w .vLog2 | 0x05D => decVUn w .vSinpi | 0x05E => decVUn w .vCospi
  | 0x060 => decSh w 0 fun s => .vShfl (vM w) (vFq w) (vD w) (vA w) s (field 2 w 4)
  | 0x061 => decSh w (bits w 4 2) fun s => .vBcast (vM w) (vFq w) (vD w) (vA w) s
  | 0x062 =>
    withTy w 0 fun t =>
    chk (bits w 18 14 + bits w 8 8 + vFqBad w) (.vRedx (vM w) (vFq w) (vD w) (vA w) (field 4 w 4) t)
  | 0x063 =>
    withTy w 0 fun t =>
    chk (bits w 18 14 + bits w 9 7 + vFqBad w) (.vScan (vM w) (vFq w) (vD w) (vA w) (flag w 8) (field 4 w 4) t)
  | 0x064 =>
    withTy w 0 fun t =>
    chk (bits w 42 4 + bits w 18 14 + bits w 4 12 + vFqBad w) (.vBallot (vM w) (vFq w) (field 3 w 39) (vA w) t)
  | 0x068 => decK2 w .kAnd | 0x069 => decK2 w .kOr | 0x06A => decK2 w .kXor
  | 0x06B => decK1 w .kNot | 0x06C => decK1 w .kMov
  | 0x06D =>
    chk (bits w 35 4 + bits w 18 14 + bits w 0 16 + vFqBad w) (.kPopc (vM w) (vFq w) (vD w) (field 3 w 32))
  | 0x06E => decK1 w .kFirst
  | _ => .bad 2

/-- Rows 0x08 to 0x0A of the map of R114. -/
def decodeVecMem (w : Nat) : Dec :=
  match bits w 50 10 with
  | 0x080 => decVM w true .ld | 0x081 => decVM w true .st | 0x082 => decVM w true .ldv | 0x083 => decVM w true .stv
  | 0x084 => decVM w true .lds | 0x085 => decVM w true .sts | 0x086 => decVM w true .ldsv | 0x087 => decVM w true .stsv
  | 0x088 => decVM w true .rdc | 0x089 => decVM w true .stLog
  | 0x08A => decVM w false .tlogFlush | 0x08B => decVM w false .tlogLen | 0x08C => decVM w false .fence
  | 0x08D => decVM w true .waitw | 0x08E => decVM w false .pf | 0x08F => decVM w false .ipf
  | 0x090 => decVM w true .atomAdd | 0x091 => decVM w true .atomMin | 0x092 => decVM w true .atomMax
  | 0x093 => decVM w true .atomAnd | 0x094 => decVM w true .atomOr | 0x095 => decVM w true .atomXor
  | 0x096 => decVM w true .atomXchg | 0x097 => decVM w true .atomCas
  | 0x098 => decVM w true .redAdd | 0x099 => decVM w true .redMin | 0x09A => decVM w true .redMax
  | 0x09B => decVM w true .redAnd | 0x09C => decVM w true .redOr | 0x09D => decVM w true .redXor
  | 0x09E => decVM w true .redFadd | 0x09F => decVM w true .redFaddc
  | 0x0A0 => decVM w true .elide | 0x0A1 => decVM w false .elidend | 0x0A2 => decVM w false .eliabort
  | _ => .bad 2

/-- Row 0x0C of the map of R114 (R248). -/
def decodeVecPath (w : Nat) : Dec :=
  match bits w 50 10 with
  | 0x0C0 => decVJ w .brv
  | 0x0C1 => chk (bits w 0 49) .join
  | 0x0C2 => decVJ w .meld
  | 0x0C3 => chk (bits w 0 49) .meldend
  | 0x0C4 => decDX w .demote | 0x0C5 => decDX w .exit
  | 0x0C6 => chk (bits w 46 3) (.loopv (vD w) (field 39 w 0))
  | 0x0C7 => chk (bits w 0 49) .loopvEnd
  | 0x0C8 => decVJ w .bany | 0x0C9 => decVJ w .ball
  | _ => .bad 2

/-- The vector slot, 60 bits: M = 1 without † traps ILLEGAL_OPCODE (R103); then the map of R114. -/
def decodeVector (w : Nat) : Dec :=
  let v := bits w 50 10
  if flag w 49 && !daggers.contains v then .bad 2
  else if v < 0x040 then decodeVecInt w
  else if v < 0x070 then decodeVecFp w
  else if v < 0x0B0 then decodeVecMem w
  else decodeVecPath w

/-! ## Units -/

/-- SOPs of R138's list of transfers. -/
def transferSops : List Nat := [0x30, 0x31, 0x32, 0x33, 0x34, 0x35, 0x36, 0x37, 0x39]

/-- The guard slot that an instruction resolves or clears (R137, R174, R241). -/
def ownSlot : Instr → Option GReg
  | .sGset k _ _ _ | .sGclr k | .gLd k _ _ _ _ _ _ | .draw _ k => some k
  | .elide o => some (field 4 o.data.toNat 0)
  | _ => none

/-- What a fetched word is: a pair word, a solo word (`esc`: its body is the scalar escape), or ILLEGAL_FORMAT. -/
inductive Fetched
  | pair (stop gen gneg : Bool) (gslot : GReg) (s v : Dec)
  | solo (u stop esc : Bool) (d : Dec)
  | badFormat
  deriving DecidableEq, Repr

/-- A slot's fault joined with a further one: the lower code stands (R111). -/
def Dec.also (d : Dec) (fails : Bool) (code : Nat) : Dec :=
  if !fails then d
  else match d with
    | .ok _ => .bad code
    | .bad c => .bad (if code < c then code else c)

/-- R137, R174, R241: a governed word may not name its own guard slot. -/
def namesOwn (gen : Bool) (g : GReg) : Dec → Bool
  | .ok i => gen && ownSlot i == some g
  | .bad _ => false

/-- R248: instructions that may not be governed. -/
def notGoverned : Dec → Bool
  | .ok .join | .ok (.meld _ _) | .ok .meldend | .ok (.loopv _ _) | .ok .loopvEnd => true
  | _ => false

/-- A pair word (R94, R95). A header fault, and a scalar transfer beside row 0x0C (R138), counts as the
scalar slot's; an `elide` or `eliabort` that is not alone in its word (R241) as the vector slot's. -/
def decodePair (w : Nat) : Fetched :=
  let gen := flag w 124
  let gneg := flag w 123
  let gslot : GReg := field 4 w 119
  let sl := bits w 60 52
  let vl := bits w 0 60
  let hdr := bits w 112 7 != 0 || (!gen && bits w 119 5 != 0)
  let vop := bits w 50 10
  let cross := transferSops.contains (bits w 104 8) && vop / 16 == 0x0C
  let alone := (vop == 0x0A0 || vop == 0x0A2) && sl != 0
  let s := decodeScalar sl
  let v := decodeVector vl
  let s := ((s.also (namesOwn gen gslot s) 3).also hdr 3).also cross 2
  let v := (v.also (namesOwn gen gslot v || (gen && notGoverned v)) 3).also alone 2
  .pair (flag w 125) gen gneg gslot s v

/-- One solo word, 64 bits (R97, R99). -/
def decodeSolo (w : Nat) : Fetched :=
  if bits w 62 2 != 1 then .badFormat
  else
    let u := flag w 61
    if bits w 52 8 == 0xFF then .solo u (flag w 60) true ((decodeScalar (bits w 0 52)).also u 3)
    else .solo u (flag w 60) false ((decodeVector (bits w 0 60)).also (u && bits w 54 6 > 5) 3)

/-- R98: what the word at offset 0 of a two-solo unit may not hold. -/
def firstSoloBad (w : Nat) : Bool :=
  if bits w 52 8 == 0xFF then bits w 48 4 == 3 || bits w 44 8 == 0x4C || bits w 44 8 == 0x4D
  else bits w 54 6 == 0x0C

/-- The word at `second` (offset 8) or at offset 0 of the 16-byte unit `u` (R93, R98, R100). -/
def decodeUnit (svc second : Bool) (u : Nat) : Fetched :=
  match bits u 126 2 with
  | 2 => if second then .badFormat else decodePair u
  | 1 =>
    if !svc then .badFormat
    else if second then decodeSolo (bits u 64 64)
    else if firstSoloBad (bits u 0 64) then .badFormat
    else decodeSolo (bits u 0 64)
  | _ => .badFormat

/-- The number that bytes hold, little-endian (R93). -/
def ofBytes : List Byte → Nat
  | [] => 0
  | b :: r => b.toNat + 256 * ofBytes r

/-- The low `n` bytes of a number, little-endian. -/
def toBytes : Nat → Nat → List Byte
  | 0, _ => []
  | n + 1, w => BitVec.ofNat 8 w :: toBytes n (w / 256)

/-- A Yarder's 32-bit word: a custom-0 instruction, `illegal` for another custom-0 word (R378), or a word of base
RV64IMAC. -/
inductive YDec
  | ok (i : Instr)
  | illegal
  | base
  deriving DecidableEq, Repr

/-- R378. -/
def decodeYarder (w : Nat) : YDec :=
  if bits w 0 7 != 0x0B then .base
  else if bits w 25 7 != 0 then .illegal
  else match bits w 12 3 with
    | 0 => .ok (.yRfetch (field 5 w 7) (field 5 w 15) (field 5 w 20))
    | 1 => .ok (.yBfx (field 5 w 7) (field 5 w 15) (field 5 w 20))
    | 2 => .ok (.ySwait (field 5 w 7) (field 5 w 15) (field 5 w 20))
    | 3 => .ok (.yDisp (field 5 w 7) (field 5 w 15) (field 5 w 20))
    | _ => .illegal

/-- The instruction of a word as the opcode table numbers its bits: a Yarder word, a solo word, or a pair word
(its scalar slot unless that is the nop). -/
def decodeTableWord (nbits w : Nat) : Option Instr :=
  if nbits ≤ 32 then
    match decodeYarder (ofBytes (toBytes 4 w)) with
    | .ok i => some i
    | _ => none
  else if nbits ≤ 64 then
    match decodeSolo (ofBytes (toBytes 8 w)) with
    | .solo _ _ _ (.ok i) => some i
    | _ => none
  else
    match decodeUnit false false (ofBytes (toBytes 16 w)) with
    | .pair _ _ _ _ (.ok .nop) (.ok v) => some v
    | .pair _ _ _ _ (.ok s) (.ok _) => some s
    | _ => none

/-! ## The encoder -/

/-- The scalar slot's four upper fields. -/
def eS (sop : Nat) (d a b : BitVec 6) (func : Nat) : Nat :=
  sop * 2 ^ 44 + d.toNat * 2 ^ 38 + a.toNat * 2 ^ 32 + b.toNat * 2 ^ 26 + func

def eSI (sop : Nat) (d a : BitVec 6) (imm : BitVec 32) : Nat :=
  sop * 2 ^ 44 + d.toNat * 2 ^ 38 + a.toNat * 2 ^ 32 + imm.toNat

def eSJ (sop : Nat) (d : BitVec 6) (off : BitVec 38) : Nat := sop * 2 ^ 44 + d.toNat * 2 ^ 38 + off.toNat

def eCnt (sop : Nat) (d a : SReg) : Cnt → Nat
  | .reg b => eS sop d a b 0
  | .imm n => eS sop d a 0 (64 + n.toNat)

/-- The guard slot in the low 4 bits of sd. -/
def gsd (k : GReg) : BitVec 6 := BitVec.ofNat 6 k.toNat

def eBar (sop : Nat) (kind : BitVec 2) (n : BitVec 4) : Nat := eS sop 0 0 0 (kind.toNat + 4 * n.toNat)

def eMT (sop : Nat) (d : AReg) (a : SReg) (t : Ty) (w : BitVec 4) (l : Bool) : Nat :=
  eS sop d a 0 (t.code + 16 * w.toNat + 256 * l.toNat)

/-- The scalar slot of an instruction of rows 0x0 to 0x7, with every unused bit 0. -/
def encodeScalar : Instr → Option Nat
  | .nop => some 0
  | .sAdd d a b => some (eS 0x01 d a b 0) | .sSub d a b => some (eS 0x02 d a b 0)
  | .sAddi d a i => some (eSI 0x03 d a i)
  | .sMul d a b => some (eS 0x04 d a b 0) | .sMulh d a b => some (eS 0x05 d a b 0) | .sMulhz d a b => some (eS 0x06 d a b 0)
  | .sDiv d a b => some (eS 0x07 d a b 0) | .sDivz d a b => some (eS 0x08 d a b 0)
  | .sRem d a b => some (eS 0x09 d a b 0) | .sRemz d a b => some (eS 0x0A d a b 0)
  | .sAnd d a b => some (eS 0x10 d a b 0) | .sOr d a b => some (eS 0x11 d a b 0) | .sXor d a b => some (eS 0x12 d a b 0)
  | .sAndi d a i => some (eSI 0x13 d a i) | .sOri d a i => some (eSI 0x14 d a i) | .sXori d a i => some (eSI 0x15 d a i)
  | .sNot d a => some (eS 0x16 d a 0 0)
  | .sShl d a n => some (eCnt 0x18 d a n) | .sShr d a n => some (eCnt 0x19 d a n)
  | .sSra d a n => some (eCnt 0x1A d a n) | .sRot d a n => some (eCnt 0x1B d a n)
  | .sClz d a => some (eS 0x1C d a 0 0) | .sPopc d a => some (eS 0x1D d a 0 0)
  | .sBfx d a sx len pos => some (eS 0x1E d a 0 (sx.toNat * 8192 + len.toNat * 64 + pos.toNat))
  | .sBfi d a len pos => some (eS 0x1F d a 0 (len.toNat * 64 + pos.toNat))
  | .sMin d a b => some (eS 0x20 d a b 0) | .sMax d a b => some (eS 0x21 d a b 0)
  | .sMinz d a b => some (eS 0x22 d a b 0) | .sMaxz d a b => some (eS 0x23 d a b 0)
  | .sSel d a b c => some (eS 0x24 d a b c.toNat) | .sCmp d a b c => some (eS 0x25 d a b c.code)
  | .sMovi d i => some (eSI 0x28 d 0 i) | .sMovhi d a i => some (eSI 0x29 d a i) | .sLea d i => some (eSI 0x2A d 0 i)
  | .sSetfmtImm i => some (eSI 0x2C 0 0 i) | .sSetfmtReg a => some (eSI 0x2C 0 a 0) | .sGetfmt d => some (eS 0x2D d 0 0 0)
  | .sGset k a b c => some (eS 0x2E (gsd k) a b c.code) | .sGclr k => some (eS 0x2F (gsd k) 0 0 0)
  | .br o => some (eSJ 0x30 0 o) | .bcc a b c o => some (eS 0x31 0 a b (c.code + 64 * o.toNat))
  | .jmp a i => some (eSI 0x32 0 a i) | .brx a b l => some (eS 0x33 0 a b l.toNat)
  | .call mt o => some (eSJ 0x34 (BitVec.ofNat 6 mt.toNat) o) | .callx mt a => some (eS 0x35 0 a 0 mt.toNat)
  | .ret a => some (eS 0x36 0 a 0 0) | .loopS d o => some (eSJ 0x37 d o)
  | .sYield => some (eS 0x38 0 0 0 0) | .sEnd => some (eS 0x39 0 0 0 0)
  | .barGrp kind => some (eS 0x40 0 0 0 kind.toNat)
  | .barBlk kind n => some (eBar 0x41 kind n) | .barClu kind n => some (eBar 0x42 kind n) | .barGrid kind n => some (eBar 0x43 kind n)
  | .wait c =>
    some (eS 0x44 0 0 0 (c.etc.toNat * 2 ^ 24 + c.tcv.toNat * 2 ^ 20 + c.ecc.toNat * 2 ^ 19 + c.ccv.toNat * 2 ^ 14
      + c.esc.toNat * 2 ^ 13 + c.scv.toNat * 2 ^ 7 + c.elc.toNat * 2 ^ 6 + c.lcv.toNat))
  | .gLd k a b off scope acc c =>
    some (eS 0x45 (gsd k) a b (off.toNat * 2 ^ 11 + scope.toNat * 2 ^ 8 + acc.toNat * 2 ^ 6 + c.code))
  | .draw n k => some (eS 0x46 n 0 0 k.toNat) | .deal n => some (eS 0x47 0 n 0 0) | .idem => some (eS 0x48 0 0 0 0)
  | .sGetsr d num => some (eS 0x49 d 0 0 num.toNat) | .sSetsr num a => some (eS 0x4A 0 a 0 num.toNat)
  | .sSys d sel => some (eS 0x4B d 0 0 sel.toNat)
  | .trap e => some (eS 0x4C 0 0 0 e.toNat) | .rett m => some (eS 0x4D 0 0 0 m.toNat) | .brk e => some (eS 0x4E 0 0 0 e.toNat)
  | .sBudget d sel => some (eS 0x4F d 0 0 sel.toNat) | .halt => some (eS 0x50 0 0 0 0) | .ifence a b => some (eS 0x51 0 a b 0)
  | .mZero d => some (eS 0x60 d 0 0 0)
  | .mMma d a b k la lb => some (eS 0x61 d a b (k.toNat + 64 * la.toNat + 128 * lb.toNat))
  | .mMmas d a b k la lb i nc =>
    some (eS 0x62 d a b (k.toNat + 64 * la.toNat + 128 * lb.toNat + 256 * i.toNat + 16384 * nc.toNat))
  | .mLd d a t w l => some (eMT 0x63 d a t w l) | .mSt d a t w l => some (eMT 0x64 d a t w l)
  | .mXpose d s => some (eS 0x65 d 0 0 s.toNat) | .mPerm d s p => some (eS 0x66 d p 0 s.toNat)
  | .mRsum d s => some (eS 0x67 d 0 0 s.toNat) | .mScale d s v => some (eS 0x68 d 0 0 (s.toNat + 64 * v.toNat))
  | .cCopy d a b ld ls o => some (eS 0x70 d a b (ld.toNat + 2 * ls.toNat + 4 * o.toNat))
  | .cCopyt d a b ld ls o g => some (eS 0x71 d a b (ld.toNat + 2 * ls.toNat + 4 * o.toNat + 8 * g.toNat))
  | .cFill d a byte ld => some (eS 0x72 d a 0 (byte.toNat + 256 * ld.toNat))
  | .cSend d a b ls o tm tr => some (eS 0x73 d a b (2 * ls.toNat + 4 * o.toNat + 8 * tm.toNat + 16 * tr.toNat))
  | .cSig a => some (eS 0x74 0 a 0 0)
  | .xAllred a op t w => some (eS 0x78 0 a 0 (op.toNat + 16 * t.code + 256 * w.toNat))
  | .xAllmax a t => some (eS 0x79 0 a 0 (16 * t.code)) | .xBcast a t => some (eS 0x7A 0 a 0 (16 * t.code))
  | .xGather a t => some (eS 0x7B 0 a 0 (16 * t.code)) | .xWait d => some (eS 0x7C d 0 0 0)
  | _ => none

/-- VOP and MASK. -/
def eV (vop : Nat) (m : MReg) : Nat := vop * 2 ^ 50 + m.toNat * 2 ^ 46

/-- VR (R104). -/
def eVR (vop : Nat) (m : MReg) (fq : FQ) (vd va vb vc : Nat) (opx ty : Nat) : Nat :=
  eV vop m + vd * 2 ^ 39 + va * 2 ^ 32 + vb * 2 ^ 25 + vc * 2 ^ 18 + fq.code * 2 ^ 16 + opx + ty

/-- VT (R104). -/
def eVT (vop : Nat) (m : MReg) (dA dB aA aB bA bB : VReg) (ty : Nat) : Nat :=
  eV vop m + 2 ^ 49 + dA.toNat * 2 ^ 39 + dB.toNat * 2 ^ 32 + aA.toNat * 2 ^ 25 + aB.toNat * 2 ^ 18
    + bA.toNat * 2 ^ 11 + bB.toNat * 2 ^ 4 + ty

/-- VI (R104). -/
def eVI (vop : Nat) (m : MReg) (fq : FQ) (vd va ty : Nat) (imm : BitVec 16) : Nat :=
  eV vop m + vd * 2 ^ 39 + va * 2 ^ 32 + ty * 2 ^ 28 + fq.code * 2 ^ 16 + imm.toNat

def eBin (vop : Nat) (m : MReg) (t : Ty) : VBin → Nat
  | .vr fq vd va vb => eVR vop m fq vd.toNat va.toNat vb.toNat 0 0 t.code
  | .vt dA dB aA aB bA bB => eVT vop m dA dB aA aB bA bB t.code

def eUn (vop : Nat) (m : MReg) (t : Ty) : VUn → Nat
  | .vr fq vd va => eVR vop m fq vd.toNat va.toNat 0 0 0 t.code
  | .vt dA dB aA aB => eVT vop m dA dB aA aB 0 0 t.code

def eTer (vop : Nat) (m : MReg) (t : Ty) : VTer → Nat
  | .vr fq vd va vb vc => eVR vop m fq vd.toNat va.toNat vb.toNat vc.toNat 0 t.code
  | .vt dA dB aA aB bA bB => eVT vop m dA dB aA aB bA bB t.code

def eImm (vop : Nat) (m : MReg) (t : Ty) (o : VImm) : Nat := eVI vop m o.fq o.vd.toNat o.va.toNat t.code o.imm

def eCmp (vop : Nat) (m : MReg) (fq : FQ) (k : MReg) (va vb : VReg) (t : Ty) : Nat :=
  eVR vop m fq k.toNat va.toNat vb.toNat 0 0 t.code

def eCmpI (vop : Nat) (m : MReg) (fq : FQ) (k : MReg) (va : VReg) (t : Ty) (imm : BitVec 16) : Nat :=
  eVI vop m fq k.toNat va.toNat t.code imm

def eSh (vop : Nat) (m : MReg) (fq : FQ) (vd va : VReg) (mode : Nat) : ShSrc → Nat
  | .reg vb => eVR vop m fq vd.toNat va.toNat vb.toNat 0 (mode * 16) 0
  | .imm n => eVR vop m fq vd.toNat va.toNat 0 0 (n.toNat * 128 + 64 + mode * 16) 0

/-- VM (R104). -/
def eM (vop : Nat) (o : MOp) : Nat :=
  eV vop o.m + o.data.toNat * 2 ^ 39 + o.base.toNat * 2 ^ 32 + o.off.toNat * 2 ^ 18 + o.fq.code * 2 ^ 16
    + o.acc.toNat * 2 ^ 14 + o.scope.toNat * 2 ^ 11 + o.am.toNat * 2 ^ 9 + o.d.toNat * 2 ^ 8 + o.p.toNat * 2 ^ 4 + o.ty.code

/-- VJ (R104). -/
def eVJ (vop reg : Nat) (off : BitVec 39) : Nat := vop * 2 ^ 50 + reg * 2 ^ 39 + off.toNat

/-- The vector slot of an instruction of rows 0x00 to 0x0C, with every unused bit 0. -/
def encodeVector : Instr → Option Nat
  | .vNop => some 0
  | .vAdd m o t => some (eBin 0x001 m t o) | .vSub m o t => some (eBin 0x002 m t o) | .vMul m o t => some (eBin 0x003 m t o)
  | .vMad m o t => some (eTer 0x004 m t o) | .vMulhi m o t => some (eBin 0x005 m t o)
  | .vMin m o t => some (eBin 0x006 m t o) | .vMax m o t => some (eBin 0x007 m t o)
  | .vAbs m o t => some (eUn 0x008 m t o) | .vNeg m o t => some (eUn 0x009 m t o)
  | .vAnd m o t => some (eBin 0x00A m t o) | .vOr m o t => some (eBin 0x00B m t o) | .vXor m o t => some (eBin 0x00C m t o)
  | .vNot m o t => some (eUn 0x00D m t o)
  | .vShl m o t => some (eBin 0x00E m t o) | .vShr m o t => some (eBin 0x00F m t o) | .vSra m o t => some (eBin 0x010 m t o)
  | .vClz m o t => some (eUn 0x011 m t o) | .vPopc m o t => some (eUn 0x012 m t o)
  | .vBfx m fq vd va t len pos =>
    some (eVR 0x013 m fq vd.toNat va.toNat 0 0 (len.toNat * 1024 + pos.toNat * 32) t.code)
  | .vSel m fq vd va vb k => some (eVR 0x014 m fq vd.toNat va.toNat vb.toNat k.toNat 0 0)
  | .vMov m o => some (eUn 0x015 m .i8 o)
  | .vMovs m fq vd s hi => some (eVR 0x016 m fq vd.toNat s.toNat 0 0 (hi.toNat * 16) 0)
  | .vLane m fq vd sel => some (eVR 0x017 m fq vd.toNat 0 0 0 (sel.toNat * 16) 0)
  | .vCmpEq m fq k a b t => some (eCmp 0x018 m fq k a b t) | .vCmpNe m fq k a b t => some (eCmp 0x019 m fq k a b t)
  | .vCmpLt m fq k a b t => some (eCmp 0x01A m fq k a b t) | .vCmpLe m fq k a b t => some (eCmp 0x01B m fq k a b t)
  | .vCmpGt m fq k a b t => some (eCmp 0x01C m fq k a b t) | .vCmpGe m fq k a b t => some (eCmp 0x01D m fq k a b t)
  | .vAddImm m o t => some (eImm 0x021 m t o) | .vSubImm m o t => some (eImm 0x022 m t o) | .vMulImm m o t => some (eImm 0x023 m t o)
  | .vMinImm m o t => some (eImm 0x026 m t o) | .vMaxImm m o t => some (eImm 0x027 m t o)
  | .vAndImm m o t => some (eImm 0x02A m t o) | .vOrImm m o t => some (eImm 0x02B m t o) | .vXorImm m o t => some (eImm 0x02C m t o)
  | .vShlImm m o t => some (eImm 0x02E m t o) | .vShrImm m o t => some (eImm 0x02F m t o) | .vSraImm m o t => some (eImm 0x030 m t o)
  | .vMovi m fq vd t imm => some (eVI 0x035 m fq vd.toNat 0 t.code imm)
  | .vCmpEqImm m fq k a t i => some (eCmpI 0x038 m fq k a t i) | .vCmpNeImm m fq k a t i => some (eCmpI 0x039 m fq k a t i)
  | .vCmpLtImm m fq k a t i => some (eCmpI 0x03A m fq k a t i) | .vCmpLeImm m fq k a t i => some (eCmpI 0x03B m fq k a t i)
  | .vCmpGtImm m fq k a t i => some (eCmpI 0x03C m fq k a t i) | .vCmpGeImm m fq k a t i => some (eCmpI 0x03D m fq k a t i)
  | .vFadd m o t => some (eBin 0x040 m t o) | .vFsub m o t => some (eBin 0x041 m t o) | .vFmul m o t => some (eBin 0x042 m t o)
  | .vFma m o t => some (eTer 0x043 m t o) | .vFmin m o t => some (eBin 0x044 m t o) | .vFmax m o t => some (eBin 0x045 m t o)
  | .vFclass m fq vd va t => some (eVR 0x046 m fq vd.toNat va.toNat 0 0 0 t.code)
  | .vTwosum m fq vd va vb vc => some (eVR 0x047 m fq vd.toNat va.toNat vb.toNat vc.toNat 0 8)
  | .vFcmpEq m fq k a b t => some (eCmp 0x048 m fq k a b t) | .vFcmpNe m fq k a b t => some (eCmp 0x049 m fq k a b t)
  | .vFcmpLt m fq k a b t => some (eCmp 0x04A m fq k a b t) | .vFcmpLe m fq k a b t => some (eCmp 0x04B m fq k a b t)
  | .vFcmpGt m fq k a b t => some (eCmp 0x04C m fq k a b t) | .vFcmpGe m fq k a b t => some (eCmp 0x04D m fq k a b t)
  | .vCvt m fq vd va s t => some (eVR 0x050 m fq vd.toNat va.toNat 0 0 (s.code * 16) t.code)
  | .vPack m fq vd va vb t => some (eVR 0x051 m fq vd.toNat va.toNat vb.toNat 0 0 t.code)
  | .vUnpack m fq vd va hi t => some (eVR 0x052 m fq vd.toNat va.toNat 0 0 (hi.toNat * 16) t.code)
  | .vQpack m fq vd va vc w => some (eVR 0x053 m fq vd.toNat va.toNat 0 vc.toNat (w.toNat * 16) 11)
  | .vQunpack m fq vd va vb w => some (eVR 0x054 m fq vd.toNat va.toNat vb.toNat 0 (w.toNat * 16) 11)
  | .vRcp m o t => some (eUn 0x058 m t o) | .vRsqrt m o t => some (eUn 0x059 m t o) | .vSqrt m o t => some (eUn 0x05A m t o)
  | .vExp2 m o t => some (eUn 0x05B m t o) | .vLog2 m o t => some (eUn 0x05C m t o)
  | .vSinpi m o t => some (eUn 0x05D m t o) | .vCospi m o t => some (eUn 0x05E m t o)
  | .vShfl m fq vd va s mode => some (eSh 0x060 m fq vd va mode.toNat s)
  | .vBcast m fq vd va s => some (eSh 0x061 m fq vd va 0 s)
  | .vRedx m fq vd va op t => some (eVR 0x062 m fq vd.toNat va.toNat 0 0 (op.toNat * 16) t.code)
  | .vScan m fq vd va x op t => some (eVR 0x063 m fq vd.toNat va.toNat 0 0 (x.toNat * 256 + op.toNat * 16) t.code)
  | .vBallot m fq k va t => some (eVR 0x064 m fq k.toNat va.toNat 0 0 0 t.code)
  | .kAnd m fq d a b => some (eVR 0x068 m fq d.toNat a.toNat b.toNat 0 0 0)
  | .kOr m fq d a b => some (eVR 0x069 m fq d.toNat a.toNat b.toNat 0 0 0)
  | .kXor m fq d a b => some (eVR 0x06A m fq d.toNat a.toNat b.toNat 0 0 0)
  | .kNot m fq d a => some (eVR 0x06B m fq d.toNat a.toNat 0 0 0 0)
  | .kMov m fq d a => some (eVR 0x06C m fq d.toNat a.toNat 0 0 0 0)
  | .kPopc m fq vd a => some (eVR 0x06D m fq vd.toNat a.toNat 0 0 0 0)
  | .kFirst m fq d a => some (eVR 0x06E m fq d.toNat a.toNat 0 0 0 0)
  | .ld o => some (eM 0x080 o) | .st o => some (eM 0x081 o) | .ldv o => some (eM 0x082 o) | .stv o => some (eM 0x083 o)
  | .lds o => some (eM 0x084 o) | .sts o => some (eM 0x085 o) | .ldsv o => some (eM 0x086 o) | .stsv o => some (eM 0x087 o)
  | .rdc o => some (eM 0x088 o) | .stLog o => some (eM 0x089 o) | .tlogFlush o => some (eM 0x08A o)
  | .tlogLen o => some (eM 0x08B o) | .fence o => some (eM 0x08C o) | .waitw o => some (eM 0x08D o)
  | .pf o => some (eM 0x08E o) | .ipf o => some (eM 0x08F o)
  | .atomAdd o => some (eM 0x090 o) | .atomMin o => some (eM 0x091 o) | .atomMax o => some (eM 0x092 o)
  | .atomAnd o => some (eM 0x093 o) | .atomOr o => some (eM 0x094 o) | .atomXor o => some (eM 0x095 o)
  | .atomXchg o => some (eM 0x096 o) | .atomCas o => some (eM 0x097 o)
  | .redAdd o => some (eM 0x098 o) | .redMin o => some (eM 0x099 o) | .redMax o => some (eM 0x09A o)
  | .redAnd o => some (eM 0x09B o) | .redOr o => some (eM 0x09C o) | .redXor o => some (eM 0x09D o)
  | .redFadd o => some (eM 0x09E o) | .redFaddc o => some (eM 0x09F o)
  | .elide o => some (eM 0x0A0 o) | .elidend o => some (eM 0x0A1 o) | .eliabort o => some (eM 0x0A2 o)
  | .brv k off => some (eVJ 0x0C0 k.toNat off) | .join => some (0x0C1 * 2 ^ 50)
  | .meld k off => some (eVJ 0x0C2 k.toNat off) | .meldend => some (0x0C3 * 2 ^ 50)
  | .demote fq k => some (eVR 0x0C4 0 fq 0 k.toNat 0 0 0 0) | .exit fq k => some (eVR 0x0C5 0 fq 0 k.toNat 0 0 0 0)
  | .loopv v off => some (eVJ 0x0C6 v.toNat off) | .loopvEnd => some (0x0C7 * 2 ^ 50)
  | .bany k off => some (eVJ 0x0C8 k.toNat off) | .ball k off => some (eVJ 0x0C9 k.toNat off)
  | _ => none

/-- A Yarder's word (R378). -/
def encodeYarder : Instr → Option Nat
  | .yRfetch d a b => some (eY 0 d a b) | .yBfx d a b => some (eY 1 d a b)
  | .ySwait d a b => some (eY 2 d a b) | .yDisp d a b => some (eY 3 d a b)
  | _ => none
where
  eY (f3 : Nat) (d a b : BitVec 5) : Nat :=
    b.toNat * 2 ^ 20 + a.toNat * 2 ^ 15 + f3 * 2 ^ 12 + d.toNat * 2 ^ 7 + 0x0B

/-- The pair word of two slots, without a guard (R94). -/
def pairWord (s v : Nat) : Nat := 2 * 2 ^ 126 + s * 2 ^ 60 + v

/-- The word of an instruction: its Yarder word, or the pair word whose other slot is the nop; an event has none. -/
def encode (i : Instr) : Option Nat :=
  match encodeYarder i with
  | some w => some w
  | none =>
    match encodeScalar i with
    | some s => some (pairWord s 0)
    | none =>
      match encodeVector i with
      | some v => some (pairWord 0 v)
      | none => none

end Sys2Proof
end

