-- ==== Sys2Proof/Machine/Memory.lean ====
section
/-!
DEFINITION. Physical memory as bytes, where an address lies (R205, R206, R372), and the access tables (R375 to R377).
-/

namespace Sys2Proof.Machine

/-- Bytes by address in canonical form. -/
abbrev Memory := List Host.Cell

/-- What an unlisted address reads as (R387 step 2 writes every byte to 0; before it, notes/assumptions/1.md). -/
def Memory.dflt : Byte := 0

/-- Addresses strictly rising, no byte that an unlisted address reads as. -/
def Memory.wf (m : Memory) : Bool := swf Memory.dflt m

/-- The byte at an address. -/
def readByte (m : Memory) (a : Nat) : Byte := sget Memory.dflt m a
/-- One byte written. -/
def writeByte (m : Memory) (a : Nat) (v : Byte) : Memory := sput Memory.dflt m a v

/-- `n` bytes from `a` on. -/
def readBytes (m : Memory) (a : Nat) : Nat → List Byte
  | 0 => []
  | n + 1 => readByte m a :: readBytes m (a + 1) n

/-- Bytes written from `a` on. -/
def writeBytes (m : Memory) (a : Nat) : List Byte → Memory
  | [] => m
  | b :: r => writeBytes (writeByte m a b) (a + 1) r

/-- The little-endian number at `a` (R68). -/
def readLE (m : Memory) (a n : Nat) : Nat := ofBytes (readBytes m a n)
/-- The low `n` bytes of a number written little-endian. -/
def writeLE (m : Memory) (a n v : Nat) : Memory := writeBytes m a (toBytes n v)

/-- An address of a Yarder's local SRAM of 256 KiB (notes/assumptions/21.md). -/
def sramAddr (a : Nat) : Nat := a % 0x40000

/-! ## Scratchpad (R198) -/

/-- Bytes of the scratchpad of a launch. -/
def spBytes (l : Launch) : Nat := bits l.pword.toNat 7 7 * 65536
/-- Accumulator tiles of a launch (R196). -/
def accTiles (l : Launch) : Nat := 4 * bits l.pword.toNat 14 7

/-- Every byte of [a, a + n) lies in the scratchpad. -/
def spOk (l : Launch) (a : Word) (n : Nat) : Bool := n == 0 || decide (a.toNat + n ≤ spBytes l)

/-! ## Where an address lies -/

/-- A physical byte of memory at its home slice, or a device window, or nothing. -/
inductive Loc
  | slice (h p : Nat)
  | empty
  | register (die : Nat) (a : Nat)
  | notify (die : Nat) (a : Nat)
  | unnamed
  deriving DecidableEq, Repr

/-- The home slice of an LPDDR6 or CXL tile (R206). -/
def homeDram (p : Part) (pa : Nat) : Nat := pa / 4096 % (diesOf p * 6)
/-- CXL slices (24 or 12) and the die of a port (R206). -/
def cxlSlices (p : Part) : Nat := if p.dies16 then 24 else 12
def cxlDie (k : Nat) : Nat := [0, 3, 12, 15].getD (k / 6) 0

/-- An address below the device windows (R205). -/
def locateMem (p : Part) (pa : Nat) : Loc :=
  if pa < (if p.dies16 then 0x018000000000 else 0x00C000000000) then .slice (homeDram p pa) pa
  else if pa < 0x100000000000 then .empty
  else if pa < (if p.dies16 then 0x200000000000 else 0x180000000000) then
    if !p.cxl then .empty
    else
      let n := (pa - 0x100000000000) / 4096
      let k := n % cxlSlices p
      if n / cxlSlices p * 4096 < p.cxlGiB * 2 ^ 30 then .slice (cxlDie k * 6 + k % 6) pa else .empty
  else .empty

/-- The address lies in the device windows (R205). -/
def isWindow (pa : Nat) : Bool := decide (0x200000000000 ≤ pa)

/-- A physical address (R205, R372). An address of the windows that names no register lies at a target that R205 does not name: a gap of the register
and notify windows at the register or notify block there, whose access table decides; the block of an absent die and what lies above the memory
window at none, and no table decides. DESIGN CHOICE (notes/assumptions/12.md). -/
def locate (p : Part) (pa : Nat) : Loc :=
  if pa < 0x200000000000 then locateMem p pa
  else if pa < 0x210000000000 then
    let d := (pa - 0x200000000000) / 0x1000000
    if d < diesOf p then .register d pa else .unnamed
  else if pa < 0x280000000000 then .register 0 pa
  else if pa < 0x300000000000 then
    let d := (pa - 0x280000000000) / 0x1000
    if d < diesOf p then .notify d pa else .unnamed
  else if pa < 0x400000000000 then .register 0 pa
  else if pa < 0x600000000000 then locateMem p (pa - 0x400000000000)
  else .unnamed

/-! ## Identities (R375) -/

def idCore (c : Nat) : Nat := c
def idSkidder (c : Nat) : Nat := 0x200 + c
def idMatrix (c : Nat) : Nat := 0x400 + c
def idYarder (y : Nat) : Nat := 0x600 + y
def idBoom (d : Nat) : Nat := 0x620 + d
def idPeer (q : Nat) : Nat := 0x1000 + q
def idPacket (d : Nat) : Nat := 0x640 + d
def idDealer (d : Nat) : Nat := 0x650 + d
def idChute (d : Nat) : Nat := 0x660 + d
def idWalker (d : Nat) : Nat := 0x670 + d
def isHost (i : Nat) : Bool := decide (0x800 ≤ i) && decide (i < 0x900)

/-! ## Access tables (R376, R377) -/

/-- The permission bits of a window. -/
inductive Perm
  | r | w | x | n
  deriving DecidableEq, Repr

def Perm.bitNo : Perm → Nat
  | .r => 1 | .w => 2 | .x => 3 | .n => 4

/-- Where target t of die d keeps its table in `atab`. -/
def atBase (d t : Nat) : Nat := (16 * d + t) * 0x8000

/-- The window that decides a request: the lowest-numbered one that matches. A host carries no context and takes the
window's. -/
def findWindow (tab : Memory) (base : Nat) (m : Master) (pa : Nat) : Nat → Nat → Option Nat
  | 0, _ => none
  | n + 1, w =>
    let e := readLE tab (base + 16 * w) 16
    let page := bits pa 12 36
    let c := bits e 112 16
    if bits e 0 1 == 1 && bits e 36 36 ≤ page && page ≤ bits e 72 36 && (c == 0xFFFF || isHost m.ident || m.ctx == some c) then
      some e
    else findWindow tab base m pa n (w + 1)

/-- What target t of die d decides: refused, or permitted with the context the request then has. -/
def decideAccess (s : State) (d t : Nat) (m : Master) (pa : Nat) (p : Perm) : Option (Option Nat) :=
  let b := atBase d t
  let g := (readByte s.atab (b + 0x2000 + m.ident)).toNat % 64
  match findWindow s.atab (b + 0x4000 + 256 * g) m pa 16 0 with
  | none => none
  | some e =>
    if bits e p.bitNo 1 == 1 then
      some (if isHost m.ident && bits e 112 16 != 0xFFFF then some (bits e 112 16) else m.ctx)
    else none

/-- The target an address names decides the request (R205, R207, R376). -/
def permitted (s : State) (m : Master) (pa : Nat) (p : Perm) : Bool :=
  match locate s.part pa with
  | .slice h q => (decideAccess s (h / 6) (h % 6) m q p).isSome
  | .empty => false
  | .register d a => (decideAccess s d 8 m a p).isSome
  | .notify d a => (decideAccess s d 7 m a p).isSome
  | .unnamed => true

end Sys2Proof.Machine
end

