-- ==== Sys2Proof/Machine/Tiles.lean ====
section
/-!
DEFINITION. What happens at a home slice (R208 to R218): tile logs, residency, the performance of one access, elided
regions that lose a line (R243), and the accesses of masters other than groups.
-/

namespace Sys2Proof.Machine

def State.tile (s : State) (k : Nat) : Tile := sget .zero s.tiles k
def State.updTile (s : State) (k : Nat) (f : Tile → Tile) : State :=
  { s with tiles := sput .zero s.tiles k (f (s.tile k)) }

/-- A charge to a launch's budget of a kind, 0 to 3 as in R192 (R328); a charge to tag 0 falls on none. -/
def chargeBudget (s : State) (tag kind n : Nat) : State :=
  if n = 0 then s
  else s.updLaunch tag (fun l =>
    { l with budget := l.budget.set kind (l.budget.getD kind 0 - n)
             charged := l.charged.set kind (l.charged.getD kind 0 + n) })

/-! ## Guards and regions -/

/-- A bound engine command learns the first resolution of its slot (R65). -/
def bindFate (k : GReg) (v : Bool) (b : Option Bind) : Option Bind :=
  match b with
  | some x => if x.k == k && x.fate == none then some { x with fate := some (v != x.neg) } else b
  | none => none

/-- Guard slot k of a group is resolved; commands bound to it are released or discarded (R64, R65). -/
def resolveGuard (s : State) (g : GId) (k : GReg) (v : Bool) : State :=
  let s := s.updGroup g (fun x => writeGuard x k (Guard.ofBool v))
  let s := s.updWg g.tag g.core (fun w =>
    { w with
      tileq := w.tileq.map (fun o => if o.grp == g.grp then { o with bind := bindFate k v o.bind } else o)
      copyq := w.copyq.map (fun o => if o.grp == g.grp then { o with bind := bindFate k v o.bind } else o) })
  { s with boomOps := s.boomOps.map (fun o => if o.gid == g then { o with bind := bindFate k v o.bind } else o) }

/-- ELSTAT.ACT (R188). -/
def regionOpen (g : Group) : Bool := g.region.isSome

/-- An operation of a member of the group's open region (R242). -/
def inOpenRegion (g : Group) (o : QOp) : Bool :=
  match g.region with
  | some r => o.member && decide (r.start ≤ o.id)
  | none => false

/-- ABORT(c) of R243 on one group: of the split table, the members other than the recorded path are freed; paths that were split
before the region, or from such paths, stay. A fault that the members' loads still meet traps nothing. -/
def abortRegion (s : State) (gid : GId) (cause : BitVec 4) (code : Byte) : State :=
  let g := s.group gid
  match g.region with
  | none => s
  | some r =>
    let dropped := (g.storeq.filter (fun o => o.held && o.counted)).length
    let g := retireEmpty { g with
      storeq := g.storeq.filter (fun o => !o.held)
      loadq := g.loadq.map (fun o => if inOpenRegion g o then { o with quiet := true } else o)
      sc := g.sc - dropped
      split := g.split.filter (fun p => p.1 == r.path || !r.members.contains p.1)
      face := g.face.drop (g.face.length - r.nface)
      loops := g.loops.drop (g.loops.length - r.nloop)
      elcause := cause, elcode := code, region := none }
    let p := pathOf g r.path
    let g := putPath g r.path { p with pc := r.fallback, mask := r.mask &&& ~~~g.gone, waits := [] }
    resolveGuard (s.setGroup gid g) gid r.k false

/-- Yarders' reservations of bytes from `a` to `a + n` end (R378). -/
def unreserve (s : State) (sram : Bool) (a n : Nat) : State :=
  let hit := fun (y : Yarder) => match y.reserve with
    | some (w, b, k) => w == sram && decide (a < b + k) && decide (b < a + n)
    | none => false
  (s.yarders.filter (fun p => hit p.2)).foldl (fun s p => s.updYarder p.1 (fun y => { y with reserve := none })) s

/-- Groups with an open region that has a line of [pa, pa + n) in its read set, `who` excepted, abort (R243); reservations of bytes it writes end. -/
def conflict (s : State) (who : Option GId) (pa n : Nat) : State :=
  let hit := fun (r : Region) => r.reads.any (fun l => decide (pa / 128 ≤ l) && decide (l ≤ (pa + n - 1) / 128))
  let gids := (s.launches.flatMap launchGroups).filter (fun g =>
    some g != who && (match (s.group g).region with | some r => hit r | none => false))
  gids.foldl (fun s g => abortRegion s g 1 0) (unreserve s false pa n)

/-! ## Line buffers (R217, R218) -/

/-- The core that holds a line, if any. -/
def lineHolder (s : State) (line : Nat) : Option Nat :=
  (s.cores.find? (fun p => p.2.lineBuf.any (fun x => x.1 == line))).map (fun p => p.1)

/-- The line leaves every buffer but that of `keep`: it is written back before another access (R218). -/
def writeBackLine (s : State) (line : Nat) (keep : Option Nat) : State :=
  match lineHolder s line with
  | none => s
  | some c => if some c == keep then s else s.updCore c (fun x => { x with lineBuf := x.lineBuf.filter (fun y => y.1 != line) })

/-- The lines that `n` bytes at `pa` touch leave every buffer. -/
def writeBackRange (s : State) (pa n : Nat) : State :=
  (List.range ((pa + n - 1) / 128 + 1 - pa / 128)).foldl (fun s i => writeBackLine s (pa / 128 + i) none) s

/-- Place an atomic: at the line buffer of the core, where the tile is resident and the line quiet, else at the slice (R217); the
oldest of 16 lines leaves a full buffer. The answer says whether the line buffer executes it. DESIGN CHOICE (notes/assumptions/27.md). -/
def placeAtomic (s : State) (h core tag pa : Nat) (resident : Bool) : State × Bool :=
  let line := pa / 128
  let idx := h * 4096 + Config.lineHash line % 4096
  let n := sget 0 s.predictor idx
  let holder := lineHolder s line
  let n := match holder with
    | some c => if c != core then min 3 (n + 1) else n
    | none => n - 1
  let s := { s with predictor := sput 0 s.predictor idx n }
  if !resident || 2 ≤ n then (writeBackLine s line none, false)
  else if holder == some core then
    (s.updCore core (fun x => { x with lineBuf := x.lineBuf.map (fun y => if y.1 == line then (line, tag) else y) }), true)
  else
    ((writeBackLine s line none).updCore core (fun x =>
      { x with lineBuf := (x.lineBuf ++ [(line, tag)]).drop (x.lineBuf.length + 1 - 16) }), true)

/-! ## Tile logs (R209 to R215) -/

/-- First byte in the tile and length of what an entry touches (R211, R212). -/
def entryAt (e : LogEntry) : Nat × Nat :=
  (4 * e.word + (if 4 ≤ e.op && e.op ≤ 7 then e.op % 4 else 0), 2 ^ e.size)

def isStoreEntry (e : LogEntry) : Bool := decide (4 ≤ e.op) && decide (e.op ≤ 7)

/-- COMBINE of R213 on two operands of 2^size bytes. -/
def combine (op size x y : Nat) : Nat :=
  let w := 8 * 2 ^ size
  let a := bits x 0 w
  let b := bits y 0 w
  let lt := decide (signedBits w a < signedBits w b)
  match op with
  | 0x08 => (a + b) % 2 ^ w
  | 0x09 => if lt then a else b
  | 0x0A => min a b
  | 0x0B => if lt then b else a
  | 0x0C => max a b
  | 0x0D => a &&& b
  | 0x0E => a ||| b
  | _ => a ^^^ b

/-- One entry applied (R212). -/
def applyEntry (m : Memory) (base : Nat) (e : LogEntry) : Memory :=
  let at_ := entryAt e
  let p := base + at_.1
  let v := e.opnd.toNat
  if isStoreEntry e then writeLE m p at_.2 v
  else if e.op == 0x10 then writeLE m p 4 (fAdd fp32 0 (readLE m p 4) (bits v 0 32)).1
  else if e.op == 0x11 then
    let q := faddc (readLE m p 8) (bits v 32 32)
    writeLE m p 8 (bits q 32 32 * 2 ^ 32 + (fAdd fp32 0 (bits q 0 32) (bits v 0 32)).1)
  else writeLE m p at_.2 (combine e.op e.size (readLE m p at_.2) v)

/-- APPLYLOG's entries, oldest first (R212). -/
def applyEntries (m : Memory) (base : Nat) (log : List LogEntry) : Memory :=
  log.foldl (fun m e => applyEntry m base e) m

def overlaps (a n b k : Nat) : Bool := decide (a < b + k) && decide (b < a + n)

/-- An access of the operation has still to be performed on bytes of the access. -/
def meets (a : Acc) (o : QOp) : Bool := o.accs.any (fun b => !settledAcc b && overlaps a.pa a.size b.pa b.size)

/-- Combine the newest overlapping entry, which is the first of the reversed log that overlaps (R213). -/
def combineLatest (new : LogEntry) : List LogEntry → Option (List LogEntry)
  | [] => none
  | l :: r =>
    let a := entryAt l
    let b := entryAt new
    if overlaps a.1 a.2 b.1 b.2 then
      if l.word == new.word && l.size == new.size && l.op == new.op && l.tag == new.tag && l.op != 0x10 then
        let v := if l.op == 0x11 then
            let t := twoSum 0 (bits l.opnd.toNat 32 32) (bits new.opnd.toNat 32 32)
            t.1 * 2 ^ 32 + (fAdd fp32 0 (bits l.opnd.toNat 0 32) t.2.1).1
          else combine l.op l.size l.opnd.toNat new.opnd.toNat
        some ({ l with opnd := BitVec.ofNat 64 v, seq := new.seq } :: r)
      else none
    else (combineLatest new r).map (l :: ·)

/-- The log after an append (R213). -/
def compact (log : List LogEntry) (new : LogEntry) : List LogEntry :=
  if isStoreEntry new then
    let b := entryAt new
    log.filter (fun e => let a := entryAt e; !(decide (b.1 ≤ a.1) && decide (a.1 + a.2 ≤ b.1 + b.2))) ++ [new]
  else
    match combineLatest new log.reverse with
    | some r => r.reverse
    | none => log ++ [new]

/-- Append entries one after another, each with its own sequence number; none when one would leave 33 entries or take
the counter past 0xFFFF (R210, R214). -/
def appendAll (log : List LogEntry) (seq : Nat) : List LogEntry → Option (List LogEntry × Nat)
  | [] => some (log, seq)
  | e :: r =>
    let l := compact log { e with seq := seq + 1 }
    if 0xFFFF < seq + 1 || 32 < l.length then none else appendAll l (seq + 1) r

/-- Chunks of eight entries (R214). -/
def chunks (log : List LogEntry) : Nat := (log.length + 7) / 8

/-- The home slice of tile k (R206). -/
def homeOf (s : State) (k : Nat) : Nat :=
  match locateMem s.part (4096 * k) with
  | .slice h _ => h
  | _ => 0

/-- A resident tile is written back; the line buffers give up its lines first (R208, R218). -/
def evictTile (s : State) (k : Nat) : State :=
  (writeBackRange s (4096 * k) 4096).updTile k (fun t => { t with resident := false, log := [], seq := 0 })

/-- Make a tile resident; a slice that holds 1,024 tiles first writes one back (R208). -/
def makeResident (s : State) (k : Nat) : State :=
  let here := s.tiles.filter (fun p => p.2.resident && p.1 != k && homeOf s p.1 == homeOf s k)
  let s := if here.length < 1024 then s
    else match here[Config.evictPick s.nextId % here.length]? with
      | some p => evictTile s p.1
      | none => s
  s.updTile k (fun t => { t with resident := true, fetching := false, log := [], seq := 0 })

/-- A fetch of tile k that meets no error: the log is applied and charged, the tile is resident (R212, R328). -/
def applyTile (s : State) (who : Option GId) (k tag : Nat) : State :=
  let t := s.tile k
  let s := t.log.foldl (fun s e => conflict s who (4096 * k + (entryAt e).1) (entryAt e).2) s
  let s := chargeBudget s tag 3 t.log.length
  let s := { s with mem := applyEntries s.mem (4096 * k) t.log }
  makeResident s k

/-! ## One access performed on memory -/

/-- Replace the bytes of the `n`-byte value v at `a` that a write of `k` bytes w at `b` covers. -/
def overlay (v a n w b k : Nat) : Nat :=
  ofBytes ((List.range n).map (fun i =>
    let p := a + i
    if b ≤ p && p < b + k then BitVec.ofNat 8 (w / 256 ^ (p - b)) else BitVec.ofNat 8 (v / 256 ^ i)))

/-- The new value of a read-modify-write (R232, R233): op 0 add, 1 min, 2 max, 3 and, 4 or, 5 xor, 6 xchg, 7 cas. -/
def rmwNew (op : Nat) (t : Ty) (w old d c : Nat) : Nat :=
  let lt := if t.signed then decide (signedBits w old < signedBits w d) else decide (old < d)
  match op with
  | 0 => (old + d) % 2 ^ w
  | 1 => if lt then old else d
  | 2 => if lt then d else old
  | 3 => old &&& d
  | 4 => old ||| d
  | 5 => old ^^^ d
  | 6 => d
  | _ => if old == c then d else old

/-- What a write of an operation leaves at its location whose value is `old`. -/
def newValue (o : QOp) (a : Acc) (old : Nat) : Nat :=
  let w := 8 * a.size
  let d := bits a.data.toNat 0 w
  match o.kind with
  | .store => d
  | .logStore => if a.size == 16 then a.data.toNat + a.data2.toNat * 2 ^ 64 else d
  | .rmw op _ => rmwNew op o.ty w old d (bits a.data2.toNat 0 w)
  | .fadd => (fAdd fp32 0 old d).1
  | .faddc => faddc old (bits a.data.toNat 0 32)
  | _ => old

/-- An `atom.cas` whose comparison fails, which writes nothing (R232). -/
def casFails (o : QOp) (a : Acc) (old : Nat) : Bool :=
  match o.kind with
  | .rmw 7 _ => old != bits a.data2.toNat 0 (8 * a.size)
  | _ => false

def isWrite (k : MemKind) : Bool :=
  match k with
  | .store | .logStore | .rmw _ _ | .fadd | .faddc => true
  | _ => false

/-- The unperformed accesses of an operation, in the order given, laid over the value at an access. -/
def layOver (o : QOp) (a : Acc) (accs : List Acc) (v : Nat) : Nat :=
  accs.foldl (fun v b =>
    if !settledAcc b && overlaps a.pa a.size b.pa b.size then
      overlay v a.pa a.size (newValue o b (overlay 0 b.pa b.size v a.pa a.size)) b.pa b.size
    else v) v

/-- The value at an access as its own group sees it: memory, with the group's earlier unperformed stores laid over it
in queue order (R230, R242). -/
def groupValue (g : Group) (n : Nat) (loc : Bool) (a : Acc) (v : Nat) : Nat :=
  g.storeq.foldl (fun v o => if o.id < n && o.loc == loc then layOver o a o.accs v else v) v

/-- Load `n` of the group reads queued stores: those whose bytes it meets remember the earliest that did (R230). -/
def markRead (g : Group) (n : Nat) (loc : Bool) (a : Acc) : Group :=
  { g with storeq := g.storeq.map (fun x =>
      if decide (x.id < n) && x.loc == loc && meets a x then { x with readBy := some (min n (x.readBy.getD n)) } else x) }

/-- A load before operation `n` has read the store while it was queued. -/
def wasRead (n : Nat) (x : QOp) : Bool := x.readBy.any (fun r => decide (r < n))

/-- What access `j` of a returning atomic's read half in a region sees besides: the held writes of the threads before it (R228,
R232, R242). -/
def lowerThreads (g : Group) (o : QOp) (j : Nat) (a : Acc) (v : Nat) : Nat :=
  match o.pair.bind (fun n => g.storeq.find? (fun x => x.id == n)) with
  | some x => layOver x a (x.accs.take j) v
  | none => v

/-- Update one operation of a group's queues. -/
def updOp (g : Group) (id : Nat) (f : QOp → QOp) : Group :=
  { g with loadq := g.loadq.map (fun o => if o.id == id then f o else o)
           storeq := g.storeq.map (fun o => if o.id == id then f o else o) }

def findOp (g : Group) (id : Nat) : Option QOp :=
  match g.loadq.find? (fun o => o.id == id) with
  | some o => some o
  | none => g.storeq.find? (fun o => o.id == id)

def setAcc (o : QOp) (j : Nat) (f : Acc → Acc) : QOp := { o with accs := o.accs.modify j f }

/-- An access fails: the rest of a store-class operation is not performed (R229, R336). A member's access aborts its region with the
fault's code instead of trapping (R243). -/
def failAcc (s : State) (gid : GId) (id j code : Nat) : State :=
  let member := (findOp (s.group gid) id).any (inOpenRegion (s.group gid))
  let s := s.updGroup gid (fun g => updOp g id (fun o =>
    let o := { setAcc o j (fun a => { a with st := .failed code }) with quiet := o.quiet || member }
    if isWrite o.kind || o.kind == .tlogFlush then
      match o.kind with
      | .rmw _ true => o
      | _ => { o with accs := o.accs.map (fun a => if settledAcc a then a else { a with st := .dropped }) }
    else o))
  if member then abortRegion s gid 7 (BitVec.ofNat 8 code) else s

/-- Raise the sampler's level of an operation (R358). -/
def raiseLevel (o : QOp) (n : Nat) : QOp := { o with level := max o.level n }

/-- The read-set line of a member's read (R242); a 33rd distinct line aborts (R243). -/
def readSetLine (s : State) (gid : GId) (o : QOp) (pa : Nat) : State :=
  match (s.group gid).region with
  | none => s
  | some r =>
    if !inOpenRegion (s.group gid) o || o.loc || r.reads.contains (pa / 128) then s
    else if r.reads.length == 32 then abortRegion s gid 3 0
    else s.updGroup gid (fun g => { g with region := some { r with reads := r.reads ++ [pa / 128] } })

/-- Access j of operation `id` performed on resident memory at `pa`; `buf` says that the core's atomic line buffer executes it, so that
the line need not be written back (R218). -/
def performMem (s : State) (gid : GId) (id j level : Nat) (buf : Bool) : State :=
  match findOp (s.group gid) id with
  | none => s
  | some o =>
    match o.accs[j]? with
    | none => s
    | some a =>
      if settledAcc a then s
      else
        let old := readLE s.mem a.pa a.size
        let s := if buf then s else writeBackRange s a.pa a.size
        let s := if isWrite o.kind && !casFails o a old then
            conflict { s with mem := writeLE s.mem a.pa a.size (newValue o a old) } (some gid) a.pa a.size
          else s
        let seen := match o.kind with
          | .load | .gld => lowerThreads (s.group gid) o j a (groupValue (s.group gid) o.id false a old)
          | .rdc => rdcOf (groupValue (s.group gid) o.id false a old)
          | .rmw _ true => old
          | _ => a.data.toNat
        let s := s.updGroup gid (fun g =>
          let g := match o.kind with
            | .load | .gld | .rdc => markRead g o.id false a
            | _ => g
          updOp g id (fun o => raiseLevel (setAcc o j (fun a => { a with st := .done, data := BitVec.ofNat 64 seen })) level))
        match o.kind with
        | .load | .gld | .rdc | .tlogLen => readSetLine s gid o a.pa
        | _ => s

/-- Access j of operation `id` performed at home slice `h` of its tile: an atomic or a reduction is placed first (R217). -/
def performAt (s : State) (gid : GId) (id j h level : Nat) (resident : Bool) : State :=
  match (findOp (s.group gid) id).bind (fun o => (o.accs[j]?).map (fun a => (o, a))) with
  | some (o, a) =>
    if isRmwStore o.kind && !settledAcc a then
      let p := placeAtomic s h gid.core gid.tag a.pa resident
      performMem p.1 gid id j (if p.2 then 2 else level) p.2
    else performMem s gid id j level false
  | none => s

/-- The fetch of tile k meets an uncorrectable error: the log's entries are discarded, the tile is poisoned, the accesses queued behind
the fetch fail, and a record waits for delivery (R216). -/
def loseLog (s : State) (k : Nat) : State :=
  let t := s.tile k
  let seqs := t.log.map (fun e => e.seq)
  let s := { s with
    bad := s.bad.filter (fun x => x != k)
    lost := s.lost ++ (if t.log.isEmpty then []
      else [({ tile := k, lo := (seqs.min?).getD 0, hi := (seqs.max?).getD 0, tags := (t.log.map LogEntry.tag).eraseDups } : LostRec)]) }
  let s := s.updTile k (fun t => { t with log := [], seq := 0, fetching := false, poisoned := true, rewritten := 0, queue := [] })
  t.queue.foldl (fun s q => failAcc s q.gid q.id q.acc 0x28) s

/-- A fetch of tile k ends now. One that meets an error loses the log (R216); else the log is applied, for the launch whose access began
the fetch (R328), and the queued accesses are performed in order (R215). `who` and `tag` stand for the access that asks for the tile
now. -/
def fetchNow (s : State) (who : Option GId) (k tag : Nat) : State :=
  let t := s.tile k
  if t.resident || t.poisoned then s
  else if s.bad.contains k then loseLog s k
  else
    let by_ := match t.queue.head? with
      | some q => (some q.gid, q.gid.tag)
      | none => (who, tag)
    let s := applyTile s by_.1 k by_.2
    let s := s.updTile k (fun t => { t with queue := [] })
    t.queue.foldl (fun s q => performAt s q.gid q.id q.acc (homeOf s k) 0 (!q.began)) s

end Sys2Proof.Machine
end

