-- ==== Sys2Proof/Machine/GroupImage.lean ====
section
/-!
DEFINITION. A group's state in the layout of a core dump (R359), which the debugger's state window shares (R354): written out
as bytes, and what a write through that window reaches.
-/

namespace Sys2Proof.Machine

/-! ## System registers (R187) -/

/-- ELSTAT of a group (R187). -/
def elstatOf (g : Group) : Word :=
  BitVec.ofNat 64 ((if regionOpen g then 65536 else 0) + g.elcode.toNat * 256 + g.elcause.toNat)

/-- MODE. -/
def modeOf (g : Group) : Word := BitVec.ofNat 64 ((if g.h then 2 else 0) + (if g.svc then 1 else 0))

/-- A write of a system register. -/
def setSr (g : Group) (n : BitVec 8) (v : Word) : Group :=
  match n.toNat with
  | 0x00 => { g with xpc := v }
  | 0x02 => { g with faultmask := v }
  | 0x08 => { g with flags := flagsWritten v }
  | 0x09 => { g with elcode := field 8 v.toNat 8, elcause := field 4 v.toNat 0 }
  | _ => g

/-! ## The image -/

/-- A guard's code: 0 unresolved, 1 false, 2 true. -/
def guardCode : Guard → Nat
  | .unres => 0 | .isFalse => 1 | .isTrue => 2

/-- Sixteen guards, 2 bits each from g0 on. -/
def guardsNat (gs : Sparse Guard) : Nat :=
  (List.range 16).foldl (fun a k => a + guardCode (sget .unres gs k) * 4 ^ k) 0

/-- A split-table entry (R55); path number p is entry p − 1. -/
def splitEntry (p : Path) : Nat :=
  p.mask.toNat * 2 ^ 128 + bits p.pc.toNat 0 57 * 2 ^ 71 + p.fmtc.toNat * 2 ^ 39
    + (if p.parent = 0 then 15 else p.parent - 1) * 2 ^ 35 + p.mdep * 2 ^ 32 + p.ldep * 2 ^ 29 + 1

/-- A face-stack record (R58, R259). -/
def faceEntry (r : FaceRec) : Nat :=
  r.facea.toNat * 2 ^ 192 + r.entry.toNat * 2 ^ 128 + bits r.stop.toNat 0 57 * 2 ^ 71 + r.fmtc.toNat * 2 ^ 39 + 1

/-- A loop-stack record (R142, R261). -/
def loopEntry (r : LoopRec) : Nat :=
  r.count.toNat * 2 ^ 192 + bits r.start.toNat 0 57 * 2 ^ 135 + bits r.stop.toNat 0 57 * 2 ^ 78
    + (if r.kind then r.entry.toNat * 2 ^ 14 + r.regn.toNat * 2 ^ 7 + 2 else 0) + 1

/-- `n` entries of 32 bytes, the rest zero. -/
def entries32 (n : Nat) (es : List Nat) : List Byte := (List.range n).flatMap (fun i => toBytes 32 (es.getD i 0))

/-- Entry e of the split table, 0 when not in use. -/
def splitNats (g : Group) : List Nat :=
  (List.range 8).map (fun e => match g.split.find? (fun p => p.1 == e + 1) with
    | some p => splitEntry p.2
    | none => 0)

/-- Lane states, 2 bits each: 0 LIVE, 1 HELPER, 2 GONE. -/
def laneStates (g : Group) : Nat :=
  lanes.foldl (fun a t => a + (if bit g.gone t then 2 else if bit g.helper t then 1 else 0) * 4 ^ t) 0

def idempcOf (g : Group) : Word := (g.ck.ckpc &&& ~~~15) ||| (if g.ck.ckv then 1 else 0)

/-- The image of a group (R359). FMT is the undivided path's. -/
def groupImage (s : State) (gid : GId) : List Byte :=
  let g := s.group gid
  let l := s.launch gid.tag
  let q := fun (w : Word) => toBytes 8 w.toNat
  let z := fun (n : Nat) => List.replicate n (0 : Byte)
  toBytes 2 gid.tag ++ toBytes 2 gid.core ++ toBytes 1 gid.grp ++ toBytes 1 l.vregs ++ z 2
  ++ q l.deckId ++ q g.xpc ++ q g.xcode ++ q g.faultmask ++ q g.faultface ++ q g.faultaddr
  ++ toBytes 4 g.spord.toNat ++ toBytes 4 (min 64 g.hist.length)
  ++ (List.range 64).flatMap (fun i => q (g.hist.getD i 0))
  ++ (List.range 64).flatMap (fun i => q (readS g (BitVec.ofNat 6 i)))
  ++ (List.range 8).flatMap (fun i => q (readM g (BitVec.ofNat 3 i)))
  ++ toBytes 8 (guardsNat g.guards)
  ++ toBytes 8 g.root.fmt.toNat ++ q g.flags ++ q (elstatOf g) ++ q (modeOf g) ++ q (idempcOf g)
  ++ toBytes 1 g.lc ++ toBytes 1 g.sc ++ toBytes 1 g.cc ++ toBytes 1 g.tc
  ++ toBytes 1 g.split.length ++ toBytes 1 g.face.length ++ toBytes 1 g.loops.length ++ z 1
  ++ q g.root.mask ++ toBytes 16 (laneStates g) ++ q g.root.pc ++ z 40
  ++ entries32 8 (splitNats g)
  ++ entries32 4 (g.face.reverse.map faceEntry)
  ++ entries32 4 (g.loops.reverse.map loopEntry)
  ++ q g.ck.mask ++ toBytes 8 g.ck.fmt.toNat ++ q g.ck.flags ++ toBytes 8 (guardsNat g.ck.guards)
  ++ entries32 4 (g.ck.loops.reverse.map loopEntry) ++ z 96
  ++ (List.range l.vregs).flatMap (fun r => lanes.flatMap (fun t => toBytes 4 (readV g (BitVec.ofNat 7 r) t).toNat))

/-! ## Writes through the state window (R354) -/

/-- The image with data laid over it at an offset. -/
def patch (img : List Byte) (off : Nat) (d : List Byte) : List Byte :=
  img.take off ++ (d.take (img.length - off)) ++ img.drop (off + d.length)

def imgNat (img : List Byte) (off n : Nat) : Nat := ofBytes ((img.drop off).take n)
def imgWord (img : List Byte) (off : Nat) : Word := BitVec.ofNat 64 (imgNat img off 8)

/-- Guards of an image; the code 3 stands for no value and leaves the slot as it is. -/
def guardsFrom (g : Group) (v : Nat) : Group :=
  (List.range 16).foldl (fun g k =>
    match bits v (2 * k) 2 with
    | 0 => writeGuard g (BitVec.ofNat 4 k) .unres
    | 1 => writeGuard g (BitVec.ofNat 4 k) .isFalse
    | 2 => writeGuard g (BitVec.ofNat 4 k) .isTrue
    | _ => g) g

/-- The registers that an image changes: s, m, v, guards, FMT, FLAGS, ELSTAT's writable fields, and with H = 1 XPC and
FAULTMASK; nothing else (R354). DEDUCED (notes/assumptions/24.md). -/
def fromImage (g : Group) (vregs : Nat) (img : List Byte) : Group :=
  let g := if g.h then { g with xpc := imgWord img 0x10, faultmask := imgWord img 0x20 } else g
  let g := (List.range 64).foldl (fun g i => writeS g (BitVec.ofNat 6 i) (imgWord img (0x240 + 8 * i))) g
  let g := (List.range 8).foldl (fun g i => writeM g (BitVec.ofNat 3 i) (imgWord img (0x440 + 8 * i))) g
  let g := guardsFrom g (imgNat img 0x480 4)
  let f := imgNat img 0x488 4
  let g := if fmtValid f then { g with root := { g.root with fmt := BitVec.ofNat 32 f } } else g
  let g := setSr (setSr g 0x08 (imgWord img 0x490)) 0x09 (imgWord img 0x498)
  (List.range vregs).foldl (fun g r =>
    lanes.foldl (fun g t => writeV g (BitVec.ofNat 7 r) t (BitVec.ofNat 32 (imgNat img (0x800 + 256 * r + 4 * t) 4))) g) g

end Sys2Proof.Machine
end

