-- ==== Sys2Proof/Machine/Registers.lean ====
section
/-!
DEFINITION. The registers that every agent reaches through the device windows (R372): plain tables, the access tables (R377),
power and clock (R381), partitions (R374), the debug block (R351 to R355). A register is read and written as 8 bytes;
a write of fewer bytes merges with what the register reads. Registers that act only on one 64-byte write are in
`Machine/Windows.lean`.
-/

namespace Sys2Proof.Machine

/-! ## Plain registers of the windows (R372) -/

def dieBase (d : Nat) : Nat := 0x200000000000 + d * 0x1000000
def ctxBase (c : Nat) : Nat := 0x210000000000 + 32 * c
def rootsBase (c : Nat) : Nat := 0x218000000000 + 8 * c
def keysBase (c : Nat) : Nat := 0x219000000000 + 64 * c
def pkgBase : Nat := 0x21C000000000
def partBase (p : Nat) : Nat := 0x21C000001000 + 8 * p
def collBase (c : Nat) : Nat := 0x220000000000 + 64 * c
def peerBase (q : Nat) : Nat := 0x221000000000 + 32 * q
def dbgBase (c : Nat) : Nat := 0x300000000000 + c * 0x40000
def yctlBase (d : Nat) : Nat := dieBase d + 0x30000

/-- The reset value of a register byte: POLITE is 15 in every context entry (R323), 0 elsewhere. -/
def regResetByte (a : Nat) : Byte :=
  if 0x210000000000 ≤ a && a < 0x210000200000 && a % 32 == 4 then 15 else 0

/-- A byte of a plain register; `regs` keeps the difference from reset. -/
def regByte (s : State) (a : Nat) : Byte := readByte s.regs a ^^^ regResetByte a
def regBytes (s : State) (a : Nat) : Nat → List Byte
  | 0 => []
  | n + 1 => regByte s a :: regBytes s (a + 1) n
def regLE (s : State) (a n : Nat) : Nat := ofBytes (regBytes s a n)
def putRegByte (s : State) (a : Nat) (v : Byte) : State := { s with regs := writeByte s.regs a (v ^^^ regResetByte a) }
def putRegBytes (s : State) (a : Nat) : List Byte → State
  | [] => s
  | b :: r => putRegBytes (putRegByte s a b) (a + 1) r
def putReg (s : State) (a n v : Nat) : State := putRegBytes s a (toBytes n v)

/-! ## Context table (R323) -/

def ctxEntry (s : State) (c : Nat) : Nat := regLE s (ctxBase c) 32
def ctxNrbase (s : State) (c : Nat) : Nat := bits (ctxEntry s c) 192 64
def ctxNridx (s : State) (c : Nat) : Nat := bits (ctxEntry s c) 128 64
def ctxNrlog (s : State) (c : Nat) : Nat := bits (ctxEntry s c) 124 4
def ctxPolite (s : State) (c : Nat) : Nat := bits (ctxEntry s c) 32 10 + 1
def ctxOvr (s : State) (c : Nat) : Bool := bits (ctxEntry s c) 28 1 == 1
def ctxPrio (s : State) (c : Nat) : Nat := bits (ctxEntry s c) 22 3
def ctxPmask (s : State) (c : Nat) : Nat := bits (ctxEntry s c) 0 16
def rootsEntry (s : State) (c : Nat) : Nat := regLE s (rootsBase c) 8

/-! ## Partitions (R325, R374) -/

def partEntry (s : State) (p : Nat) : Nat := regLE s (partBase p) 8
/-- Cores of a partition, ascending. -/
def partCores (s : State) (p : Nat) : List Nat :=
  (List.range (coresOf s.part)).filter (fun c => bits (partEntry s p) (clusterOf c) 1 == 1)
/-- The die of the lowest-numbered cluster. -/
def homeDie (s : State) (p : Nat) : Nat := (((List.range 64).find? (fun k => bits (partEntry s p) k 1 == 1)).getD 0) / 4
/-- Launches of a partition that are admitted and not completed. -/
def partLaunches (s : State) (p : Nat) : List Launch := s.launches.filter (fun l => !l.svc && l.part == p)

/-- A cluster of a die the part lacks, or one powered off (R381). -/
def clusterOff (s : State) (k : Nat) : Bool :=
  decide (4 * diesOf s.part ≤ k) || bits (sget 0 s.pwrgate (k / 4)).toNat (k % 4) 1 == 1

/-- A write of a partition entry is ignored in full (R374). -/
def partIgnored (s : State) (p v : Nat) : Bool :=
  (List.range 64).any (fun k => bits v k 1 == 1 && (clusterOff s k
    || (List.range 16).any (fun q => q != p && bits (partEntry s q) k 1 == 1)))
  || !(partLaunches s p).isEmpty

def writePart (s : State) (p v : Nat) : State := if partIgnored s p v then s else putReg s (partBase p) 8 v

/-! ## Power and clock (R381) -/

def clklockRead (s : State) : Nat := s.clkSet.toNat + (if s.clkPend then 4 else 0)

/-- CLKLOCK: a write of a set bit above 1:0 is ignored; one that selects the clock in force with none pending is no change. -/
def writeClklock (s : State) (v : Nat) : State :=
  if 4 ≤ v then s
  else if BitVec.ofNat 2 v == s.clkCur && !s.clkPend then s
  else { s with clkSet := BitVec.ofNat 2 v, clkPend := true }

/-- PWRGATE: a write that would gate a cluster of a configured partition is ignored in full. -/
def writePwrgate (s : State) (d v : Nat) : State :=
  let held := (List.range 4).any (fun c => bits v c 1 == 1 && (List.range 16).any (fun q => bits (partEntry s q) (4 * d + c) 1 == 1))
  if held then s else { s with pwrgate := sput 0 s.pwrgate d (BitVec.ofNat 4 v) }

/-! ## Access tables (R377) -/

/-- Die d has target t. -/
def hasTarget (p : Part) (d t : Nat) : Bool :=
  decide (t < 6) || t == 7 || t == 8 || t == 9
  || (t == 6 && p.cxl && (if p.dies16 then [0, 3, 12, 15].contains d else [0, 3].contains d))
  || (t == 10 && p.netx && (if p.dies16 then [5, 6, 9, 10].contains d else [5, 6].contains d))

def atselOf (s : State) (d : Nat) : Nat := bits (sget 0 s.atsel d).toNat 0 4

def readAtab (s : State) (d o : Nat) : Nat :=
  if o == 0 then (sget 0 s.atsel d).toNat
  else if 0x2000 ≤ o && hasTarget s.part d (atselOf s d) then readLE s.atab (atBase d (atselOf s d) + o) 8
  else 0

/-- A write of 8 bytes of the access-table block. A window's lower half waits, as its difference from the half in effect,
until the upper half is written; then both take effect. DEDUCED (notes/assumptions/12.md). -/
def writeAtab (s : State) (d o v : Nat) : State :=
  let a := atBase d (atselOf s d) + o
  if o == 0 then { s with atsel := sput 0 s.atsel d (BitVec.ofNat 64 (bits v 0 4)) }
  else if o < 0x2000 || !hasTarget s.part d (atselOf s d) then s
  else if o < 0x4000 then { s with atab := writeLE s.atab a 8 v }
  else if o % 16 == 0 then { s with atLow := sput 0 s.atLow a (BitVec.ofNat 64 (v ^^^ readLE s.atab a 8)) }
  else
    let lo := a - 8
    let low := readLE s.atab lo 8 ^^^ (sget 0 s.atLow lo).toNat
    { s with atab := writeLE (writeLE s.atab lo 8 low) a 8 v, atLow := sput 0 s.atLow lo 0 }

/-! ## Refused writes (R310, R311) -/

def countRefused (s : State) (d : Nat) : State := { s with nrefused := sput 0 s.nrefused d ((sget 0 s.nrefused d + 1) % 2 ^ 32) }
/-- A write of ones clears those bits of the count. -/
def clearRefused (s : State) (d v : Nat) : State :=
  { s with nrefused := sput 0 s.nrefused d (sget 0 s.nrefused d &&& (2 ^ 32 - 1 - v % 2 ^ 32)) }

/-! ## The debug block (R351 to R355) -/

/-- Halted groups of a context (DBGSTAT 15:0). -/
def haltedCount (s : State) (ctx : Nat) : Nat :=
  (((s.launches.filter (fun l => l.ctx == ctx)).flatMap launchGroups).filter (fun g => (s.group g).status == .halted)).length

/-- The group that DBGSEL names, when its launch is one of the context. -/
def dbgGroup (s : State) (ctx : Nat) : Option GId :=
  let v := regLE s (dbgBase ctx + 0x18) 8
  let g : GId := { tag := bits v 0 16, core := bits v 16 16, grp := bits v 32 5 }
  let l := s.launch g.tag
  if l.tag != 0 && l.ctx == ctx && l.cores.contains g.core then some g else none

/-- The group of the state window, while it is HALTED (R354). -/
def gstateGroup (s : State) (ctx : Nat) : Option GId :=
  match dbgGroup s ctx with
  | some g => if (s.group g).status == .halted then some g else none
  | none => none

def gstateRead (s : State) (ctx off n : Nat) : List Byte :=
  match gstateGroup s ctx with
  | some g =>
    let img := groupImage s g
    (List.range n).map (fun i => img.getD (off + i) 0)
  | none => List.replicate n 0

/-- A write through the state window (R354). -/
def gstateWrite (s : State) (ctx off : Nat) (d : List Byte) : State :=
  match gstateGroup s ctx with
  | some g => s.updGroup g (fun x => fromImage x (s.launch g.tag).vregs (patch (groupImage s g) off d))
  | none => s

/-- What GPOOL reaches: the workgroup's tag and core, true for the scratchpad, and the granule (R355). -/
def gpoolSel (s : State) (ctx : Nat) : Option (Nat × Nat × Bool × Nat) :=
  let v := regLE s (dbgBase ctx + 0x20) 8
  let gran := bits v 2 7
  let v18 := regLE s (dbgBase ctx + 0x18) 8
  let tag := bits v18 0 16
  let core := bits v18 16 16
  let l := s.launch tag
  let ok := l.tag != 0 && l.ctx == ctx && (s.core core).tag == tag && (s.wg tag core).place == .core
    && l.state != .placing true && l.state != .placing false
    && (groupsOf l core).all (fun g => (s.group g).status == .retired || (s.group g).status == .halted)
  let region := bits v 0 2
  if !ok then none
  else if region == 1 && decide (gran < bits l.pword.toNat 7 7) then some (tag, core, true, gran)
  else if region == 2 && decide (gran < bits l.pword.toNat 14 7) then some (tag, core, false, gran)
  else none

/-- A byte of a workgroup's pool granule. -/
def poolByte (w : Workgroup) (sp : Bool) (gran off : Nat) : Byte :=
  if sp then readByte w.scratch (65536 * gran + off)
  else BitVec.ofNat 8 ((sget 0 w.acc (16384 * gran + off / 4)).toNat / 256 ^ (off % 4))

def gpoolRead (s : State) (ctx off n : Nat) : List Byte :=
  match gpoolSel s ctx with
  | some (tag, core, sp, gran) => (List.range n).map (fun i => poolByte (s.wg tag core) sp gran (off + i))
  | none => List.replicate n 0

/-- A copy or a `c.send` of the launch names scratchpad byte `b` of a core as its destination or its completion word (R296, R298). -/
def copyNames (core b : Nat) (o : CopyOp) : Bool :=
  !o.suppressed && o.target == core
  && ((o.ldst && (match dstSpan o with
      | some (lo, hi) => decide (lo ≤ (b : Int)) && decide ((b : Int) ≤ hi)
      | none => false))
    || (o.ckind == 1 && decide (o.caddr.toNat ≤ b) && decide (b < o.caddr.toNat + 8)))

/-- An uncompleted engine command names the byte: a range lock on the scratchpad or a copy of any core of the launch, or the tile. -/
def poolBusy (s : State) (tag core : Nat) (sp : Bool) (gran off : Nat) : Bool :=
  let w := s.wg tag core
  let b := 65536 * gran + off
  if sp then w.locks.any (fun k => k.loc && decide (k.lo ≤ (b : Int)) && decide ((b : Int) ≤ k.hi))
    || (s.launch tag).cores.any (fun c => (s.wg tag c).copyq.any (copyNames core b))
  else ((w.tileq.filter (fun o => !o.idle)).flatMap (fun o => aRegs o.op)).any (fun a => a.toNat == 4 * gran + off / 16384)

def putPoolByte (w : Workgroup) (sp : Bool) (gran off : Nat) (v : Byte) : Workgroup :=
  if sp then { w with scratch := writeByte w.scratch (65536 * gran + off) v }
  else
    let k := 16384 * gran + off / 4
    let old := (sget 0 w.acc k).toNat
    let sh := 256 ^ (off % 4)
    { w with acc := sput 0 w.acc k (BitVec.ofNat 32 (old - old / sh % 256 * sh + v.toNat * sh)) }

/-- A write through the pool window, byte by byte (R355). -/
def gpoolWrite (s : State) (ctx off : Nat) (d : List Byte) : State :=
  match gpoolSel s ctx with
  | some (tag, core, sp, gran) =>
    let free := ((List.range d.length).zip d).filter (fun x => !poolBusy s tag core sp gran (off + x.1))
    s.updWg tag core (fun w => free.foldl (fun w x => putPoolByte w sp gran (off + x.1) x.2) w)
  | none => s

/-- A message without payload from an operation's rank to every other rank (R386). -/
def boomTell (o : BoomOp) (kind status : Nat) : List BoomMsg :=
  ((List.range o.ranks.length).filter (fun r => r != o.rank)).map (fun r =>
    { kind := kind, coll := o.coll, k := o.k, src := o.rank, dst := r, seg := 0, phase := 0, payload := [], status := status })

/-! ## Messages on the links (R385, R386) -/

/-- A header flit. -/
def headerFlit (opc srcid tag len status : Nat) : List Byte :=
  toBytes 32 (opc * 2 ^ 248 + srcid * 2 ^ 224 + tag * 2 ^ 208 + len * 2 ^ 192 + status * 2 ^ 184)

/-- Data flits: the bytes in flits of 32, padded with zero. -/
def dataFlits (d : List Byte) : List (List Byte) :=
  (List.range ((d.length + 31) / 32)).map (fun i => (List.range 32).map (fun j => d.getD (32 * i + j) 0))

/-- Flits put on a die's link, and kept among the last 512. -/
def sendFlits (s : State) (d : Nat) (fs : List (List Byte)) : State :=
  let p := sget .zero s.ports d
  let kept := p.sent ++ fs
  { s with ports := sput .zero s.ports d { p with sent := kept.drop (kept.length - 512), wire := p.wire ++ fs } }

/-- A message as it travels: the header of 32 bytes, then the payload (R386). -/
def boomBytes (m : BoomMsg) : List Byte :=
  toBytes 2 1 ++ toBytes 2 m.kind ++ toBytes 2 m.coll ++ toBytes 2 0 ++ toBytes 4 m.k ++ toBytes 2 m.src ++ toBytes 2 m.dst ++ toBytes 4 m.seg
  ++ toBytes 1 m.phase ++ toBytes 3 0 ++ toBytes 4 m.payload.length ++ toBytes 4 (if m.kind == 5 then m.status else 0) ++ m.payload

/-- The package and the core of a rank (R380). -/
def rankPkg (ranks : List Nat) (r : Nat) : Nat := ranks.getD r 0 / 65536
def rankCore (ranks : List Nat) (r : Nat) : Nat := ranks.getD r 0 % 65536

/-- Scale-out port `n` exists on the part: one for each die that R3 names (R3, R4). -/
def hasPort (p : Part) (n : Nat) : Bool := p.netx && decide (n < if p.dies16 then 4 else 2)

/-- A message to a rank of another package leaves: over Highlead as one transaction of OPC 0x10 where it joins the packages, else over the
scale-out port that the peer table names as one datagram, where the part has that port (R3, R386). DEDUCED
(notes/assumptions/31.md). -/
def boomLink (ranks : List Nat) (s : State) (m : BoomMsg) : State :=
  let q := rankPkg ranks m.dst
  let b := boomBytes m
  if q == s.part.package then s
  else match s.part.joined.find? (fun p => p.1 == q && decide (p.2 < diesOf s.part)) with
    | some p => sendFlits s p.2 (headerFlit 0x10 (idBoom (dieOf (rankCore ranks m.src))) 0 (b.length - 1) 0 :: dataFlits b)
    | none =>
      let port := regLE s (peerBase q + 16) 2
      if !hasPort s.part port then s else { s with datagrams := s.datagrams ++ [{ port := port, dest := regBytes s (peerBase q) 16, bytes := b }] }

/-- Messages of a collective are sent: those to this package's ranks, and data not yet acknowledged, are kept with the time of sending. -/
def boomPost (s : State) (ranks : List Nat) (ms : List BoomMsg) : State :=
  let keep := ms.filter (fun m => m.kind == 1 || rankPkg ranks m.dst == s.part.package)
  ms.foldl (boomLink ranks) { s with boomSent := s.boomSent ++ keep.map (fun m => (m, s.dtime)) }

/-! ## Halting and resuming (R347, R353) -/

/-- The timeout of an operation freezes, or runs on (R347). -/
def BoomOp.freeze (now : Nat) (frozen : Bool) (o : BoomOp) : BoomOp :=
  if o.frozen == frozen then o
  else if frozen then { o with frozen := true, left := o.left - (now - o.since) }
  else { o with frozen := false, since := now }

/-- The timeouts of a halted or resumed group's uncompleted Boom operations, and of those matched with them, freeze or run
on, and every other rank is told (R347). -/
def freezeBoom (s : State) (gid : GId) (frozen : Bool) : State :=
  let hit := s.boomOps.filter (fun o => o.gid == gid && !o.ended && o.status == none)
  let keys := hit.map (fun o => (o.coll, o.k))
  let s := { s with boomOps := s.boomOps.map (fun o => if keys.contains (o.coll, o.k) then o.freeze s.dtime frozen else o) }
  hit.foldl (fun s o => boomPost s o.ranks (boomTell o (if frozen then 3 else 4) 0)) s

/-- A halted group is resumed (R353); its `skip` names the word that it issues without halting again. -/
def resumeGroup (s : State) (gid : GId) : State :=
  freezeBoom (s.updGroup gid (fun g => { g with status := .active })) gid false

/-- Resumed by the debugger: with SSTEP = 1 the group halts again at the next safe point (R352). A group that `halt` has stopped is not
resumed (R193). -/
def debugResume (s : State) (ctx : Nat) (gid : GId) : State :=
  if (s.group gid).status == .halted && !(s.group gid).byHalt then
    let step := regLE s (dbgBase ctx) 8 / 2 % 2 == 1
    (resumeGroup s gid).updGroup gid (fun g => { g with stepReq := step })
  else s

/-- The launch a DBGCMD names, when it is one of the context. DEDUCED (notes/assumptions/24.md). -/
def dbgLaunch (s : State) (ctx v : Nat) : Option Launch :=
  let l := s.launch (bits v 16 16)
  if l.tag != 0 && l.ctx == ctx then some l else none

/-- CMD 1: every group of the launch halts at the next safe point it reaches (R352). -/
def dbgHaltLaunch (s : State) (ctx v : Nat) : State :=
  match dbgLaunch s ctx v with
  | some l => (launchGroups l).foldl (fun s g =>
      if groupDone (s.group g) || (s.group g).status == .halted then s else s.updGroup g (fun x => { x with haltReq := true })) s
  | none => s

/-- CMD 2: every halted group of the launch is resumed (R353). -/
def dbgResumeLaunch (s : State) (ctx v : Nat) : State :=
  match dbgLaunch s ctx v with
  | some l => (launchGroups l).foldl (fun s g => debugResume s ctx g) s
  | none => s

/-- CMD 3: one group. -/
def dbgResumeGroup (s : State) (ctx v : Nat) : State :=
  match dbgLaunch s ctx v with
  | some l =>
    let g : GId := { tag := l.tag, core := bits v 32 16, grp := bits v 48 5 }
    if l.cores.contains g.core && decide (g.grp < l.groups) then debugResume s ctx g else s
  | none => s

/-- A DBGCMD with a reserved bit set is ignored (R351). -/
def dbgcmdOk (v : Nat) : Bool := bits v 2 14 == 0 && bits v 53 11 == 0

/-- DBGCMD. -/
def writeDbgcmd (s : State) (ctx v : Nat) : State :=
  if !dbgcmdOk v then s
  else match bits v 0 2 with
    | 1 => dbgHaltLaunch s ctx v
    | 2 => dbgResumeLaunch s ctx v
    | 3 => dbgResumeGroup s ctx v
    | _ => s

/-- Reserved bits of the debug block's plain registers; none where the offset names no such register (R351). -/
def dbgReserved (o : Nat) : Option Nat :=
  if o == 0 then some (2 ^ 64 - 4)
  else if o == 0x18 then some (2 ^ 64 - 2 ^ 37)
  else if o == 0x20 then some (2 ^ 64 - 2 ^ 9)
  else if 0x40 ≤ o && o < 0xC0 then some (2 ^ 63 - 2 ^ 32)
  else if o == 0x100 then some (2 ^ 64 - 2 ^ 56 + 2 ^ 32 - 2 ^ 13 + 0xFE)
  else if o == 0x118 then some (2 ^ 64 - 2 ^ 5)
  else if o == 0xC0 || o == 0x108 || o == 0x110 || o == 0x140 || o == 0x148 || o == 0x150 || o == 0x158 then some 0
  else none

def readDebug (s : State) (ctx o : Nat) : Nat :=
  if o == 0x10 then regLE s (dbgBase ctx + 0x10) 8 + haltedCount s ctx % 65536
  else if 0x10000 ≤ o && o < 0x20000 then ofBytes (gstateRead s ctx (o - 0x10000) 8)
  else if 0x20000 ≤ o && o < 0x30000 then ofBytes (gpoolRead s ctx (o - 0x20000) 8)
  else if (dbgReserved o).isSome then regLE s (dbgBase ctx + o) 8 else 0

def writeDebug (s : State) (ctx o v : Nat) : State :=
  if o == 8 then writeDbgcmd s ctx v
  else if 0x10000 ≤ o && o < 0x20000 then gstateWrite s ctx (o - 0x10000) (toBytes 8 v)
  else if 0x20000 ≤ o && o < 0x30000 then gpoolWrite s ctx (o - 0x20000) (toBytes 8 v)
  else
    match dbgReserved o with
    | some r => if v &&& r == 0 then putReg s (dbgBase ctx + o) 8 v else s
    | none => s

/-! ## Every register of the windows (R372) -/

/-- What an address of the register window names. -/
inductive RegAt
  | die (d o : Nat)
  | table (a : Nat)
  | pkg (o : Nat)
  | debug (ctx o : Nat)
  | notify (d o : Nat)
  | nothing
  deriving DecidableEq, Repr

def regAt (p : Part) (a : Nat) : RegAt :=
  if a < 0x200000000000 then .nothing
  else if a < 0x210000000000 then
    let d := (a - 0x200000000000) / 0x1000000
    if d < diesOf p then .die d (a % 0x1000000) else .nothing
  else if a < 0x210000200000 then .table a
  else if 0x218000000000 ≤ a && a < 0x218000080000 then .table a
  else if 0x219000000000 ≤ a && a < 0x219000400000 then .table a
  else if 0x21C000000000 ≤ a && a < 0x21C000002000 then .pkg (a - 0x21C000000000)
  else if 0x220000000000 ≤ a && a < 0x220000400000 then .table a
  else if 0x221000000000 ≤ a && a < 0x221000020000 then .table a
  else if 0x280000000000 ≤ a && a < 0x300000000000 then
    let d := (a - 0x280000000000) / 0x1000
    if d < diesOf p then .notify d (a % 0x1000) else .nothing
  else if 0x300000000000 ≤ a && a < 0x300400000000 then .debug ((a - 0x300000000000) / 0x40000) (a % 0x40000)
  else .nothing

/-- YSTAT: bring-up steps 1 to 3 are done (R379). -/
def ystat (s : State) : Nat := if s.bringup == 3 then 1 else 0

def readDie (s : State) (d o : Nat) : Nat :=
  if o < 0x8000 then readAtab s d o
  else if o == 0x10000 then (sget 0 s.pwrgate d).toNat
  else if o == 0x20000 then (sget 0 s.thermstat d).toNat
  else if o == 0x30000 then ystat s
  else if o == 0x300C0 || o == 0x300C8 then regLE s (dieBase d + o) 8
  else if o == 0x300D0 then (sget 0 s.escidx d).toNat
  else 0

def writeDie (s : State) (d o v : Nat) : State :=
  if o < 0x8000 then writeAtab s d o v
  else if o == 0x10000 then writePwrgate s d v
  else if o == 0x300C0 || o == 0x300C8 then putReg s (dieBase d + o) 8 v
  else s

def readPkg (s : State) (o : Nat) : Nat :=
  if o == 0 then clklockRead s
  else if o == 0x80 then s.sdstat % 2 ^ 32
  else if o == 0x100 then s.dtime
  else if 0x1000 ≤ o && o < 0x1080 then regLE s (pkgBase + o) 8
  else 0

def writePkg (s : State) (o v : Nat) : State :=
  if o == 0 then writeClklock s v
  else if 0x1000 ≤ o && o < 0x1080 then writePart s ((o - 0x1000) / 8) v
  else s

/-- The 8-byte register at an 8-aligned address; one that the windows do not name reads 0. -/
def reg8 (s : State) (a : Nat) : Nat :=
  match regAt s.part a with
  | .die d o => readDie s d o
  | .table a => regLE s a 8
  | .pkg o => readPkg s o
  | .debug c o => readDebug s c o
  | .notify d o => if o == 0xC0 then sget 0 s.nrefused d else 0
  | .nothing => 0

/-- A write of an 8-byte register; one that the windows do not name ignores it. -/
def setReg8 (s : State) (a v : Nat) : State :=
  match regAt s.part a with
  | .die d o => writeDie s d o v
  | .table a => putReg s a 8 v
  | .pkg o => writePkg s o v
  | .debug c o => writeDebug s c o v
  | .notify d o => if o == 0xC0 then clearRefused s d v else s
  | .nothing => s

/-- `n` bytes of the windows from `a` on. -/
def winRead (s : State) (a n : Nat) : List Byte :=
  let first := a / 8 * 8
  let bs := (List.range ((a % 8 + n + 7) / 8)).flatMap (fun i => toBytes 8 (reg8 s (first + 8 * i)))
  (bs.drop (a % 8)).take n

/-- Bytes laid over the register at the 8-aligned address `r`: those of `d`, which begins at `a`. A register that clears
by ones merges with 0. DEDUCED (notes/assumptions/12.md). -/
def mergeReg (s : State) (r a : Nat) (d : List Byte) : Nat :=
  let old := match regAt s.part r with
    | .notify _ _ => 0
    | _ => reg8 s r
  ofBytes ((List.range 8).map (fun i =>
    if a ≤ r + i then d.getD (r + i - a) (BitVec.ofNat 8 (old / 256 ^ i)) else BitVec.ofNat 8 (old / 256 ^ i)))

/-- NOTIFY, ABORT or QUERY of a die's notify block: these take one 64-byte write (R310). -/
def notifyReg (p : Part) (a : Nat) : Option Nat :=
  match regAt p a with
  | .notify d o => if o < 0xC0 then some d else none
  | _ => none

/-- A write to the windows, register by register; of another size than 64 bytes, one to a notify register is ignored and
counted (R310). -/
def winWrite (s : State) (a : Nat) (d : List Byte) : State :=
  match notifyReg s.part a with
  | some die => if d.isEmpty then s else countRefused s die
  | none =>
    (List.range ((a % 8 + d.length + 7) / 8)).foldl (fun s i =>
      let r := a / 8 * 8 + 8 * i
      setReg8 s r (mergeReg s r a d)) s

/-- The permission that a write to an address needs (R375). -/
def writePerm (p : Part) (a : Nat) : Perm := if (notifyReg p a).isSome then .n else .w

/-- A denied write; one to a notify register is counted (R376). -/
def denied (s : State) (a : Nat) : State :=
  match notifyReg s.part a with
  | some d => countRefused s d
  | none => s

end Sys2Proof.Machine
end

