-- ==== Sys2Proof/Machine/Phys.lean ====
section
/-!
DEFINITION. The accesses of masters other than groups to physical addresses: tile memory (R207, R214, R216) and the device
windows (R205, R372).
-/

namespace Sys2Proof.Machine

/-- What a read or a write of another master gives: a fault code or a result. -/
abbrev Res (α : Type) := Except Nat α

/-- A read or a fetch by a master, charged to launch `tag`; `who` is the group that makes it, whose region its own fetch does not abort (R243). -/
def physReadAs (who : Option GId) (p : Perm) (s : State) (m : Master) (tag pa n : Nat) : State × Res (List Byte) :=
  if !permitted s m pa p then (s, .error 0x0C)
  else
    match locate s.part pa with
    | .slice _ q =>
      if (s.tile (q / 4096)).poisoned then (s, .error 0x28)
      else
        let s := fetchNow s who (q / 4096) tag
        if (s.tile (q / 4096)).poisoned then (s, .error 0x28)
        else
          let s := writeBackRange s q n
          (s, .ok (readBytes s.mem q n))
    | .empty => (s, .error 0x0C)
    | _ => (s, .ok (winRead s pa n))

def physRead (s : State) (m : Master) (tag pa n : Nat) : State × Res (List Byte) := physReadAs none .r s m tag pa n

/-- A poisoned tile is healed once it has been rewritten whole through the memory window (R216). -/
def healTile (s : State) (k off n : Nat) : State :=
  s.updTile k (fun t =>
    let seen := t.rewritten ||| (2 ^ n - 1) * 2 ^ off
    if seen == 2 ^ 4096 - 1 then { t with poisoned := false, rewritten := 0 } else { t with rewritten := seen })

/-- What a write of a slice's memory meets before it is performed: poison, which only the memory window passes, and the fetch of the
tile; the write whose fetch meets an error fails like any other access (R216). -/
def sliceReady (s : State) (tag k : Nat) (window : Bool) : State × Res Unit :=
  if (s.tile k).poisoned then (s, if window then .ok () else .error 0x28)
  else
    let s := fetchNow s none k tag
    (s, if (s.tile k).poisoned then .error 0x28 else .ok ())

/-- What keeps a write by a master from being performed: permission (R207), poison, the fetch (R214). No byte is written. -/
def physReady (s : State) (m : Master) (tag pa : Nat) : State × Res Unit :=
  if !permitted s m pa (writePerm s.part pa) then (denied s pa, .error 0x0C)
  else
    match locate s.part pa with
    | .slice _ q => sliceReady s tag (q / 4096) (decide (0x400000000000 ≤ pa))
    | .empty => (s, .error 0x0C)
    | _ => (s, .ok ())

/-- Bytes written that nothing keeps from being performed: line buffers give up their lines (R218), a poisoned tile may heal (R216),
regions that read them abort (R243). -/
def putPhys (s : State) (pa : Nat) (d : List Byte) : State :=
  match locate s.part pa with
  | .slice _ q =>
    let was := (s.tile (q / 4096)).poisoned
    let s := writeBackRange s q d.length
    let s := conflict { s with mem := writeBytes s.mem q d } none q d.length
    if was then healTile s (q / 4096) (q % 4096) d.length else s
  | _ => conflict (winWrite s pa d) none pa d.length

/-- A write by a master. -/
def physWrite (s : State) (m : Master) (tag pa : Nat) (d : List Byte) : State × Res Unit :=
  match physReady s m tag pa with
  | (s, .error c) => (s, .error c)
  | (s, .ok _) => (putPhys s pa d, .ok ())

/-- Bytes written in pieces that do not cross a 4 KiB boundary; the first that fails ends it. -/
def physWriteGo (m : Master) (tag : Nat) : Nat → State → Nat → List Byte → State × Res Unit
  | 0, s, _, _ => (s, .ok ())
  | f + 1, s, pa, d =>
    if d.isEmpty then (s, .ok ())
    else
      let k := min d.length (4096 - pa % 4096)
      match physWrite s m tag pa (d.take k) with
      | (s, .error c) => (s, .error c)
      | (s, .ok _) => physWriteGo m tag f s (pa + k) (d.drop k)

def physWriteAll (s : State) (m : Master) (pa : Nat) (d : List Byte) : State × Res Unit :=
  physWriteGo m 0 (d.length / 4096 + 2) s pa d

end Sys2Proof.Machine
end

