-- ==== Sys2Proof/Machine/Translate.lean ====
section
/-!
DEFINITION. Virtual addresses (R200 to R204): the walk, the kept translations, permissions; and the accesses that
a Dealer, a packet processor, an engine or a Yarder makes through a context's translation, with signals (R317),
notices (R323) and escalation records (R379).
-/

namespace Sys2Proof.Machine

/-! ## The walk (R201 to R203) -/

/-- The bit of the address a level's index begins at, and the index's width (R201). -/
def levelLo (l : Nat) : Nat := [16, 21, 30, 39, 48].getD l 0
def levelW (l : Nat) : Nat := if l = 0 then 5 else 9
/-- The alignment of the table a non-leaf entry of level l names. -/
def childAlign (l : Nat) : Nat := if l = 1 then 256 else 4096

/-- What a walk needs to know. -/
structure WalkArg where
  die : Nat
  ctx : Nat
  tag : Nat
  va : Nat
  deriving DecidableEq, Repr

/-- The entry read from a table of level l (R203). -/
def walkEntry (a : WalkArg) (l e : Nat) : Res (Option TlbEntry) :=
  let leaf := bits e 1 1 == 1
  let adr := bits e 8 40 * 256
  let size := 2 ^ levelLo l
  if bits e 0 1 == 0 || bits e 48 16 != 0 || bits e 5 3 != 0 then .error 0x08
  else if leaf then
    if 3 ≤ l || adr % size != 0 then .error 0x08
    else .ok (some { die := a.die, ctx := a.ctx, vbase := a.va / size * size, bytes := size, pbase := adr
                     r := bits e 2 1 == 1, w := bits e 3 1 == 1, x := bits e 4 1 == 1 })
  else if l == 0 || bits e 2 3 != 0 || adr % childAlign l != 0 then .error 0x08
  else .ok none

/-- From level l − 1 down; a read that is refused or meets poison ends the walk (R203). -/
def walkGo (a : WalkArg) : Nat → State → Nat → State × Res TlbEntry
  | 0, s, _ => (s, .error 0x08)
  | l + 1, s, table =>
    match physRead s { ident := idWalker a.die, ctx := some a.ctx } a.tag
        (table + 8 * bits a.va (levelLo l) (levelW l)) 8 with
    | (s, .error c) => (s, .error c)
    | (s, .ok b) =>
      let e := ofBytes b
      match walkEntry a l e with
      | .error c => (s, .error c)
      | .ok (some t) => (s, .ok t)
      | .ok none => walkGo a l s (bits e 8 40 * 256)

/-- The walk of a context from its root (R200, R373). -/
def walk (s : State) (a : WalkArg) : State × Res TlbEntry :=
  let r := rootsEntry s a.ctx
  if bits r 0 1 == 0 then (s, .error 0x08) else walkGo a 5 s (bits r 12 36 * 4096)

/-- A kept translation of a die (R204). -/
def lookupTlb (s : State) (die ctx va : Nat) : Option TlbEntry :=
  s.tlb.find? (fun t => t.die == die && t.ctx == ctx && t.vbase ≤ va && va < t.vbase + t.bytes)

/-- Keep a translation, replacing an older one of the same page. Every translation that a walk reads is kept, and it alone is used until
a shootdown takes it away (R204). DESIGN CHOICE (notes/assumptions/28.md). -/
def keepTlb (s : State) (t : TlbEntry) : State :=
  { s with tlb := t :: s.tlb.filter (fun x => !(x.die == t.die && x.ctx == t.ctx && x.vbase == t.vbase)) }

/-- What an access needs of a leaf (R203). -/
inductive Need
  | r | w | rw | x
  deriving DecidableEq, Repr

def permCode (t : TlbEntry) : Need → Option Nat
  | .r => if t.r then none else some 0x09
  | .w => if t.w then none else some 0x0A
  | .rw => if !t.r then some 0x09 else if t.w then none else some 0x0A
  | .x => if t.x then none else some 0x0B

/-- The physical address of a virtual one, or the fault code (R200 to R204). -/
def translate (s : State) (a : WalkArg) (n : Need) : State × Res Nat :=
  if !canonical (BitVec.ofNat 64 a.va) then (s, .error 0x08)
  else
    let r : State × Res TlbEntry := match lookupTlb s a.die a.ctx a.va with
      | some t => (s, .ok t)
      | none =>
        match walk s a with
        | (s, .ok t) => (keepTlb s t, .ok t)
        | (s, .error c) => (s, .error c)
    match r with
    | (s, .error c) => (s, .error c)
    | (s, .ok t) =>
      match permCode t n with
      | some c => (s, .error c)
      | none => (s, .ok (t.pbase + (a.va - t.vbase)))

/-- The sampler's level of an access by a unit of a die (R358): of a tile resident or fetched, on the unit's die or another, in CXL
memory; 0 for what is no memory. DEDUCED (notes/assumptions/27.md). -/
def levelAt (s : State) (die pa : Nat) : Nat :=
  match locate s.part pa with
  | .slice h q => if (s.tile (q / 4096)).resident then (if h / 6 == die then 3 else 6)
    else if 0x100000000000 ≤ q then 7 else if h / 6 == die then 5 else 6
  | _ => 0

/-! ## Accesses through a context's translation -/

/-- A master that works for a context: its die, its identity, the launch its applies are charged to. -/
structure Via where
  die : Nat
  ident : Nat
  ctx : Nat
  tag : Nat
  deriving DecidableEq, Repr

def Via.walkArg (v : Via) (va : Nat) : WalkArg := { die := v.die, ctx := v.ctx, tag := v.tag, va := va % 2 ^ 64 }
def Via.master (v : Via) : Master := { ident := v.ident, ctx := some v.ctx }

/-- `n` bytes read, in pieces that do not cross a 4 KiB boundary; the first failing piece gives the code and its address. -/
def virtReadGo (v : Via) : Nat → State → Nat → Nat → State × Except (Nat × Nat) (List Byte)
  | 0, s, _, _ => (s, .ok [])
  | f + 1, s, va, n =>
    if n = 0 then (s, .ok [])
    else
      let k := min n (4096 - va % 4096)
      match translate s (v.walkArg va) .r with
      | (s, .error c) => (s, .error (c, va))
      | (s, .ok pa) =>
        match physRead s v.master v.tag pa k with
        | (s, .error c) => (s, .error (c, va))
        | (s, .ok b) =>
          match virtReadGo v f s (va + k) (n - k) with
          | (s, .error e) => (s, .error e)
          | (s, .ok r) => (s, .ok (b ++ r))

def virtRead (v : Via) (s : State) (va n : Nat) : State × Except (Nat × Nat) (List Byte) :=
  virtReadGo v (n / 4096 + 2) s va n

/-- Bytes written, in the same pieces. -/
def virtWriteGo (v : Via) : Nat → State → Nat → List Byte → State × Except (Nat × Nat) Unit
  | 0, s, _, _ => (s, .ok ())
  | f + 1, s, va, d =>
    if d.isEmpty then (s, .ok ())
    else
      let k := min d.length (4096 - va % 4096)
      match translate s (v.walkArg va) .w with
      | (s, .error c) => (s, .error (c, va))
      | (s, .ok pa) =>
        match physWrite s v.master v.tag pa (d.take k) with
        | (s, .error c) => (s, .error (c, va))
        | (s, .ok _) => virtWriteGo v f s (va + k) (d.drop k)

def virtWrite (v : Via) (s : State) (va : Nat) (d : List Byte) : State × Except (Nat × Nat) Unit :=
  virtWriteGo v (d.length / 4096 + 2) s va d

/-- Every piece of `n` bytes could be written; the walks, fetches and refusals of finding that out leave their traces, and no byte is
written (R214, R216). -/
def virtReadyGo (v : Via) : Nat → State → Nat → Nat → State × Except (Nat × Nat) Unit
  | 0, s, _, _ => (s, .ok ())
  | f + 1, s, va, n =>
    if n = 0 then (s, .ok ())
    else
      let k := min n (4096 - va % 4096)
      match translate s (v.walkArg va) .w with
      | (s, .error c) => (s, .error (c, va))
      | (s, .ok pa) =>
        match physReady s v.master v.tag pa with
        | (s, .error c) => (s, .error (c, va))
        | (s, .ok _) => virtReadyGo v f s (va + k) (n - k)

def virtReady (v : Via) (s : State) (va n : Nat) : State × Except (Nat × Nat) Unit := virtReadyGo v (n / 4096 + 2) s va n

/-- Bytes written whole, or not at all. -/
def virtStore (v : Via) (s : State) (va : Nat) (d : List Byte) : State × Except (Nat × Nat) Unit :=
  match virtReady v s va d.length with
  | (s, .error e) => (s, .error e)
  | (s, .ok _) => virtWrite v s va d

/-- The physical address of an aligned 64-bit word that a read-modify-write, which needs W, may be performed on (R317, R219). -/
def rmwReady (v : Via) (s : State) (va : Nat) : State × Except (Nat × Nat) Nat :=
  match translate s (v.walkArg va) .w with
  | (s, .error c) => (s, .error (c, va))
  | (s, .ok pa) =>
    if !permitted s v.master pa .w then (s, .error (0x0C, va))
    else
      match physReady s v.master v.tag pa with
      | (s, .error c) => (s, .error (c, va))
      | (s, .ok _) => (s, .ok pa)

/-- The 64-bit word at a physical address. -/
def physWord (s : State) (pa : Nat) : Nat :=
  match locate s.part pa with
  | .slice _ q => readLE s.mem q 8
  | _ => ofBytes (winRead s pa 8)

/-- A read-modify-write of an aligned 64-bit word that needs W (R317, R219). It is performed at the home slice and moves no contention
counter: R217 speaks of the atomics of groups. DESIGN CHOICE (notes/assumptions/27.md). -/
def virtRmw (v : Via) (s : State) (va : Nat) (f : Word → Word) : State × Except (Nat × Nat) Unit :=
  match rmwReady v s va with
  | (s, .error e) => (s, .error e)
  | (s, .ok pa) => (putPhys s pa (toBytes 8 (f (BitVec.ofNat 64 (physWord s pa))).toNat), .ok ())

/-! ## Notices and escalation records -/

/-- Escalation to Yarder 0 of a die (R379). -/
def escalate (s : State) (die : Nat) (rec_ : List Byte) : State :=
  let base := regLE s (yctlBase die + 0xC0) 8
  let lg := regLE s (yctlBase die + 0xC8) 8
  let idx := (sget 0 s.escidx die).toNat
  let at_ := sramAddr (base + 64 * (idx % 2 ^ bits lg 0 4))
  let s := (unreserve s true at_ 64).updYarder (2 * die) (fun y =>
    { y with sram := writeBytes y.sram at_ rec_, meip := y.meip || bits lg 8 1 == 1 })
  { s with escidx := sput 0 s.escidx die (BitVec.ofNat 64 (idx + 1)) }

/-- A notice before it is laid out (R323): kind, tag, status, queue BASE, bytes 24 to 63 as one number. -/
structure Notice where
  kind : Nat
  tag : Nat
  status : Nat
  base : Word
  rest : Nat
  deriving DecidableEq, Repr

def noticeBytes (s : State) (n : Notice) : List Byte :=
  toBytes 2 n.kind ++ toBytes 2 n.tag ++ toBytes 4 n.status ++ toBytes 8 n.base.toNat ++ toBytes 8 s.dtime ++ toBytes 40 n.rest

/-- The ring write of R323, record and then index, and whether it was made: neither is, when any access of it faults. -/
def ringWrite (s : State) (v : Via) (b : List Byte) : State × Bool :=
  let idxAt := ctxNridx s v.ctx
  match virtRead v s idxAt 8 with
  | (s, .error _) => (s, false)
  | (s, .ok ib) =>
    let i := ofBytes ib
    let slot := ctxNrbase s v.ctx + 64 * (i % 2 ^ (ctxNrlog s v.ctx + 4))
    match virtReady v s slot 64 with
    | (s, .error _) => (s, false)
    | (s, .ok _) =>
      match virtReady v s idxAt 8 with
      | (s, .error _) => (s, false)
      | (s, .ok _) => ((virtWrite v (virtWrite v s slot b).1 idxAt (toBytes 8 (i + 1))).1, true)

/-- A notice to a context, written by the Dealer block of `die` (R323, R324, R379). -/
def notice (s : State) (die ctx : Nat) (n : Notice) : State :=
  let b := noticeBytes s n
  let v : Via := { die := die, ident := idDealer die, ctx := ctx, tag := 0 }
  let r := if ctxNrbase s ctx == 0 then (s, false) else ringWrite s v b
  if r.2 && !(3 ≤ n.kind && n.kind ≤ 5) then r.1 else escalate r.1 die b

/-- A packet's completion signal: success decrements, failure stores the negated status (R317). A fault is reported by a
notice of kind 5. -/
def signalPacket (s : State) (die ctx tag : Nat) (sig : Word) (status : Nat) (base : Word) : State :=
  if sig == 0 then s
  else
    let v : Via := { die := die, ident := idDealer die, ctx := ctx, tag := 0 }
    match virtRmw v s sig.toNat (fun x => if status = 0 then x - 1 else BitVec.ofInt 64 (-(status : Int))) with
    | (s, .ok _) => s
    | (s, .error e) => notice s die ctx { kind := 5, tag := tag, status := e.1, base := base, rest := sig.toNat }

end Sys2Proof.Machine
end

