-- ==== Sys2Proof/Machine/Ops.lean ====
section
/-!
DEFINITION. The operations that every instruction shares: fetching (R222), NEXTPC (R144), taking a fault or an event
(R334, R335), returning from a handler (R191, R265), retirement (R47) and termination (R337).
-/

namespace Sys2Proof.Machine

/-! ## Fetching (R93, R222) -/

/-- A line of a core's instruction cache. -/
def icacheLine (c : Core) (ctx line : Nat) : Option ILine := c.icache.find? (fun x => x.ctx == ctx && x.line == line)

/-- Put a line into the cache of 512 lines (R222): any line may stand in any place, and the oldest leaves a full cache. DESIGN CHOICE
(notes/assumptions/27.md). -/
def putLine (c : Core) (x : ILine) : Core :=
  let r := c.icache.filter (fun y => !(y.ctx == x.ctx && y.line == x.line))
  { c with icache := (r ++ [x]).drop (r.length + 1 - 512) }

/-- A fill of one 128-byte line through the die's Chute (R222). -/
def fillLine (s : State) (core ctx tag line : Nat) : State × Res ILine :=
  let d := dieOf core
  match translate s { die := d, ctx := ctx, tag := tag, va := line * 128 % 2 ^ 64 } .x with
  | (s, .error c) => (s, .error c)
  | (s, .ok pa) =>
    match physReadAs none .x s { ident := idChute d, ctx := some ctx } tag pa 128 with
    | (s, .error c) => (s, .error c)
    | (s, .ok b) =>
      let x : ILine := { ctx := ctx, line := line, bytes := b }
      (s.updCore core (fun c => putLine c x), .ok x)

/-- The 16-byte unit that holds `va`, from the cache or through a fill. -/
def fetchUnit (s : State) (core ctx tag : Nat) (va : Word) : State × Res Nat :=
  if !canonical va then (s, .error 0x08)
  else
    let line := va.toNat / 128
    let at_ := va.toNat % 128 / 16 * 16
    match icacheLine (s.core core) ctx line with
    | some x => (s, .ok (ofBytes ((x.bytes.drop at_).take 16)))
    | none =>
      match fillLine s core ctx tag line with
      | (s, .error c) => (s, .error c)
      | (s, .ok x) => (s, .ok (ofBytes ((x.bytes.drop at_).take 16)))

/-! ## NEXTPC (R144) -/

/-- The loop stack after a transfer from w to T, and the next pc; the list's head is the top record. -/
def nextPcGo (w t : Word) : List LoopRec → List LoopRec × Word
  | [] => ([], t)
  | e :: r =>
    if e.kind then (e :: r, t)
    else if t == e.stop then
      if e.count - 1 != 0 then ({ e with count := e.count - 1 } :: r, e.start) else nextPcGo w t r
    else if w < e.start || e.stop ≤ w then (e :: r, t)
    else if t < e.start || e.stop ≤ t then nextPcGo w t r
    else (e :: r, t)

/-- NEXTPC would decrement a COUNT or pop a record while paths are split (R251). -/
def loopTrap (g : Group) (w t : Word) : Bool := !g.split.isEmpty && (nextPcGo w t g.loops).1 != g.loops

/-- The path's next pc is NEXTPC(w, t). -/
def goNext (s : State) (t : Word) : State :=
  let r := nextPcGo s.iss.w t (cg s).loops
  let s := updCg s (fun g => { g with loops := r.1 })
  { s with iss := { s.iss with next := .goto r.2 } }

/-- The path's next pc is `t`, without NEXTPC. -/
def goTo (s : State) (t : Word) : State := { s with iss := { s.iss with next := .goto t } }

/-- The word has ended otherwise: the path's pc is already as it should be. -/
def endWord (s : State) : State := { s with iss := { s.iss with next := .ended } }

/-! ## Retirement (R47) -/

/-- A group without a LIVE lane retires: its HELPER lanes become GONE and its slot leaves the active set, where the pending group
that has waited longest, ready or not, takes its place. DESIGN CHOICE (notes/assumptions/8.md). -/
def retireIfDead (s : State) (gid : GId) : State :=
  let g := s.group gid
  if liveMask g != 0 || groupDone g then s
  else
    let s := s.setGroup gid { g with status := .retired, gone := BitVec.allOnes 64, helper := 0, held := [], h := false }
    let s := s.updLaunch gid.tag (fun l => { l with flagsOr := l.flagsOr ||| g.flags })
    s.updCore gid.core (fun c =>
      let was := c.active.contains gid.grp
      { c with active := c.active.erase gid.grp ++ (if was then c.pending.take 1 else [])
               pending := if was then c.pending.drop 1 else c.pending.erase gid.grp })

/-! ## Waits that end by themselves (R54, R176, R179, R239, R305) -/

/-- The scope's index of a barrier for a group: level 0 group, 1 core, 2 cluster, 3 launch. -/
def barScope (gid : GId) (level : Nat) : Nat :=
  match level with
  | 0 => gkey gid
  | 1 => gid.core
  | 2 => clusterOf gid.core
  | _ => 0

/-- Completed phases of a barrier. -/
def phaseCount (s : State) (gid : GId) (level n : Nat) : Nat :=
  match (s.launch gid.tag).phases.find? (fun p => p.level == level && p.n == n && p.at_ == barScope gid level) with
  | some p => p.count
  | none => 0

/-- The counters of a `wait` are at or below their values (R179). -/
def countersDone (g : Group) (c : WaitArg) : Bool :=
  (!c.elc || g.lc ≤ c.lcv.toNat) && (!c.esc || g.sc ≤ c.scv.toNat) && (!c.ecc || g.cc ≤ c.ccv.toNat)
  && (!c.etc || g.tc ≤ c.tcv.toNat)

/-- Operations of LC and SC below number n have retired (R239). -/
def drainedBelow (g : Group) (n : Nat) : Bool := (g.loadq ++ g.storeq).all (fun o => decide (n ≤ o.id))
/-- Operations of SC below number n have retired. -/
def storesBelow (g : Group) (n : Nat) : Bool := g.storeq.all (fun o => decide (n ≤ o.id))

/-- A wait that ends by itself, once its condition holds; every other wait ends in an event of its own. -/
def waitDone (s : State) (gid : GId) (w : Wait) : Bool :=
  let g := s.group gid
  match w with
  | .counters c => countersDone g c
  | .fence n => drainedBelow g n
  | .barrier level n ph => decide (ph < phaseCount s gid level n)
  | .xwait _ n => s.boomOps.all (fun o => !(o.gid == gid) || decide (n ≤ o.id) || o.ended)
  | _ => false

/-- A child has fused into the path at the word where it stands. -/
def fusedWait (w : Wait) : Wait :=
  match w with
  | .join a _ => .join a true
  | .meldend a _ => .meldend a true
  | x => x

/-! ## Tagged words that are cut off (R357) -/

/-- A wait that a tagged word has left its path has not ended, one that a handler's entry keeps included: a counter wait, a fence, a barrier
phase, a draw, a deal, an instruction fence, a commit, another path. A draw that an event has withdrawn waits no longer. DEDUCED
(notes/assumptions/24.md). -/
def sampleWaits (s : State) (r : TagRec) : Bool :=
  let g := s.group r.gid
  let kept := match g.kept with
    | some k => if k.path == r.path then k.waits else []
    | none => []
  ((pathOf g r.path).waits ++ kept).any (fun w => r.waits.any (fun x => fusedWait x == fusedWait w) && !waitDone s r.gid w)

/-- An engine still holds an operation of a tagged word. -/
def sampleHeld (s : State) (r : TagRec) : Bool :=
  let w := s.wg r.gid.tag r.gid.core
  w.tileq.any (fun o => r.mine o.id) || w.copyq.any (fun o => r.mine o.id)
  || s.boomOps.any (fun o => o.gid == r.gid && r.mine o.id && !o.ended)

/-- An operation of a tagged word is still in a queue. -/
def sampleOpen (s : State) (r : TagRec) : Bool :=
  let g := s.group r.gid
  sampleWaits s r || (g.loadq ++ g.storeq).any (fun o => r.mine o.id) || sampleHeld s r

/-- An operation of a tagged word has not completed: an access of it stands out, or an engine still holds it. -/
def sampleRuns (s : State) (r : TagRec) : Bool :=
  let g := s.group r.gid
  sampleWaits s r || (g.loadq ++ g.storeq).any (fun o => r.mine o.id && !settled o) || sampleHeld s r

/-- A tagged word that is cut off while operations of it are open: the levels of those still queued count (R358), and the stage it stood
in, which is one that a fault cut short where a matrix operation of it had stopped at one. DEDUCED (notes/assumptions/24.md). -/
def cutTag (s : State) (r : TagRec) : TagRec :=
  let g := s.group r.gid
  if !sampleOpen s r then r
  else
    { r with
      level := ((g.loadq ++ g.storeq).filter (fun o => r.mine o.id)).foldl (fun n o => max n o.level) r.level
      fate := if (s.wg r.gid.tag r.gid.core).tileq.any (fun o => r.mine o.id && o.fault.isSome) then .faulted
        else if sampleRuns s r then .inExec else .inWb }

/-- The tagged words of a core's groups for which `p` holds are cut off. -/
def cutTags (s : State) (core : Nat) (p : GId → Bool) : State := updTags s core (fun r => if p r.gid then cutTag s r else r)

/-! ## Termination (R337) -/

/-- SOP bits 3:0 of a matrix instruction and the tile an RPR names (R291). -/
def rprOp : Instr → Nat × Nat
  | .mZero d => (0, d.toNat) | .mMma d _ _ _ _ _ => (1, d.toNat) | .mMmas d _ _ _ _ _ _ _ => (2, d.toNat)
  | .mLd d _ _ _ _ => (3, d.toNat) | .mSt d _ _ _ _ => (4, d.toNat) | .mXpose d _ => (5, d.toNat)
  | .mPerm d _ _ => (6, d.toNat) | .mRsum d _ => (7, d.toNat) | .mScale d _ _ => (8, d.toNat)
  | _ => (0, 0)

/-- The row-progress register (R291). -/
def rprOf (o : TileOp) : Word :=
  let r := rprOp o.op
  BitVec.ofNat 64 ((if o.begun then 2 ^ 63 else 0) + r.2 * 2 ^ 42 + r.1 * 2 ^ 38 + o.next % 2 ^ 16 * 2 ^ 16)

/-- The Skidder of a core, for a launch. -/
def viaSkidder (l : Launch) (c : Nat) : Via := { die := dieOf c, ident := idSkidder c, ctx := l.ctx, tag := l.tag }

/-- The engine command that makes an access: its master, core, group and number. -/
structure EngBy where
  v : Via
  core : Nat
  grp : Nat
  id : Nat
  deriving DecidableEq, Repr

def EngBy.gid (e : EngBy) : GId := { tag := e.v.tag, core := e.core, grp := e.grp }

/-- The sampler takes the levels of a run of global bytes, page by page up to the first that does not translate (R358). -/
def noteRun (e : EngBy) (need : Need) : Nat → State → Nat → Nat → State
  | 0, s, _, _ => s
  | f + 1, s, a, n =>
    if n = 0 then s
    else
      let k := min n (4096 - a % 4096)
      match translate s (e.v.walkArg a) need with
      | (s, .error _) => s
      | (s, .ok pa) => noteRun e need f (noteLevel s e.gid e.id (levelAt s e.v.die pa)) (a + k) (n - k)

/-- The sampler takes the level of an engine command's access to its signal, whether the command has succeeded or failed (R358). -/
def noteSignal (e : EngBy) (s : State) (a : Word) : State := noteRun e .w 1 s a.toNat 8

/-- The accesses of a copy-queue command. -/
def bySkidder (l : Launch) (c : Nat) (o : CopyOp) : EngBy := { v := viaSkidder l c, core := c, grp := o.grp, id := o.id }

/-- A copy's completion signal takes a negated code (R219, R295). -/
def copyFailSignal (s : State) (l : Launch) (c : Nat) (o : CopyOp) (code : Nat) : State :=
  if o.ckind == 2 && !o.suppressed then
    (virtRmw (viaSkidder l c) (noteSignal (bySkidder l c o) s o.caddr) o.caddr.toNat (fun _ => BitVec.ofInt 64 (-(code : Int)))).1
  else s

/-- The range locks of commands are freed, on every core of the launch: a `c.send` holds one at its receiver (R220, R298). -/
def freeLocks (s : State) (tag : Nat) (ids : List Nat) : State :=
  (s.launch tag).cores.foldl (fun s c =>
    s.updWg tag c (fun w => { w with locks := w.locks.filter (fun k => !ids.contains k.id) })) s

/-- WHERE of a matrix operation that is abandoned: the address of the access that stopped it, 0 without one (R338). -/
def tileWhere (o : TileOp) : Word :=
  match o.fault with
  | some f => f.2
  | none => 0

/-- Abandon the engine commands of a workgroup for which `p` holds of the issuer; each leaves an entry of the
partial-work table, its locks are freed and it completes for its counter (R295, R337, R338). -/
def abandonEngines (s : State) (l : Launch) (c code : Nat) (signals : Bool) (p : Nat → Bool) : State :=
  let w := s.wg l.tag c
  let ts := w.tileq.filter (fun o => p o.grp)
  let cs := w.copyq.filter (fun o => p o.grp)
  let ids := ts.map (fun o => o.id) ++ cs.map (fun o => o.id)
  let s := s.updWg l.tag c (fun w => { w with tileq := w.tileq.filter (fun o => !p o.grp), copyq := w.copyq.filter (fun o => !p o.grp) })
  let s := freeLocks s l.tag ids
  let s := if signals then cs.foldl (fun s o => copyFailSignal s l c o code) s else s
  let s := ts.foldl (fun s o =>
    let gid : GId := { tag := l.tag, core := c, grp := o.grp }
    raiseFor (s.updGroup gid (fun g => { g with tc := g.tc - 1 })) gid o.flags.toNat) s
  let s := cs.foldl (fun s o => s.updGroup { tag := l.tag, core := c, grp := o.grp } (fun g => { g with cc := g.cc - 1 })) s
  let es : List PwEntry :=
    (ts.filter (fun o => !o.idle)).map (fun o => { kind := 4, grp := o.grp, core := c, word := o.word, done := rprOf o, where_ := tileWhere o })
    ++ (cs.filter (fun o => !o.suppressed)).map (fun o => { kind := 3, grp := o.grp, core := c, word := o.word, done := BitVec.ofNat 64 o.bytes, where_ := 0 })
  s.updLaunch l.tag (fun l => { l with pwt := l.pwt ++ es })

/-- The uncompleted Boom operations of a launch fail with `code`, those matched with them on every other rank too, a
failure message goes to every other rank, and the partial-work table takes an entry (R305, R337, R338, R386). -/
def failBoom (s : State) (sel : BoomOp → Bool) (code : Nat) : State :=
  let hit := s.boomOps.filter (fun o => sel o && !o.ended && o.status == none)
  let keys := hit.map (fun o => (o.coll, o.k))
  let pwt := fun (s : State) (o : BoomOp) =>
    let e : PwEntry := { kind := 6, grp := o.gid.grp, core := o.gid.core, word := o.word, done := 0, where_ := 0 }
    s.updLaunch o.gid.tag (fun l => { l with pwt := l.pwt ++ [e] })
  let s := hit.foldl pwt s
  let ops := s.boomOps.map (fun o =>
    if keys.contains (o.coll, o.k) && !o.ended && o.status == none then { o with status := some code } else o)
  hit.foldl (fun s o => boomPost s o.ranks (boomTell o 5 code)) { s with boomOps := ops }

/-- A group enters HALTED (R333, R352): an open region aborts, DBGSTAT keeps the tag. `x` is the word it resumes at, `byHalt` says that
`halt` has stopped it (R193). -/
def haltGroup (s : State) (gid : GId) (x : Skip) (byHalt : Bool) : State :=
  let s := abortRegion s gid 8 0
  let s := s.updGroup gid (fun g =>
    { g with status := .halted, haltReq := false, stepReq := false, byHalt := byHalt, skip := g.skip.filter (fun y => y.path != x.path) ++ [x] })
  let s := putReg s (dbgBase (s.launch gid.tag).ctx + 0x12) 2 gid.tag
  freezeBoom s gid true

/-- Stop one group for good; an open region aborts first (R243). -/
def stopGroup (s : State) (gid : GId) : State :=
  let s := abortRegion s gid 8 0
  let g := s.group gid
  if groupDone g then s
  else
    let s := s.setGroup gid { g with status := .stopped }
    s.updLaunch gid.tag (fun l => { l with flagsOr := l.flagsOr ||| g.flags })

/-- A launch is terminated with a status; the first termination stands. `first` is FIRST of R338. -/
def terminate (s : State) (tag status : Nat) (cause : Option GId) (first : Nat) : State :=
  let l := s.launch tag
  if l.tag == 0 || l.status != none || l.state == .completing then s
  else
    let xpc := match cause with
      | some g => (s.group g).xpc
      | none => 0
    let s := s.updLaunch tag (fun l =>
      { l with state := .completing, status := some status, cause := cause, first := first, xpc := xpc, reserved := [], stopped := [] })
    let s := l.cores.foldl (fun s c => cutTags s c (fun g => g.tag == tag)) s
    let s := (launchGroups l).foldl stopGroup s
    let s := l.cores.foldl (fun s c => abandonEngines s l c status true (fun _ => true)) s
    failBoom s (fun o => o.gid.tag == tag) 0x3F

/-! ## Taking a fault or an event -/

/-- A fault of class D or I as it is taken (R111, R187). -/
structure Trap where
  code : Nat
  arg : Nat
  vs : Bool
  mask : Word
  face : Word
  addr : Word
  xpc : Word
  deriving DecidableEq, Repr

/-- The fault registers (R187, R334). -/
def setFault (g : Group) (t : Trap) : Group :=
  { g with xpc := t.xpc, xcode := BitVec.ofNat 64 (t.arg % 65536 * 65536 + (if t.vs then 256 else 0) + t.code % 256)
           faultmask := t.mask, faultface := t.face, faultaddr := t.addr }

/-- HANDLER ENTRY (R334) of path `k`: the fault registers are written, H is set, the path goes to the handler, and what
`rett` restores is kept, an unfinished wait included. A handler whose first word cannot be fetched ends the launch with
status 0x30. -/
def enterHandler (s : State) (gid : GId) (k : Nat) (t : Trap) (handler : Word) (keep : List Wait) : State :=
  let s := abortRegion s gid 8 0
  let l := s.launch gid.tag
  let s := s.updGroup gid (fun g =>
    let p := pathOf g k
    let g := setFault g t
    let kept : Kept := { path := k, mask := p.mask, fmt := p.fmt, nsplit := g.split.length, nface := g.face.length
                         nloop := g.loops.length, waits := keep, bound := if p.bound then some p.pc else none
                         excl := if p.excl == 0 then none else some (p.pc, p.excl), code := t.code }
    let g := { g with h := true, kept := some kept }
    putPath g k { p with pc := handler, waits := [], excl := 0, bound := false })
  match fetchUnit s gid.core l.ctx gid.tag handler with
  | (s, .ok _) => s
  | (s, .error _) => terminate s gid.tag 0x30 (some gid) t.code

/-- TAKING A FAULT of class D or I in the word being executed: a member of an open region aborts it (R243); a fault
while H = 1 ends the launch (R335); otherwise the handler is entered, or the launch is terminated (R332, R334). -/
def takeTrap (s : State) (t : Trap) : State :=
  let gid := s.iss.gid
  let g := cg s
  let l := s.launch gid.tag
  let inRegion := match g.region with
    | some r => r.members.contains s.iss.path
    | none => false
  if inRegion then endWord (abortRegion s gid 7 (BitVec.ofNat 8 t.code))
  else if g.h then
    let first := match g.kept with
      | some k => k.code
      | none => 0
    endWord (terminate (s.setGroup gid (setFault g t)) gid.tag t.code (some gid) first)
  else
    match l.handler with
    | some ha => endWord (enterHandler (updPath s (fun p => { p with excl := 0 })) gid s.iss.path t ha (cp s).waits)
    | none => endWord (terminate (s.setGroup gid (setFault g t)) gid.tag t.code (some gid) 0)

/-- The trap of a word-level fault: FAULTMASK is the path's active mask, FAULTADDR 0, XPC the word (R111). -/
def wordTrap (s : State) (code : Nat) (vs : Bool) : Trap :=
  { code := code, arg := 0, vs := vs, mask := s.iss.mask, face := 0, addr := 0, xpc := s.iss.w }

/-- What a word's checks answer: go on; a fault; the word waits at issue; or an elided region aborts (R111, R119, R243). -/
inductive Chk
  | pass
  | trap (t : Trap)
  | wait
  | abort (cause : BitVec 4) (code : Byte)
  deriving DecidableEq, Repr

/-- Hold an event or a class A fault for a group until it is delivered (R335). A retired group's class A fault ends the
launch. -/
def holdEvent (s : State) (gid : GId) (e : HeldEv) : State :=
  let g := s.group gid
  if g.status == .retired then
    if e.code == 0x20 || e.code == 0x21 || e.code == 0x29 then s else terminate s gid.tag e.code (some gid) 0
  else if g.status == .stopped then s
  else s.setGroup gid { g with held := g.held ++ [e] }

/-! ## Returning from a handler (R191, R265) -/

/-- The matrix operation that stopped at the fault now handled resumes (R336). -/
def resumeTiles (s : State) (gid : GId) (code : Nat) (addr : Word) : State :=
  s.updWg gid.tag gid.core (fun w =>
    { w with tileq := w.tileq.map (fun o =>
        if o.grp == gid.grp && o.fault == some (code, addr) then { o with fault := none } else o) })

/-- `rett.excl` skips the word at XPC: FAULTMASK covers the whole mask that comes back, which lacks the lanes that have become
GONE in the handler (R191, R264). -/
def rettSkips (g : Group) (k : Kept) (mode : Nat) : Bool := mode == 1 && (k.mask &&& ~~~g.gone &&& ~~~g.faultmask == 0)

/-- The lanes that the word at `w` still lacks by an earlier `rett.excl` (R191). -/
def keptExcl (k : Kept) (w : Word) : Word :=
  match k.excl with
  | some x => if x.1 == w then x.2 else 0
  | none => 0

/-- RETURN: H is cleared, the kept path state is restored, less the lanes that have become GONE since (R264), and the faulting path
resumes at the word at XPC. `mode` 1 removes the lanes of FAULTMASK for that word only, 2 makes them GONE; lanes that an earlier `rett.excl`
has removed from that word, which an event came before, stay removed. -/
def returnFrom (s : State) (gid : GId) (k : Kept) (mode : Nat) : State :=
  let g := s.group gid
  let f := g.faultmask
  let p := pathOf g k.path
  let skip := rettSkips g k mode
  let r := if skip then nextPcGo g.xpc (afterUnit g.xpc) g.loops else (g.loops, g.xpc)
  let g := { g with h := false, kept := none, loops := r.1 }
  let g := putPath g k.path
    { p with mask := k.mask &&& ~~~g.gone, fmt := k.fmt, pc := r.2, waits := k.waits
             excl := (if mode == 1 && !skip then f else 0) ||| keptExcl k r.2
             bound := k.bound == some r.2 }
  let g := if mode == 2 then
      let root := { g.root with mask := g.root.mask &&& ~~~f }
      let g := { g with gone := g.gone ||| f, helper := g.helper &&& ~~~f, root := root }
      { g with split := g.split.map (fun x => (x.1, { x.2 with mask := x.2.mask &&& ~~~f })) }
    else g
  retireIfDead (resumeTiles (s.setGroup gid g) gid k.code g.faultaddr) gid

end Sys2Proof.Machine
end

