-- ==== Sys2Proof/Machine/Operands.lean ====
section
/-!
DEFINITION. The operand forms of the vector slot: the effective mask (R103, R147), the faces of VT (R149), U = 1 (R99),
values of other threads (R150), and the per-lane execution that every vector instruction shares.
-/

namespace Sys2Proof.Machine

/-- The lanes a face qualifier leaves (R59, R256). -/
def fqMask (g : Group) (fq : FQ) : Word :=
  match fq with
  | .both => BitVec.allOnes 64
  | .fa => ~~~faceBMask g
  | .fb => faceBMask g

/-- The effective mask E (R103, R147), without the lanes that `rett.excl` removed for this word (R191). -/
def effMask (s : State) (m : MReg) (fq : FQ) : Word :=
  s.iss.mask &&& ~~~(cp s).excl &&& readM (cg s) m &&& fqMask (cg s) fq

/-- The lowest lane of a mask, 0 for an empty one. -/
def lowest (m : Word) : Nat := (lanesOf m).headD 0

/-- The lanes that an instruction of rows 0x00 to 0x05 writes: E, or with U = 1 every thread of the active mask (R99); none where E is empty
(R147). DEDUCED (notes/assumptions/26.md). -/
def writeMask (s : State) (m : MReg) (fq : FQ) : Word :=
  let e := effMask s m fq
  if s.iss.uniform && e != 0 then s.iss.mask &&& ~~~(cp s).excl else e

/-- The thread whose sources lane t's result comes from: the lane itself, or with U = 1 the lowest lane of the active
mask (R99). -/
def srcLane (s : State) (t : Nat) : Nat := if s.iss.uniform then lowest s.iss.mask else t

end Sys2Proof.Machine

namespace Sys2Proof

open Sys2Proof.Machine

/-- The face qualifier and registers of each form; a VT operation uses each lane's own face (R149). -/
def VUn.fq : VUn → FQ
  | .vr q _ _ => q
  | .vt _ _ _ _ => .both
def VUn.dst (g : Group) (t : Nat) : VUn → VReg
  | .vr _ d _ => d
  | .vt dA dB _ _ => if faceB g t then dB else dA
def VUn.srcA (g : Group) (t : Nat) : VUn → VReg
  | .vr _ _ a => a
  | .vt _ _ aA aB => if faceB g t then aB else aA

def VBin.fq : VBin → FQ
  | .vr q _ _ _ => q
  | .vt _ _ _ _ _ _ => .both
def VBin.dst (g : Group) (t : Nat) : VBin → VReg
  | .vr _ d _ _ => d
  | .vt dA dB _ _ _ _ => if faceB g t then dB else dA
def VBin.srcA (g : Group) (t : Nat) : VBin → VReg
  | .vr _ _ a _ => a
  | .vt _ _ aA aB _ _ => if faceB g t then aB else aA
def VBin.srcB (g : Group) (t : Nat) : VBin → VReg
  | .vr _ _ _ b => b
  | .vt _ _ _ _ bA bB => if faceB g t then bB else bA

def VTer.fq : VTer → FQ
  | .vr q _ _ _ _ => q
  | .vt _ _ _ _ _ _ => .both
def VTer.dst (g : Group) (t : Nat) : VTer → VReg
  | .vr _ d _ _ _ => d
  | .vt dA dB _ _ _ _ => if faceB g t then dB else dA
def VTer.srcA (g : Group) (t : Nat) : VTer → VReg
  | .vr _ _ a _ _ => a
  | .vt _ _ aA aB _ _ => if faceB g t then aB else aA
def VTer.srcB (g : Group) (t : Nat) : VTer → VReg
  | .vr _ _ _ b _ => b
  | .vt _ _ _ _ bA bB => if faceB g t then bB else bA
/-- The addend: vc, or in VT the destination of the lane's own face (R149). -/
def VTer.srcC (g : Group) (t : Nat) : VTer → VReg
  | .vr _ _ _ _ c => c
  | .vt dA dB _ _ _ _ => if faceB g t then dB else dA

end Sys2Proof

namespace Sys2Proof.Machine

/-- LANEVAL (R150). -/
def laneVal (g : Group) (j : Int) (r : VReg) (t : Nat) : Lane :=
  if j < 0 || 63 < j then readV g r t else if bit g.gone j.toNat then 0 else readV g r j.toNat

/-- Write a value per lane of a list. -/
def writeLanes (g : Group) (dst : Nat → VReg) (rs : List (Nat × Lane)) : Group :=
  rs.foldl (fun g r => writeV g (dst r.1) r.1 r.2) g

/-- Run `f` in every lane written: all sources are read before any lane writes (R35, R147); the flags are the OR over the
lanes (R81), or with U = 1 those of the one computation (R99). `f` gets the group before the instruction and the
source lane. -/
def perLane (s : State) (m : MReg) (fq : FQ) (dst : Group → Nat → VReg) (f : Group → Nat → Lane × Nat) : State :=
  let g := cg s
  let ls := lanesOf (writeMask s m fq)
  let rs := ls.map (fun t => (t, f g (srcLane s t)))
  let fl := flagsOf (rs.map (fun r => r.2))
  updCg s (fun g' => orFlags (writeLanes g' (dst g) (rs.map (fun r => (r.1, r.2.1)))) fl)

/-- One source. -/
def vecUn (s : State) (m : MReg) (o : VUn) (f : Nat → Lane × Nat) : State :=
  perLane s m o.fq (fun g t => o.dst g t) (fun g t => f (readV g (o.srcA g t) t).toNat)

/-- Two sources. -/
def vecBin (s : State) (m : MReg) (o : VBin) (f : Nat → Nat → Lane × Nat) : State :=
  perLane s m o.fq (fun g t => o.dst g t)
    (fun g t => f (readV g (o.srcA g t) t).toNat (readV g (o.srcB g t) t).toNat)

/-- Three sources. -/
def vecTer (s : State) (m : MReg) (o : VTer) (f : Nat → Nat → Nat → Lane × Nat) : State :=
  perLane s m o.fq (fun g t => o.dst g t)
    (fun g t => f (readV g (o.srcA g t) t).toNat (readV g (o.srcB g t) t).toNat (readV g (o.srcC g t) t).toNat)

/-- The immediate of the VI form under a type: sign-extended for `.i`, zero-extended otherwise (R104, R152). -/
def immVal (t : Ty) (i : BitVec 16) : Nat := if t.signed then (i.signExtend 32).toNat else i.toNat

/-- VI. -/
def vecImm (s : State) (m : MReg) (o : VImm) (t : Ty) (f : Nat → Nat → Lane × Nat) : State :=
  perLane s m o.fq (fun _ _ => o.vd) (fun g l => f (readV g o.va l).toNat (immVal t o.imm))

/-- Replace the bits of the lanes in `e` of a mask. -/
def mergeMask (old e new : Word) : Word := (old &&& ~~~e) ||| (new &&& e)

/-- A compare writes mD: bit t for each lane written (R99, R155). -/
def vecCmp (s : State) (m : MReg) (fq : FQ) (k : MReg) (f : Group → Nat → Bool × Nat) : State :=
  let g := cg s
  let e := writeMask s m fq
  let rs := (lanesOf e).map (fun t => (t, f g (srcLane s t)))
  let v := maskOf (fun t => rs.any (fun r => r.1 == t && r.2.1))
  let fl := flagsOf (rs.map (fun r => r.2))
  updCg s (fun g' => orFlags (writeM g' k (mergeMask (readM g' k) e v)) fl)

/-! ## Scalar operands -/

/-- Whether a condition holds of two numbers (R23, R130). -/
def condHolds (c : Cond) (x y : Int) : Bool :=
  match c with
  | .eq => x == y
  | .ne => x != y
  | .lt => decide (x < y)
  | .le => decide (x ≤ y)
  | .gt => decide (y < x)
  | .ge => decide (y ≤ x)

/-- COMPARE (R130): the low bits of the width, extended as Z says. -/
def compare (c : CmpCode) (a b : Word) : Bool :=
  let w := 8 * 2 ^ c.wid.toNat
  let x := bits a.toNat 0 w
  let y := bits b.toNat 0 w
  if c.z then condHolds c.cond x y else condHolds c.cond (signedBits w x) (signedBits w y)

/-- A shift count (R128). -/
def cntVal (s : State) : Cnt → Nat
  | .reg b => (rs s b).toNat % 64
  | .imm n => n.toNat

/-- imm32 sign-extended (R127). -/
def sext32 (i : BitVec 32) : Word := i.signExtend 64

/-- A scalar instruction with two register sources: s[sd] takes f of them (R123). -/
def scal2 (s : State) (d a b : SReg) (f : Word → Word → Word) : State := ws s d (f (rs s a) (rs s b))
/-- With one source. -/
def scal1 (s : State) (d a : SReg) (f : Word → Word) : State := ws s d (f (rs s a))

end Sys2Proof.Machine
end

