-- ==== Sys2Proof/Machine/Issue.lean ====
section
/-!
DEFINITION. The checks that every word makes (R108, R111, R115, R118 to R121): what an instruction reads and writes, the
decoding checks that need the group, the general issue checks, and `gate`, which runs a meaning when the checks
pass. A word executed by `step` has passed the checks of both its slots first (`Machine/Checks.lean`).
-/

namespace Sys2Proof.Machine

/-! ## What an instruction names -/

/-- The three registers of a descriptor (R29). -/
def descRegs (a : SReg) : List SReg := [a, a + 1, a + 2]
def cntRegs : Cnt → List SReg
  | .reg b => [b]
  | .imm _ => []

/-- Scalar registers of a memory instruction: the base, the data register when D = 1 (two for `st.pair`, R236), and the
comparand of `atom.cas` (R232). -/
def memSRegs (o : MOp) : List SReg :=
  let d : SReg := BitVec.ofNat 6 o.data.toNat
  o.base :: (if o.d then (if o.p && o.am == 0 && o.acc == 3 then [d, d + 1] else [d]) else [])

/-- Vector registers of a memory instruction: the data register when D = 0 and the index of AM 0b01. -/
def memVRegs (o : MOp) : List VReg :=
  (if o.d then [] else [o.data]) ++ (if o.am == 1 then [BitVec.ofNat 7 (o.off.toNat / 128)] else [])

/-- Scalar registers that an instruction reads or writes (R118). -/
def sRegs : Instr → List SReg
  | .sAdd d a b | .sSub d a b | .sMul d a b | .sMulh d a b | .sMulhz d a b | .sDiv d a b | .sDivz d a b | .sRem d a b
  | .sRemz d a b | .sAnd d a b | .sOr d a b | .sXor d a b | .sMin d a b | .sMax d a b | .sMinz d a b | .sMaxz d a b => [d, a, b]
  | .sAddi d a _ | .sAndi d a _ | .sOri d a _ | .sXori d a _ | .sNot d a | .sClz d a | .sPopc d a => [d, a]
  | .sShl d a n | .sShr d a n | .sSra d a n | .sRot d a n => [d, a] ++ cntRegs n
  | .sBfx d a _ _ _ | .sBfi d a _ _ => [d, a]
  | .sSel d a b c => [d, a, b, c]
  | .sCmp d a b _ => [d, a, b]
  | .sMovi d _ | .sLea d _ | .sGetfmt d | .sGetsr d _ | .sSys d _ | .sBudget d _ => [d]
  | .sMovhi d a _ => [d, a]
  | .sSetfmtReg a | .jmp a _ | .ret a | .sSetsr _ a => [a]
  | .sGset _ a b _ | .bcc a b _ _ | .brx a b _ | .ifence a b => [a, b]
  | .call _ _ => [62]
  | .callx _ a => [62, a]
  | .loopS d _ => [d]
  | .gLd _ a b _ _ _ _ => [a, b]
  | .draw n _ | .deal n => [n, n + 1, n + 2, n + 3]
  | .mMma _ a b k _ _ => descRegs a ++ descRegs b ++ [k]
  | .mMmas _ a b k _ _ i _ => descRegs a ++ descRegs b ++ [k, i]
  | .mLd _ a _ _ _ | .mSt _ a _ _ _ => descRegs a
  | .mPerm _ _ p => [p]
  | .cCopy d a b _ _ _ | .cCopyt d a b _ _ _ _ => [d, a, b]
  | .cFill d a _ _ => [d, a]
  | .cSend d a b _ _ _ t => [d, a, b, t]
  | .cSig a | .xAllred a _ _ _ | .xAllmax a _ | .xBcast a _ | .xGather a _ => [a]
  | .xWait d => [d]
  | .vMovs _ _ _ s _ => [s]
  | .ld o | .st o | .ldv o | .stv o | .lds o | .sts o | .ldsv o | .stsv o | .rdc o | .tlogFlush o | .tlogLen o
  | .waitw o | .pf o | .ipf o | .elide o => memSRegs { o with acc := 0 }
  | .stLog o => memSRegs o
  | .atomAdd o | .atomMin o | .atomMax o | .atomAnd o | .atomOr o | .atomXor o | .atomXchg o
  | .redAdd o | .redMin o | .redMax o | .redAnd o | .redOr o | .redXor o | .redFadd o | .redFaddc o => memSRegs { o with acc := 0 }
  | .atomCas o => memSRegs { o with acc := 0 } ++ (if o.d then [BitVec.ofNat 6 o.off.toNat] else [])
  | _ => []

def unRegs : VUn → List VReg
  | .vr _ d a => [d, a]
  | .vt a b c d => [a, b, c, d]
def binRegs : VBin → List VReg
  | .vr _ d a b => [d, a, b]
  | .vt a b c d e f => [a, b, c, d, e, f]
def terRegs : VTer → List VReg
  | .vr _ d a b c => [d, a, b, c]
  | .vt a b c d e f => [a, b, c, d, e, f]
def shRegs : ShSrc → List VReg
  | .reg b => [b]
  | .imm _ => []

/-- Vector registers that an instruction names (R108, R118). -/
def vRegs : Instr → List VReg
  | .vAdd _ o _ | .vSub _ o _ | .vMul _ o _ | .vMulhi _ o _ | .vMin _ o _ | .vMax _ o _ | .vAnd _ o _ | .vOr _ o _
  | .vXor _ o _ | .vShl _ o _ | .vShr _ o _ | .vSra _ o _ => binRegs o
  | .vFadd _ o _ | .vFsub _ o _ | .vFmul _ o _ | .vFmin _ o _ | .vFmax _ o _ => binRegs o
  | .vMad _ o _ | .vFma _ o _ => terRegs o
  | .vAbs _ o _ | .vNeg _ o _ | .vNot _ o _ | .vClz _ o _ | .vPopc _ o _ => unRegs o
  | .vRcp _ o _ | .vRsqrt _ o _ | .vSqrt _ o _ | .vExp2 _ o _ | .vLog2 _ o _ | .vSinpi _ o _ | .vCospi _ o _ => unRegs o
  | .vMov _ o => unRegs o
  | .vAddImm _ o _ | .vSubImm _ o _ | .vMulImm _ o _ | .vMinImm _ o _ | .vMaxImm _ o _ | .vAndImm _ o _ | .vOrImm _ o _
  | .vXorImm _ o _ | .vShlImm _ o _ | .vShrImm _ o _ | .vSraImm _ o _ => [o.vd, o.va]
  | .vBfx _ _ d a _ _ _ => [d, a]
  | .vSel _ _ d a b _ => [d, a, b]
  | .vMovi _ _ d _ _ | .vMovs _ _ d _ _ | .vLane _ _ d _ | .kPopc _ _ d _ => [d]
  | .vCmpEq _ _ _ a b _ | .vCmpNe _ _ _ a b _ | .vCmpLt _ _ _ a b _ | .vCmpLe _ _ _ a b _ | .vCmpGt _ _ _ a b _
  | .vCmpGe _ _ _ a b _ => [a, b]
  | .vFcmpEq _ _ _ a b _ | .vFcmpNe _ _ _ a b _ | .vFcmpLt _ _ _ a b _ | .vFcmpLe _ _ _ a b _ | .vFcmpGt _ _ _ a b _
  | .vFcmpGe _ _ _ a b _ => [a, b]
  | .vCmpEqImm _ _ _ a _ _ | .vCmpNeImm _ _ _ a _ _ | .vCmpLtImm _ _ _ a _ _ | .vCmpLeImm _ _ _ a _ _
  | .vCmpGtImm _ _ _ a _ _ | .vCmpGeImm _ _ _ a _ _ => [a]
  | .vFclass _ _ d a _ | .vCvt _ _ d a _ _ | .vUnpack _ _ d a _ _ => [d, a]
  | .vTwosum _ _ d a b c => [d, a, b, c]
  | .vPack _ _ d a b _ => [d, a, b]
  | .vQpack _ _ d a c _ => [d, a, c]
  | .vQunpack _ _ d a b _ => [d, a, b]
  | .vShfl _ _ d a s _ | .vBcast _ _ d a s => [d, a] ++ shRegs s
  | .vRedx _ _ d a _ _ | .vScan _ _ d a _ _ _ => [d, a]
  | .vBallot _ _ _ a _ => [a]
  | .mScale _ _ v => [v]
  | .ld o | .st o | .ldv o | .stv o | .lds o | .sts o | .ldsv o | .stsv o | .rdc o | .stLog o
  | .atomAdd o | .atomMin o | .atomMax o | .atomAnd o | .atomOr o | .atomXor o | .atomXchg o
  | .redAdd o | .redMin o | .redMax o | .redAnd o | .redOr o | .redXor o | .redFadd o | .redFaddc o => memVRegs o
  | .atomCas o => memVRegs o ++ (if o.d then [] else [BitVec.ofNat 7 o.off.toNat])
  | .loopv v _ => [v]
  | _ => []

/-- The counter an instruction counts under (R116). -/
inductive Cls
  | lc | sc | cc | tc
  deriving DecidableEq, Repr

def clsOf : Instr → Option Cls
  | .ld _ | .ldv _ | .lds _ | .ldsv _ | .rdc _ | .tlogLen _ | .gLd _ _ _ _ _ _ _
  | .atomAdd _ | .atomMin _ | .atomMax _ | .atomAnd _ | .atomOr _ | .atomXor _ | .atomXchg _ | .atomCas _ => some .lc
  | .st _ | .stv _ | .sts _ | .stsv _ | .stLog _ | .tlogFlush _
  | .redAdd _ | .redMin _ | .redMax _ | .redAnd _ | .redOr _ | .redXor _ | .redFadd _ | .redFaddc _ => some .sc
  | .cCopy _ _ _ _ _ _ | .cCopyt _ _ _ _ _ _ _ | .cFill _ _ _ _ | .cSend _ _ _ _ _ _ _ | .cSig _ => some .cc
  | .mZero _ | .mMma _ _ _ _ _ _ | .mMmas _ _ _ _ _ _ _ _ | .mLd _ _ _ _ _ | .mSt _ _ _ _ _ | .mXpose _ _
  | .mPerm _ _ _ | .mRsum _ _ | .mScale _ _ _ => some .tc
  | _ => none

/-- Engine commands (R65): every c.*, m.* and x.* except x.wait. -/
def isEngine (i : Instr) : Bool :=
  match clsOf i with
  | some .cc | some .tc => true
  | _ =>
    match i with
    | .xAllred _ _ _ _ | .xAllmax _ _ | .xBcast _ _ | .xGather _ _ => true
    | _ => false

/-- Whether the instruction stands in the vector slot (the VS bit of a fault). -/
def inVectorSlot (i : Instr) : Bool := (encodeVector i).isSome

/-! ## Decoding checks that need the group (R108, R115, R189, R193) -/

/-- The system registers that `s.setsr` may write (R187). -/
def srWritable (h : Bool) (n : BitVec 8) : Bool :=
  n == 0x08 || n == 0x09 || (h && (n == 0x00 || n == 0x02))

/-- A decoding fault that depends on the group: its code. -/
def ctxCode (i : Instr) (s : State) : Option Nat :=
  let l := s.launch s.iss.gid.tag
  let g := cg s
  if (vRegs i).any (fun r => decide (l.vregs ≤ r.toNat)) then some 0x03
  else if (aRegs i).any (fun r => decide (accTiles l ≤ r.toNat)) then some 0x03
  else
    match i with
    | .mMmas _ _ _ _ _ _ _ _ => if s.part.sparse then none else some 0x04
    | .cCopyt _ _ _ _ _ _ _ => if s.part.xpose then none else some 0x04
    | .xAllred _ _ _ _ | .xAllmax _ _ | .xBcast _ _ | .xGather _ _ | .xWait _ => if s.part.boom then none else some 0x04
    | .halt => if g.svc then none else some 0x05
    | .sSetsr n _ => if srWritable g.h n then none else some 0x05
    | _ => none

/-! ## General issue checks (R118 to R121) -/

/-- Scalar and vector registers that uncompleted operations of class LC write (R118). An operation without accesses has
completed. -/
def pendS (g : Group) : List SReg :=
  g.loadq.filterMap (fun o => match o.dest with
    | .sreg d => if o.accs.isEmpty then none else some d
    | _ => none)
def pendV (g : Group) : List VReg :=
  g.loadq.filterMap (fun o => match o.dest with
    | .vreg d => if o.accs.isEmpty then none else some d
    | _ => none)
/-- Guard slots that await an asynchronous resolution (R64): those of uncompleted loads, and those of the draws that wait for a
coordinate. DEDUCED (notes/assumptions/10.md). -/
def pendG (g : Group) : List GReg :=
  g.loadq.filterMap (fun o => match o.dest with
    | .guard k _ _ => some k
    | _ => none)
  ++ (pathKeys g).flatMap (fun p => (pathOf g p).waits.filterMap (fun w => match w with
    | .draw _ k _ _ => some k
    | _ => none))

/-- Registers of `loopv.end`: the count register of the top record, when that is a `loopv`'s (R263). -/
def loopEndRegs (g : Group) : Instr → List VReg
  | .loopvEnd => ((g.loops.take 1).filter (fun r => r.kind)).map (fun r => r.regn)
  | _ => []

/-- `ret` starts the face B run of the call record on top (R260). -/
def startsFaceB (g : Group) (v : Word) : Bool :=
  v &&& 15 == 1 && (match topCall g with
    | some r => r.facea &&& ~~~g.gone != 0
    | none => false)

/-- The register that `ret` writes when it starts a face B run (R260). -/
def retRegs (g : Group) : Instr → List SReg
  | .ret a => if startsFaceB g (readS g a) then [62] else []
  | _ => []

def counterOf (g : Group) : Cls → Nat
  | .lc => g.lc | .sc => g.sc | .cc => g.cc | .tc => g.tc
def depthOf (l : Launch) : Cls → Nat
  | .lc => l.lq | .sc => l.sq | .cc => l.cq | .tc => l.tq

/-- The issuing path is a member of an open region (R241). -/
def inRegion (s : State) : Bool :=
  match (cg s).region with
  | some r => r.members.contains s.iss.path
  | none => false

/-- The general issue checks of one slot; `more` is how far the other slot has raised the same counter (R111 stage 1). -/
def generalCode (i : Instr) (s : State) (more : Nat) : Option Nat :=
  let g := cg s
  let l := s.launch s.iss.gid.tag
  if (sRegs i ++ retRegs g i).any (fun r => (pendS g).contains r)
      || (vRegs i ++ loopEndRegs g i).any (fun r => (pendV g).contains r) then some 0x10
  else
    let deep := match clsOf i with
      | some c => decide (depthOf l c < counterOf g c + more + 1)
      | none => false
    if deep then some 0x11
    else
      let busy := ((s.wg s.iss.gid.tag s.iss.gid.core).tileq.filter (fun o => !o.idle)).flatMap (fun (o : TileOp) => aRegs o.op)
      if (aRegs i).any (fun r => busy.contains r) then some 0x17 else none

/-- What waits at issue without trapping, apart from range locks (R64, R119). -/
def waitsAtIssue (i : Instr) (s : State) : Bool :=
  let g := cg s
  let w := s.wg s.iss.gid.tag s.iss.gid.core
  let slot := match ownSlot i with
    | some k => (pendG g).contains k
    | none => false
  slot || (match clsOf i with
    | some .cc => decide (16 ≤ w.copyq.length)
    | some .tc => decide (8 ≤ w.tileq.length)
    | _ => false)

/-- What a member may not issue in an open region: the CAUSE of the abort (R243). -/
def regionCause (i : Instr) (s : State) : Option (BitVec 4) :=
  if !inRegion s then none
  else if isEngine i then some 4
  else
    match i with
    | .xWait _ | .deal _ | .draw _ _ | .tlogFlush _ | .idem | .sEnd | .exit _ _ | .demote _ _ | .trap _ | .brk _ | .halt => some 4
    | .barGrp _ | .barBlk _ _ | .barClu _ _ | .barGrid _ _ | .waitw _ | .fence _ => some 5
    | .wait c => if c.esc then some 5 else none
    | _ => none

/-! ## Running a meaning -/

/-- What the code of a general check makes of a word: a fault, but for a member's store beyond the queue depth, which aborts its region
instead of QDEPTH (R243). -/
def generalChk (i : Instr) (s : State) (code : Nat) (vs : Bool) : Chk :=
  if code == 0x11 && clsOf i == some .sc && inRegion s then .abort 2 0 else .trap (wordTrap s code vs)

/-- The checks of one instruction issued alone, with its own check `c` (R111). -/
def checkOne (i : Instr) (c : State → Chk) (s : State) : Chk :=
  let vs := inVectorSlot i
  match ctxCode i s with
  | some code => .trap (wordTrap s code vs)
  | none =>
    match generalCode i s 0 with
    | some code => generalChk i s code vs
    | none =>
      match c s with
      | .trap t => .trap t
      | .abort k e => .abort k e
      | .wait => .wait
      | .pass =>
        match regionCause i s with
        | some k => .abort k 0
        | none => if waitsAtIssue i s then .wait else .pass

/-- What becomes of the word for each answer of its checks: a fault is taken, a waiting word has no effect, an abort ends
the word. -/
def onCheck (s : State) (f : State → State) : Chk → State
  | .pass => f s
  | .trap t => takeTrap s t
  | .wait => endWord s
  | .abort c e => endWord (abortRegion s s.iss.gid c e)

/-- Run the meaning `f` of instruction `i`: at once when the whole word has passed its checks, else after its own. -/
def gate (i : Instr) (c : State → Chk) (f : State → State) (s : State) : Host.Outcome State Fault Refusal :=
  if s.iss.passed then .next (f s) else .next (onCheck s f (checkOne i c s))

/-- The checks of a word that makes memory accesses have translated some of them, and the walks have left their traces: kept
translations, and the logs that their reads applied (R203, R214), the word's fault or not. -/
def walked (i : Instr) (walk : State → State) (s : State) : State :=
  if (ctxCode i s).isNone && (generalCode i s 0).isNone then walk s else s

/-- `gate` for an instruction whose check `c` translates addresses; `walk` is what the translations leave. -/
def gateWalk (i : Instr) (c : State → Chk) (walk f : State → State) (s : State) : Host.Outcome State Fault Refusal :=
  if s.iss.passed then .next (f s)
  else match checkOne i c s with
    | .trap t => .next (takeTrap (walked i walk s) t)
    | .abort k e => .next (endWord (abortRegion (walked i walk s) s.iss.gid k e))
    | r => .next (onCheck s f r)

/-- An instruction without checks of its own. -/
def noCheck (_ : State) : Chk := .pass

/-- The lowest code of those whose condition holds is raised for the word (R111). -/
def lowestTrap (s : State) (vs : Bool) (cs : List (Bool × Nat)) : Chk :=
  match ((cs.filter (fun c => c.1)).map (fun c => c.2)).min? with
  | some code => .trap (wordTrap s code vs)
  | none => .pass

end Sys2Proof.Machine
end

