-- ==== Sys2Proof/Machine/Progress.lean ====
section
/-!
DEFINITION. What moves between words: fusing and passing paths (R253, R257), the ends of waits (R176, R179, R239,
R305), barrier phases (R53, R54), the spin count (R52), and the paths whose waits are over (R50).
-/

namespace Sys2Proof.Machine

/-- The address of the next word: the second solo word of the unit, or the unit after it (R93, R98). -/
def nextWord (s : State) : Word :=
  if s.iss.solo && s.iss.w &&& 15 == 0 then s.iss.w + 8 else afterUnit s.iss.w

/-! ## Transfers (R138, R144, R251, R258) -/

/-- The target lies above the END of a meld record on top of the face stack (R258). -/
def aboveMeld (g : Group) (t : Word) : Bool :=
  match g.face with
  | r :: _ => !r.isCall && r.stop.ult t
  | [] => false

/-- NEXTPC loops back to a START above the open region's END (R258). -/
def loopBackAbove (g : Group) (w t : Word) : Bool :=
  let r := (nextPcGo w t g.loops).2
  r != t && aboveMeld g r

/-- The faults of going on at NEXTPC(w, t) (R251, R258). -/
def nextCodes (g : Group) (w t : Word) : List (Bool × Nat) :=
  [(loopTrap g w t, 0x13), (loopBackAbove g w t, 0x14)]

/-- A word that goes on at the next word. -/
def chkFall (s : State) : Chk := lowestTrap s false (nextCodes (cg s) s.iss.w (nextWord s))

/-! ## Lanes that become GONE (R46, R264) -/

/-- Lanes x of the issuing path become GONE; a group without a LIVE lane retires. -/
def endLanes (s : State) (x : Word) : State :=
  let s := updCg s (fun g =>
    let p := pathOf g s.iss.path
    putPath { g with gone := g.gone ||| x, helper := g.helper &&& ~~~x } s.iss.path { p with mask := p.mask &&& ~~~x })
  retireIfDead s s.iss.gid

/-! ## Barrier phases (R53, R54, R176, R177) -/

/-- The groups a barrier's members are made of (R53). -/
def barGroups (s : State) (gid : GId) (level : Nat) : List GId :=
  let l := s.launch gid.tag
  match level with
  | 0 => [gid]
  | 1 => groupsOf l gid.core
  | 2 => (l.cores.filter (fun c => clusterOf c == clusterOf gid.core)).flatMap (groupsOf l)
  | _ => launchGroups l

/-- The group's arrival in the open phase, if any. -/
def barRecord (g : Group) (level n ph : Nat) : Option BarRec :=
  g.bars.find? (fun b => b.level == level && b.n == n && b.phase == ph)

/-- The lanes for which a path arrives at a barrier: at a group barrier its LIVE active lanes, each a member; above, all that are its own, since
the path then arrives as a part of its group, and lanes that a loopv body keeps masked arrive with it (R53, R176). DEDUCED
(notes/assumptions/10.md). -/
def barLanes (g : Group) (k level : Nat) : Word := if level == 0 then (pathOf g k).mask &&& liveMask g else ownLanes g k

/-- The group has arrived with lanes `m`: every LIVE lane, and so every path that holds one, has (R53, R176). LIVE lanes only become fewer and
lanes that have arrived only more, so a group that has arrived stays so. -/
def memberArrived (g : Group) (m : Word) : Bool := liveMask g &&& ~~~m == 0

/-- A group counts as arrived: its signal is sent and it has arrived; or it has retired and its stores have
(R47, R177), and its loads have been performed (R273). -/
def barArrived (level n ph : Nat) (g : Group) : Bool :=
  if g.status == .retired then g.sc == 0 && g.loadq.all settled
  else
    match barRecord g level n ph with
    | some b => b.signalled && memberArrived g b.lanes
    | none => false

/-- A phase completes when all members have arrived, and the next one opens (R54). -/
def barComplete (s : State) (gid : GId) (level n : Nat) : State :=
  let ph := phaseCount s gid level n
  if (barGroups s gid level).all (fun x => barArrived level n ph (s.group x)) then
    s.updLaunch gid.tag (fun l =>
      let a := barScope gid level
      { l with phases := { level := level, n := n, at_ := a, count := ph + 1 }
                  :: l.phases.filter (fun p => !(p.level == level && p.n == n && p.at_ == a)) })
  else s

/-! ## What an operation must follow (notes/assumptions/6.md) -/

/-- The stores that wait for the commit of an open region: those it holds, and what stands behind them in the queue (R241). -/
def commitQueue (g : Group) : List QOp := g.storeq.dropWhile (fun x => !x.held)

/-- The store waits for a commit. -/
def behindHeld (g : Group) (o : QOp) : Bool := (commitQueue g).any (fun x => x.id == o.id)

/-- A member of the region passes over the operation: a store that waits for its commit, or another path's load that follows an event of its
word's scalar slot, which the member may have to bring about. -/
def passedOver (g : Group) (x : QOp) : Bool := if isLc x.kind then x.after.isSome && !inOpenRegion g x else behindHeld g x

/-- Loads issued before number `n` have been performed, but for those that a member (`mem`) passes over. -/
def loadsDone (g : Group) (n : Nat) (mem : Bool) : Bool :=
  g.loadq.all (fun x => decide (n ≤ x.id) || settled x || (mem && passedOver g x))

/-- A fence that a path of the group still waits at, issued before operation `n`, follows one of the operations `ops`. -/
def fenced (g : Group) (n : Nat) (ops : List QOp) : Bool :=
  let waits := (pathKeys g).flatMap (fun k => (pathOf g k).waits) ++ (match g.kept with | some k => k.waits | none => [])
  waits.any (fun w => match w with
    | .fence f => decide (f ≤ n) && ops.any (fun x => decide (x.id < f))
    | _ => false)

/-- A fence before operation `n` has operations before it that are still to be performed, a region's held stores among them, but for those that
a member passes over (R239, R275). -/
def fenceHolds (g : Group) (n : Nat) (mem : Bool) : Bool :=
  fenced g n ((g.loadq ++ g.storeq).filter (fun x => !settled x && !(mem && passedOver g x)))

/-- A load issued before operation `n` has read the queued store, or is to (R230). -/
def readBefore (g : Group) (n : Nat) (x : QOp) : Bool :=
  wasRead n x || g.loadq.any (fun o => decide (x.id < o.id) && decide (o.id < n) && o.loc == x.loc && o.accs.any (fun a => meets a x))

/-- An operation of class LC of a path outside the open region that could be performed only after its commit: an atomic behind its stores, which
its own write part follows; one behind a fence that covers them; a load that would read one of them or follows a load that has; a scratchpad load
behind scratchpad stores (R231, R241, R275 to R277). Its word issues once the region has ended: the dependence is unmet (R49). DEDUCED
(notes/assumptions/15.md). -/
def awaitsCommit (g : Group) (n : Nat) (rmw loc : Bool) (accs : List Acc) : Bool :=
  let q := commitQueue g
  (rmw && !q.isEmpty) || fenced g n q
  || q.any (fun x => readBefore g n x || (if x.loc then loc else !loc && accs.any (fun a => meets a x)))

/-- The status that `x.wait` writes: that of the earliest failed operation before it, or 0 (R305). -/
def boomStatus (s : State) (gid : GId) (n : Nat) : Word :=
  match s.boomOps.find? (fun o => o.gid == gid && decide (o.id < n) && (match o.status with | some c => c != 0 | none => false)) with
  | some o => BitVec.ofNat 64 (o.status.getD 0)
  | none => 0

/-- What the end of a wait leaves: a path's share of the member's flag is cleared (R176), `x.wait` writes its status. -/
def endWait (s : State) (gid : GId) (k : Nat) (w : Wait) : State :=
  match w with
  | .barrier level n ph =>
    s.updGroup gid (fun g =>
      let m := if level == 0 then (pathOf g k).mask else ownLanes g k
      let bars := g.bars.map (fun b =>
        if b.level == level && b.n == n && b.phase == ph then { b with share := b.share &&& ~~~m } else b)
      { g with bars := bars.filter (fun b => b.share != 0) })
  | .xwait d n => s.updGroup gid (fun g => writeS g d (boomStatus s gid n))
  | _ => s

/-- A path passes its ended waits. -/
def passWaits (s : State) (gid : GId) (k : Nat) : State :=
  let ws := (pathOf (s.group gid) k).waits
  let s := s.updGroup gid (fun g => putPath g k { (pathOf g k) with waits := [] })
  ws.foldl (fun s w => endWait s gid k w) s

/-- The issuing path gets one more wait. -/
def addWait (s : State) (w : Wait) : State := updPath s (fun p => { p with waits := p.waits ++ [w] })
/-- The issuing path waits for an event of the scalar slot that precedes the accesses of the word's vector slot: a barrier's phase
(R272). -/
def addLead (s : State) (w : Wait) : State :=
  let mark := fun (o : QOp) => if s.iss.first ≤ o.id && o.path == s.iss.path then { o with after := some w } else o
  addWait (updCg s (fun g => { g with loadq := g.loadq.map mark, storeq := g.storeq.map mark })) w
/-- A wait of path k ends in an event of its own. -/
def dropWait (s : State) (gid : GId) (k : Nat) (w : Wait) : State :=
  s.updGroup gid (fun g => let p := pathOf g k; putPath g k { p with waits := p.waits.erase w })

/-! ## Fusing and passing (R253, R257) -/

/-- The word where a wait makes a path stand, of `join` or `meldend`. -/
def Wait.stand : Wait → Option Word
  | .join w _ => some w
  | .meldend w _ => some w
  | _ => none

/-- The word a path stands at. -/
def standsAt (p : Path) : Option Word := p.waits.findSome? Wait.stand
/-- A path that waits for nothing but to fuse or to pass. -/
def onlyStands (p : Path) : Bool := p.waits.all (fun w => w.stand.isSome)

def hasChild (g : Group) (k : Nat) : Bool := g.split.any (fun p => p.2.parent == k)

/-- Child path c may fuse into its parent: it has no child of its own, and both stand at the same word; an ended path
stands at every one (R250, R253). One that still waits for the word's scalar slot does not fuse before that wait has ended, and no
child fuses into it. DESIGN CHOICE (notes/assumptions/9.md). -/
def mayFuse (g : Group) (c : Nat) : Bool :=
  let p := pathOf g c
  let q := pathOf g p.parent
  let ce := pathEnded g c
  let qe := pathEnded g p.parent
  !hasChild g c && (ce || onlyStands p) && (qe || onlyStands q) && (match standsAt p, standsAt q with
    | some a, some b => a == b || ce || qe
    | some _, none => qe
    | none, some _ => ce
    | none, none => ce && qe)

/-- What a fusion makes of an arrival above the group's own level: a parent whose lanes `own` have arrived, or share the flag, keeps that for the
child's lanes too. DEDUCED (notes/assumptions/10.md). -/
def fuseBar (live own child : Word) (b : BarRec) : BarRec :=
  let grow := fun (m : Word) => if b.level != 0 && own &&& m != 0 && own &&& live &&& ~~~m == 0 then m ||| child else m
  { b with lanes := grow b.lanes, share := grow b.share }

/-- Child path c fuses into its parent and is freed (R57, R253). An ended parent then stands where the child stood; the parent of the path
that opened a region goes on for it (notes/assumptions/15.md). -/
def fuse (g : Group) (c : Nat) : Group :=
  let p := pathOf g c
  let q := pathOf g p.parent
  let q' := if pathEnded g p.parent && !pathEnded g c then { q with pc := p.pc, waits := p.waits } else q
  let q' := { q' with mask := (q.mask ||| p.mask) &&& ~~~g.gone, fmt := p.fmtc, waits := q'.waits.map fusedWait }
  let region := g.region.map (fun r =>
    let r := if r.members.contains c then { r with members := (r.members.erase c).insert p.parent } else r
    if r.path == c then { r with path := p.parent, mask := q'.mask } else r)
  let bars := g.bars.map (fuseBar (liveMask g) (ownLanes g p.parent) p.mask)
  putPath { g with split := g.split.filter (fun x => x.1 != c), region := region, bars := bars } p.parent q'

/-- The children that may fuse, highest-numbered first. -/
def fusable (g : Group) : List Nat := (g.split.map (fun p => p.1)).reverse.filter (mayFuse g)

/-- A path that may pass the word where it stands: `join` under R253; `meldend` only the undivided path, once no
split-table entry is in use (R257). -/
def mayPass (g : Group) (k : Nat) : Bool :=
  onlyStands (pathOf g k) && (pathOf g k).waits.any (fun w => match w with
    | .join _ fused => !hasChild g k && (k == 0 || fused)
    | .meldend _ _ => k == 0 && g.split.isEmpty
    | _ => false)

/-- The waits that a path keeps when it no longer stands. -/
def unstood (p : Path) : List Wait := p.waits.filter (fun w => w.stand.isNone)

/-- A trap of path k at the word where it stands. -/
def trapStanding (s : State) (gid : GId) (k code : Nat) (w : Word) : State :=
  let p := pathOf (s.group gid) k
  let s := s.updGroup gid (fun g => putPath g k { p with waits := unstood p })
  let old := s.iss
  let s := takeTrap { s with iss := { s.iss with gid := gid, path := k, w := w, mask := p.mask } }
    { code := code, arg := 0, vs := true, mask := p.mask, face := 0, addr := 0, xpc := w }
  { s with iss := { old with next := if old.gid == gid && old.path == k then .ended else old.next } }

/-- The top record closes at the unit of the word `w` (R93, R257). -/
def closesAt (g : Group) (w : Word) : Option FaceRec :=
  match g.face with
  | r :: _ => if !r.isCall && r.stop == unitOf w then some r else none
  | [] => none

/-- Where a path that stands at w goes on: NEXTPC(w, w + 16), unless a handler has named another word (R253, R335). -/
def standGoesTo (g : Group) (p : Path) (w : Word) : List LoopRec × Word :=
  let r := nextPcGo w (afterUnit w) g.loops
  if p.pc == w || p.pc == r.2 then r else (g.loops, p.pc)

/-- Path k passes the `join` or `meldend` where it stands, or traps (R251, R253, R257). -/
def passJoin (s : State) (gid : GId) (k : Nat) : State :=
  let g := s.group gid
  let p := pathOf g k
  let go := fun (g : Group) (p : Path) (w : Word) =>
    let r := standGoesTo g p w
    putPath { g with loops := r.1 } k { p with pc := r.2, waits := unstood p }
  match p.waits.find? (fun w => w.stand.isSome) with
  | some (.join w _) =>
    if loopTrap g w (afterUnit w) then trapStanding s gid k 0x13 w
    else if loopBackAbove g w (afterUnit w) then trapStanding s gid k 0x14 w
    else s.setGroup gid (go g p w)
  | some (.meldend w _) =>
    match closesAt g w with
    | none => trapStanding s gid k 0x14 w
    | some r =>
      let g' := { g with face := g.face.tail }
      if loopBackAbove g' w (afterUnit w) then trapStanding s gid k 0x14 w
      else s.setGroup gid (go g' { p with mask := r.entry &&& ~~~g.gone, fmt := r.fmtc } w)
  | _ => s

/-- Fuse and pass until nothing moves: at most eight fusions and nine passes at a time. Where a path may both fuse and pass, it fuses; one
that may pass does so at once, though its parent might still come to the same word. DESIGN CHOICE (notes/assumptions/9.md). -/
def settleGo : Nat → State → GId → State
  | 0, s, _ => s
  | n + 1, s, gid =>
    let g := s.group gid
    if groupDone g then s
    else
      match fusable g with
      | c :: _ => settleGo n (s.setGroup gid (fuse g c)) gid
      | [] =>
        match (pathKeys g).filter (mayPass g) with
        | k :: _ => settleGo n (passJoin s gid k) gid
        | [] => s

/-- A path that stands at a word of two waits leaves the other one behind once that has ended. -/
def passOver (s : State) (gid : GId) : State :=
  (pathKeys (s.group gid)).foldl (fun s k =>
    let p := pathOf (s.group gid) k
    if (standsAt p).isNone then s
    else (p.waits.filter (waitDone s gid)).foldl (fun s w => dropWait (endWait s gid k w) gid k w) s) s

def settle (s : State) (gid : GId) : State := settleGo 18 (passOver s gid) gid

/-- The operation number for a new operation. -/
def takeId (s : State) : State × Nat := ({ s with nextId := s.nextId + 1 }, s.nextId)

/-! ## The spin count (R52) -/

def resetSpin (g : Group) : Group := { g with spin := 0, spinWord := none }

/-- A counted load whose addresses are given, in one space. -/
def countSpin (g : Group) (loc : Bool) (addrs : List (Nat × Nat)) : Group :=
  match addrs with
  | [] => g
  | a :: _ =>
    let w := a.1 / 8
    if addrs.all (fun b => b.1 / 8 == w && (b.1 + b.2 - 1) / 8 == w) then
      if g.spinWord == some (loc, w) then { g with spin := g.spin + 1 } else { g with spin := 1, spinWord := some (loc, w) }
    else resetSpin g

/-! ## Retirement of a workgroup (R48) -/

/-- The groups have retired or stopped and every operation they issued has left the queues. -/
def wgDrained (s : State) (tag c : Nat) : Bool :=
  let w := s.wg tag c
  (groupsOf (s.launch tag) c).all (fun x =>
    let g := s.group x
    groupDone g && g.loadq.isEmpty && g.storeq.isEmpty && s.boomOps.all (fun o => o.gid != x || o.ended))
  && w.tileq.isEmpty && w.copyq.isEmpty

/-- The lines that a workgroup used last leave its core's atomic line buffer (R218). -/
def giveUpLines (s : State) (tag c : Nat) : State := s.updCore c (fun x => { x with lineBuf := x.lineBuf.filter (fun y => y.2 != tag) })

/-- Once every workgroup of a RUNNING launch has retired, the launch is COMPLETING, with status 0 (R326). -/
def endWhenRetired (s : State) (tag : Nat) : State :=
  let l := s.launch tag
  if l.state == .running && l.cores.all (fun c => (s.wg tag c).retired) then s.updLaunch tag (fun l => { l with state := .completing })
  else s

/-- The workgroup of a launch on a core has retired (R48); one that a termination has stopped has not. -/
def wgRetired (s : State) (tag c : Nat) : Bool :=
  (s.wg tag c).retired && (groupsOf (s.launch tag) c).all (fun g => (s.group g).status == .retired)

/-- The launch's groups have been created. -/
def groupsMade (l : Launch) : Bool := l.state != .admitted && l.state != .placing false

/-- A core that holds no launch's workgroup: none is placed on it, or the one placed has retired (R341); one that a launch is being placed on is
held. -/
def coreFree (s : State) (c : Nat) : Bool :=
  let l := s.launch (s.core c).tag
  (s.core c).tag == 0 || (groupsMade l && l.state != .placing true && wgRetired s (s.core c).tag c)

/-- A core that a launch has left stops for the launch whose reserved set it is in (R326, R327). -/
def stopFor (s : State) (c : Nat) : State :=
  { s with launches := s.launches.map (fun l =>
      if l.reserved.contains c && !l.stopped.contains c then { l with stopped := l.stopped ++ [c] } else l) }

/-- A group is saved. -/
def isSaved (g : Group) : Bool :=
  match g.status with
  | .saved _ => true
  | _ => false

/-- A launch that has been asked for its cores is SAVED once it has left them all, by eviction or by retirement, and a group of it has been saved;
one whose groups have all retired only completes (R326). -/
def savedWhenLeft (s : State) (tag : Nat) : State :=
  let l := s.launch tag
  if l.state == .running && l.asked && l.cores.all (fun c => (s.core c).tag != tag || wgRetired s tag c)
      && (launchGroups l).any (fun g => isSaved (s.group g)) then
    s.updLaunch tag (fun l => { l with state := .saved, asked := false })
  else s

/-- A drained workgroup retires; the lines it used last in its core's atomic line buffer are written back before (R48, R218). Its core is free
for another launch (R341). -/
def retireWg (s : State) (tag c : Nat) : State :=
  if wgDrained s tag c && !(s.wg tag c).retired then
    let s := giveUpLines (s.updWg tag c (fun w => { w with retired := true })) tag c
    let s := if (s.core c).tag == tag && coreFree s c then stopFor s c else s
    savedWhenLeft (endWhenRetired s tag) tag
  else s

/-! ## Paths whose waits are over (R50, R56) -/

/-- Path k may issue: it has not ended and its waits are over. -/
def pathReady (s : State) (gid : GId) (k : Nat) : Bool :=
  !pathEnded (s.group gid) k && (pathOf (s.group gid) k).waits.all (waitDone s gid)

/-- The paths that may issue, lowest entry number first; in a handler only the faulting path (R56, R334). -/
def readyPaths (s : State) (gid : GId) : List Nat :=
  let g := s.group gid
  if g.status != .active || g.cutback then []
  else
    let ks := match g.h, g.kept with
      | true, some x => [x.path]
      | _, _ => pathKeys g
    ks.filter (pathReady s gid)

end Sys2Proof.Machine
end

