-- ==== Sys2Proof/Machine/Engine.lean ====
section
/-!
DEFINITION. What the matrix, Skidder and Boom instructions share at issue: pieces of memory an operand covers, their
checks in a stated order (R111, R285, R295), range locks (R220, R293), and the binding to an unresolved guard (R65).
-/

namespace Sys2Proof.Machine

/-- A run of bytes: address and length. -/
abbrev Piece := Word × Nat

/-- The first check that fails is raised for the word, with its address (R111: checks made in a stated order). DEDUCED (notes/assumptions/25.md). -/
def firstFail (s : State) (cs : List (Bool × Nat × Word)) : Chk :=
  match cs.find? (fun c => c.1) with
  | some c => .trap { wordTrap s c.2.1 false with addr := c.2.2 }
  | none => .pass

/-- Then another check, when the first passes. -/
def Chk.andThen (a b : Chk) : Chk :=
  match a with
  | .pass => b
  | _ => a

/-- Every address of a run is canonical (R200); a run of no bytes has none. -/
def pieceCanonical (p : Piece) : Bool :=
  p.2 == 0 || (canonical p.1 && canonical (p.1 + BitVec.ofNat 64 (p.2 - 1)))

/-- The lowest and the highest byte of an operand's runs, as signed addresses, which canonical ones are (R200, R220). DEDUCED
(notes/assumptions/25.md). -/
def spanOf (ps : List Piece) : Option (Int × Int) :=
  let ps := ps.filter (fun p => p.2 != 0)
  match (ps.map (fun p => p.1.toInt)).min?, (ps.map (fun p => p.1.toInt + (p.2 : Int) - 1)).max? with
  | some a, some b => some (a, b)
  | _, _ => none

/-- A range-lock entry that a command would register. -/
structure LockReq where
  loc : Bool
  wr : Bool
  lo : Int
  hi : Int
  deriving DecidableEq, Repr

def lockReq (loc wr : Bool) (ps : List Piece) : List LockReq :=
  match spanOf ps with
  | some (a, b) => [{ loc := loc, wr := wr, lo := a, hi := b }]
  | none => []

/-- Two ranges of one space overlap and one of them is written (R293). -/
def lockMeets (loc wr : Bool) (lo hi : Int) (k : Lock) : Bool :=
  k.loc == loc && decide (lo ≤ k.hi) && decide (k.lo ≤ hi) && (k.wr || wr)

/-- A command waits at issue: a lock stands against it, or its entries do not fit in the table of 32 (R220, R293). The write lock that another
core's `c.send` holds in this core's table stands against it like one of the core's own commands. DESIGN CHOICE (notes/assumptions/25.md). -/
def lockWaits (w : Workgroup) (rs : List LockReq) : Bool :=
  rs.any (fun r => w.locks.any (lockMeets r.loc r.wr r.lo r.hi)) || decide (32 < w.locks.length + rs.length)

/-- The word's check of its locks. -/
def chkLocks (s : State) (rs : List LockReq) : Chk :=
  if lockWaits (s.wg s.iss.gid.tag s.iss.gid.core) rs then .wait else .pass

def locksOf (id : Nat) (rs : List LockReq) : List Lock :=
  rs.map (fun r => { id := id, loc := r.loc, wr := r.wr, lo := r.lo, hi := r.hi })

/-- The binding of an engine command whose word has an unresolved guard (R65). -/
def bindOf (s : State) : Option Bind :=
  if s.iss.gen && readGuard (cg s) s.iss.gslot == .unres then some { k := s.iss.gslot, neg := s.iss.gneg, fate := none }
  else none

/-- A descriptor's three registers (R29). -/
def readDesc (s : State) (a : SReg) (loc : Bool) : Desc :=
  { base := rs s a, stride := rs s (a + 1), off := rs s (a + 2), loc := loc }

/-- The workgroup on a core, and the launch it belongs to. -/
def coreWg (s : State) (c : Nat) : Workgroup := s.wg (s.core c).tag c
def coreLaunch (s : State) (c : Nat) : Launch := s.launch (s.core c).tag

/-- The workgroup of the core's launch is on the core, whose cluster has power. What a core holds outlives a time without power. DESIGN CHOICE
(notes/assumptions/30.md). -/
def wgOnCore (s : State) (c : Nat) : Bool := (s.core c).tag != 0 && (coreWg s c).place == .core && !clusterOff s (clusterOf c)

/-! ## Engine accesses to the scratchpad or to global memory -/

/-- A run of bytes read: in the core's scratchpad, or through the launch's translation. -/
def engRead (s : State) (e : EngBy) (loc : Bool) (a : Word) (n : Nat) : State × Except (Nat × Nat) (List Byte) :=
  if n = 0 then (s, .ok [])
  else if loc then (noteLevel s e.gid e.id 1, .ok (readBytes (s.wg e.v.tag e.core).scratch a.toNat n))
  else virtRead e.v (noteRun e .r (n / 4096 + 2) s a.toNat n) a.toNat n

/-- A run of bytes written: in the scratchpad of core `dest`, or through the launch's translation. -/
def engWrite (s : State) (e : EngBy) (dest : Nat) (loc : Bool) (a : Word) (d : List Byte) : State × Except (Nat × Nat) Unit :=
  if d.isEmpty then (s, .ok ())
  else if loc then
    ((noteLevel s e.gid e.id 1).updWg e.v.tag dest (fun w => { w with scratch := writeBytes w.scratch a.toNat d }), .ok ())
  else virtWrite e.v (noteRun e .w (d.length / 4096 + 2) s a.toNat d.length) a.toNat d

/-- Runs read one after another; the first that fails ends it. -/
def engReads (e : EngBy) : State → List (Bool × Piece) → State × Except (Nat × Nat) (List (List Byte))
  | s, [] => (s, .ok [])
  | s, (loc, p) :: r =>
    match engRead s e loc p.1 p.2 with
    | (s, .error c) => (s, .error c)
    | (s, .ok b) =>
      match engReads e s r with
      | (s, .error c) => (s, .error c)
      | (s, .ok bs) => (s, .ok (b :: bs))

def engWrites (e : EngBy) : State → List (Bool × Word × List Byte) → State × Except (Nat × Nat) Unit
  | s, [] => (s, .ok ())
  | s, (loc, a, d) :: r =>
    match engWrite s e e.core loc a d with
    | (s, .error c) => (s, .error c)
    | (s, .ok _) => engWrites e s r

/-- Every run could be written; nothing is (R214, R216). -/
def engReady (e : EngBy) : State → List (Bool × Word × Nat) → State × Except (Nat × Nat) Unit
  | s, [] => (s, .ok ())
  | s, (loc, a, n) :: r =>
    if loc || n = 0 then engReady e s r
    else
      match virtReady e.v (noteRun e .w (n / 4096 + 2) s a.toNat n) a.toNat n with
      | (s, .error c) => (s, .error c)
      | (s, .ok _) => engReady e s r

/-- Runs written all together, or none of them (R291, R305). -/
def engStore (e : EngBy) (s : State) (ws : List (Bool × Word × List Byte)) : State × Except (Nat × Nat) Unit :=
  match engReady e s (ws.map (fun w => (w.1, w.2.1, w.2.2.length))) with
  | (s, .error c) => (s, .error c)
  | (s, .ok _) => engWrites e s ws

end Sys2Proof.Machine
end

