-- ==== Sys2Proof/Machine/Boom.lean ====
section
/-!
DEFINITION. The Boom: the collective instructions at issue (R301, R302), how an operation advances through its messages
(R303, R304, R386), and how it fails (R305). Its events are in `Machine/BoomEvents.lean`.
-/

namespace Sys2Proof.Machine

def viaBoom (l : Launch) (c : Nat) : Via := { die := dieOf c, ident := idBoom (dieOf c), ctx := l.ctx, tag := l.tag }

/-! ## The collective table (R301, R380) -/

/-- Physical bytes read in pieces within 4 KiB. -/
def physReadGo (m : Master) (tag : Nat) : Nat → State → Nat → Nat → State × Res (List Byte)
  | 0, s, _, _ => (s, .ok [])
  | f + 1, s, pa, n =>
    if n = 0 then (s, .ok [])
    else
      let k := min n (4096 - pa % 4096)
      match physRead s m tag pa k with
      | (s, .error c) => (s, .error c)
      | (s, .ok b) =>
        match physReadGo m tag f s (pa + k) (n - k) with
        | (s, .error c) => (s, .error c)
        | (s, .ok r) => (s, .ok (b ++ r))

/-- The rank words of an entry, package in bits 27:16 and core in 15:0; none where it is not loaded. An entry whose P is above 4,096 (R89), or
whose rank words cannot be read, for which no rule names an outcome, counts as not loaded. DESIGN CHOICE (notes/assumptions/18.md). -/
def collRanks (s : State) (v : Via) (coll : Nat) : State × Option (List Nat) :=
  let e := regLE s (collBase coll) 64
  let p := bits e 0 16
  if p == 0 || decide (4096 < p) then (s, none)
  else
    match physReadGo v.master v.tag 6 s (bits e 64 64) (4 * p) with
    | (s, .error _) => (s, none)
    | (s, .ok b) => (s, some ((List.range p).map (fun i => bits (ofBytes b) (32 * i) 28)))

/-- The rank of a core of this package. -/
def rankOf (pt : Part) (ranks : List Nat) (c : Nat) : Option Nat := ranks.findIdx? (fun w => w == pt.package * 65536 + c)

/-- Whether a rank is a core of this package. -/
def rankHere (pt : Part) (ranks : List Nat) (r : Nat) : Bool := rankPkg ranks r == pt.package

/-- The accesses of an operation. -/
def byBoom (l : Launch) (o : BoomOp) : EngBy := { v := viaBoom l o.gid.core, core := o.gid.core, grp := o.gid.grp, id := o.id }

/-! ## Element forms -/

/-- What a collective works on: elements of `n` bytes, or QB blocks of width w. -/
inductive XForm
  | elem (n : Nat)
  | block (w : Nat)
  deriving DecidableEq, Repr

def xform : Instr → XForm
  | .xAllred _ _ ty w => if ty == .qb then .block w.toNat else .elem (ty.width / 8)
  | .xAllmax _ ty | .xBcast _ ty | .xGather _ ty => .elem (ty.width / 8)
  | _ => .elem 1

/-- Reductions pass along the chain; `x.bcast` and `x.gather` have a root. -/
def xRooted : Instr → Bool
  | .xBcast _ _ | .xGather _ _ => true
  | _ => false
def isBcast : Instr → Bool
  | .xBcast _ _ => true
  | _ => false

/-- Bytes of one unit of a phase's data (R386): an element; in phase 1 an exponent; in phase 2 the sixteen sums of a block;
in phase 3 a delivered block, its mantissas and then its exponent (notes/assumptions/18.md). -/
def unitBytes (o : BoomOp) (phase : Nat) : Nat :=
  match xform o.op with
  | .elem n => n
  | .block _ => if phase == 1 then 1 else if phase == 2 || o.outw == 0 then 64 else 2 * o.outw + 1

/-- Units in a segment, and segments of a phase. -/
def segUnits (o : BoomOp) (phase : Nat) : Nat :=
  match xform o.op with
  | .elem n => 8192 / n
  | .block _ => if phase == 1 then 8192 else 128
def segCount (o : BoomOp) (phase : Nat) : Nat := (o.count + segUnits o phase - 1) / segUnits o phase
/-- Bytes of segment n of a phase's whole data. -/
def segOf (o : BoomOp) (phase n : Nat) (b : List Byte) : List Byte :=
  let k := segUnits o phase * unitBytes o phase
  (b.drop (n * k)).take k

/-! ## The descriptor (R301) -/

def boomDesc (s : State) (a : SReg) : Nat := readLE (s.wg s.iss.gid.tag s.iss.gid.core).scratch (rs s a).toNat 64

/-- A descriptor field outside its range. DEDUCED (notes/assumptions/18.md). -/
def boomFieldBad (d : Nat) (i : Instr) (p : Nat) : Bool :=
  let outw := bits d 288 8
  let root := bits d 256 32
  let qb := match xform i with
    | .block _ => true
    | .elem _ => false
  bits d 448 64 != 0 || bits d 296 24 != 0 || bits d 16 16 != 0
  || !(outw == 0 || (qb && decide (2 ≤ outw) && decide (outw ≤ 8)))
  || (if xRooted i then decide (p ≤ root) else root != 0)

/-- The alignment of SRC and DST: that of an element. -/
def boomSrcAlign (i : Instr) : Nat :=
  match xform i with
  | .elem n => n
  | .block _ => 1
def boomDstAlign (d : Nat) (i : Instr) : Nat :=
  match xform i with
  | .elem n => n
  | .block _ => if bits d 288 8 == 0 then 4 else 1

/-- Helpers only: the command is suppressed (R63, R306). -/
def boomSuppressed (s : State) : Bool := s.iss.mask != 0 && liveActive s == 0

/-- Uncompleted Boom operations of a group (R301). -/
def boomLive (s : State) (gid : GId) : Nat := (s.boomOps.filter (fun o => o.gid == gid && !o.ended)).length

/-- The checks of a Boom command: its descriptor can be read; then the lowest of the codes its values raise; a fifth
operation waits. -/
def chkBoom (i : Instr) (a : SReg) (s : State) : Chk :=
  if boomSuppressed s then .pass
  else
    let l := s.launch s.iss.gid.tag
    let at_ := rs s a
    let d := boomDesc s a
    let src : Word := field 64 d 64
    let dst : Word := field 64 d 128
    let sig : Word := field 64 d 192
    let r := (collRanks s (viaBoom l s.iss.gid.core) (bits d 0 16)).2
    let p := match r with
      | some x => x.length
      | none => 0
    let member := match r with
      | some x => (rankOf s.part x s.iss.gid.core).isSome
      | none => false
    (firstFail s [(at_.toNat % 16 != 0, 0x0D, at_), (!spOk l at_ 64, 0x0F, at_)]).andThen
    ((firstFail s
      [(boomFieldBad d i (if r.isSome then p else 2 ^ 32), 0x03, 0),
       (!canonical src, 0x08, src), (!canonical dst, 0x08, dst), (!canonical sig, 0x08, sig), (!member, 0x0C, 0),
       (src.toNat % boomSrcAlign i != 0, 0x0D, src), (dst.toNat % boomDstAlign d i != 0, 0x0D, dst),
       (sig.toNat % 8 != 0, 0x0D, sig)]).andThen
    (if 4 ≤ boomLive s s.iss.gid then .wait else .pass))

/-! ## Combining (R302, R303) -/

/-- x combined with a rank's own element y: the value and its flags. -/
def combineElem (i : Instr) (x y : Nat) : Nat × Nat :=
  match i with
  | .xAllmax _ ty =>
    if ty == .f32 then fMinMax fp32 true x y
    else (if (if ty.signed then decide (signedBits ty.width x < signedBits ty.width y) else decide (x < y)) then y else x, 0)
  | .xAllred _ op ty _ =>
    match op.toNat with
    | 8 => fAdd fp32 0 x y
    | 9 => fMinMax fp32 false x y
    | 10 => fMinMax fp32 true x y
    | n => (rmwNew n ty ty.width x y 0, 0)
  | _ => (y, 0)

/-- Units of `n` bytes as numbers, and back. -/
def unitsOf (n : Nat) (b : List Byte) : List Nat := (List.range (b.length / n)).map (fun i => bits (ofBytes b) (8 * n * i) (8 * n))
def bytesOf (n : Nat) (vs : List Nat) : List Byte := vs.flatMap (toBytes n)

/-- A segment that arrived, combined with the rank's own one. -/
def combineSeg (o : BoomOp) (phase : Nat) (x y : List Byte) : List Byte × Nat :=
  match xform o.op with
  | .elem n =>
    let r := ((unitsOf n x).zip (unitsOf n y)).map (fun p => combineElem o.op p.1 p.2)
    (bytesOf n (r.map (fun q => q.1)), flagsOf r)
  | .block _ =>
    if phase == 1 then (bytesOf 1 (((unitsOf 1 x).zip (unitsOf 1 y)).map (fun p => max p.1 p.2)), 0)
    else (bytesOf 4 (((unitsOf 4 x).zip (unitsOf 4 y)).map (fun p => (p.1 + p.2) % 2 ^ 32)), 0)

/-- H and L of R89 and R90. -/
def headroom (p : Nat) : Nat := if p ≤ 1 then 0 else Nat.log2 (p - 1) + 1
def alignL (p w : Nat) : Nat := 32 - headroom p - w

/-- q of R90. DEDUCED (notes/assumptions/26.md). -/
def alignElem (p w eg er : Nat) (m : Int) : Int :=
  if eg == 0xFF then 0
  else
    let r := quantize 0 (decide (m < 0)) m.natAbs ((alignL p w : Int) - ((eg : Int) - er)) 0
    if m < 0 then -(r.1 : Int) else r.1

/-- The exact value of a sum Q (R90). -/
def sumValue (p w eg : Nat) (q : Nat) : FV :=
  if eg == 0xFF then .nan false
  else
    let v := signedBits 32 q
    .fin (decide (v < 0)) v.natAbs ((eg : Int) - 127 - ((w : Int) - 1) - (alignL p w : Int))

/-- A delivered block (R303): sixteen FP32 words, or the mantissas and the exponent of QUANT, with the flags. -/
def deliverBlock (o : BoomOp) (w eg : Nat) (qs : List Nat) : List Byte × Nat :=
  let vs := qs.map (sumValue o.ranks.length w eg)
  if o.outw == 0 then
    let r := vs.map (packFV fp32 0)
    (r.flatMap (fun x => toBytes 4 x.1), flagsOf r)
  else
    let q := quant o.outw vs
    (toBytes (2 * o.outw) (q.2.1.foldr (fun m a => a * 2 ^ o.outw + lowBits o.outw m) 0) ++ [BitVec.ofNat 8 q.1], q.2.2)

/-! ## What a rank holds -/

/-- Phase numbers of `segs` that no message carries: 4 the rank's own data of phase 0 or 1, 5 its own mantissas; 16 + p a
combined segment of phase p that has been passed on; 32 + p a finished one at the last rank. -/
def heldSeg (o : BoomOp) (phase seg src : Nat) : Option (List Byte) :=
  (o.segs.find? (fun x => x.1 == phase && x.2.1 == seg && x.2.2.1 == src)).map (fun x => x.2.2.2)
def keepSeg (o : BoomOp) (phase seg src : Nat) (b : List Byte) : BoomOp := { o with segs := o.segs ++ [(phase, seg, src, b)] }

/-- A data message of the operation. -/
def dataMsg (o : BoomOp) (dst phase seg : Nat) (b : List Byte) : BoomMsg :=
  { kind := 1, coll := o.coll, k := o.k, src := o.rank, dst := dst, seg := seg, phase := phase, payload := b, status := 0 }

def lastRank (o : BoomOp) : Nat := o.ranks.length - 1
def otherRanks (o : BoomOp) : List Nat := (List.range o.ranks.length).filter (fun r => r != o.rank)

/-- `n` segments of a phase from one rank, from segment `lo` on, joined. -/
def joinSegs (o : BoomOp) (phase lo n src : Nat) : Option (List Byte) :=
  (List.range n).foldl (fun a i =>
    match a, heldSeg o phase (lo + i) src with
    | some x, some b => some (x ++ b)
    | _, _ => none) (some [])

/-- The first segment of a phase's result among those that the last rank sends with PHASE 3: the exponents of `x.allred.qb` come first.
DESIGN CHOICE (notes/assumptions/18.md). -/
def resultLo (o : BoomOp) (phase : Nat) : Nat := if phase == 2 then segCount o 1 else 0

/-- The finished segments of a phase, once known at this rank: its own at the last rank, else those that rank sent. -/
def finished (o : BoomOp) (phase : Nat) : Option (List Byte) :=
  if o.rank == lastRank o then joinSegs o (32 + phase) 0 (segCount o phase) o.rank
  else joinSegs o 3 (resultLo o phase) (segCount o phase) (lastRank o)

/-- The agreed exponents (R89). -/
def agreedExps (o : BoomOp) : Option (List Byte) := finished o 1

/-- Own data of a phase, whole: phase 2 needs the agreed exponents. -/
def ownData (o : BoomOp) (phase : Nat) : Option (List Byte) :=
  match xform o.op with
  | .elem _ => heldSeg o 4 0 o.rank
  | .block w =>
    if phase == 1 then heldSeg o 4 0 o.rank
    else
      match agreedExps o, heldSeg o 4 0 o.rank, heldSeg o 5 0 o.rank with
      | some eg, some er, some ms =>
        some ((List.range o.count).flatMap (fun b =>
          let v := ofBytes ((ms.drop (2 * w * b)).take (2 * w))
          (List.range 16).flatMap (fun e =>
            toBytes 4 (lowBits 32 (alignElem o.ranks.length w (eg.getD b 0).toNat (er.getD b 0).toNat
              (signedBits w (bits v (w * e) w)))))))
      | _, _, _ => none

/-- A reduction of FP32 elements. -/
def xFloat : Instr → Bool
  | .xAllred _ _ ty _ | .xAllmax _ ty => ty == .f32
  | _ => false

/-- The result of an FP32 reduction is canonical when it is a NaN, also where no other rank has been combined with it (R71). -/
def canonElem (x : Nat) : Nat × Nat :=
  let v := unpack fp32 x
  if v.isNan then (fp32.nan, if v.isSig then fNV else 0) else (x, 0)

/-- The finished form of a segment, which the last rank sends to every other with PHASE 3, and its flags. -/
def finishSeg (o : BoomOp) (phase n : Nat) (b : List Byte) : List Byte × Nat :=
  match xform o.op with
  | .elem n =>
    let r := (unitsOf n b).map canonElem
    if xFloat o.op then (bytesOf n (r.map (fun q => q.1)), flagsOf r) else (b, 0)
  | .block w =>
    if phase == 1 then (b, 0)
    else
      let eg := (agreedExps o).getD []
      let k := b.length / 64
      let r := (List.range k).map (fun j =>
        deliverBlock o w (eg.getD (n * segUnits o 2 + j) 0).toNat (unitsOf 4 ((b.drop (64 * j)).take 64)))
      (r.flatMap (fun x => x.1), flagsOf r)

/-! ## Advancing -/

/-- One chain segment, if it can be passed on now: the operation, messages and flags after it. -/
def chainSeg (o : BoomOp) (phase n : Nat) : Option (BoomOp × List BoomMsg × Nat) :=
  if (heldSeg o (16 + phase) n o.rank).isSome then none
  else
    match ownData o phase with
    | none => none
    | some own =>
      let mine := segOf o phase n own
      let got := if o.rank == 0 then some (mine, 0)
        else (heldSeg o phase n (o.rank - 1)).map (fun x => combineSeg o phase x mine)
      match got with
      | none => none
      | some (b, fl) =>
        let o := keepSeg o (16 + phase) n o.rank b
        if o.rank < lastRank o then some (o, [dataMsg o (o.rank + 1) phase n b], fl)
        else
          let f := finishSeg o phase n b
          some (keepSeg o (32 + phase) n o.rank f.1, (otherRanks o).map (fun r => dataMsg o r 3 (resultLo o phase + n) f.1), fl ||| f.2)

/-- The phases of a reduction. -/
def chainPhases (o : BoomOp) : List Nat :=
  match xform o.op with
  | .elem _ => [0]
  | .block _ => [1, 2]

/-- Pass on every chain segment that can be. -/
def chainAll (o : BoomOp) : BoomOp × List BoomMsg × Nat :=
  (chainPhases o).foldl (fun a ph =>
    (List.range (segCount o ph)).foldl (fun (a : BoomOp × List BoomMsg × Nat) n =>
      match chainSeg a.1 ph n with
      | some r => (r.1, a.2.1 ++ r.2.1, a.2.2 ||| r.2.2)
      | none => a) a) (o, [], 0)

/-- What the rank sends when its data is there (R386). -/
def advanceOp (o : BoomOp) : BoomOp × List BoomMsg × Nat :=
  if !o.started then (o, [], 0)
  else if xRooted o.op then (o, [], 0)
  else chainAll o

/-- The messages of `x.bcast` and `x.gather` at the start. -/
def rootedMsgs (o : BoomOp) (own : List Byte) : List BoomMsg :=
  let dests := if isBcast o.op then (if o.rank == o.root then otherRanks o else []) else (if o.rank == o.root then [] else [o.root])
  dests.flatMap (fun r => (List.range (segCount o 0)).map (fun n => dataMsg o r 0 n (segOf o 0 n own)))

/-- Replace an operation. -/
def putBoom (s : State) (o : BoomOp) : State := { s with boomOps := s.boomOps.map (fun x => if x.id == o.id then o else x) }

/-- Flags reach every matched operation of the package: every rank receives the same (R302). -/
def shareFlags (s : State) (coll k fl : Nat) : State :=
  { s with boomOps := s.boomOps.map (fun x =>
      if x.coll == coll && x.k == k then { x with flags := x.flags ||| BitVec.ofNat 64 fl } else x) }

/-- Advance one operation and send what it produced. -/
def boomAdvance (s : State) (id : Nat) : State :=
  match s.boomOps.find? (fun x => x.id == id) with
  | none => s
  | some o =>
    if o.ended || o.status.isSome then s
    else
      let r := advanceOp o
      let s := putBoom s r.1
      shareFlags (boomPost s o.ranks r.2.1) o.coll o.k r.2.2

/-! ## Failure (R305) -/

/-- An operation fails at its rank with `code` and at every other with `others`; failure messages go out. -/
def boomFail (s : State) (o : BoomOp) (code others : Nat) : State :=
  let ops := s.boomOps.map (fun x =>
    if x.coll == o.coll && x.k == o.k && !x.ended && x.status == none then
      { x with status := some (if x.id == o.id then code else others) } else x)
  boomPost { s with boomOps := ops } o.ranks (boomTell o 5 others)

/-- A fault on SRC, DST or SIG after issue: with an entry in the partial-work table (R305, R338). -/
def boomFault (s : State) (o : BoomOp) (e : Nat × Nat) : State :=
  let w : PwEntry := { kind := 6, grp := o.gid.grp, core := o.gid.core, word := o.word, done := 0, where_ := BitVec.ofNat 64 e.2 }
  boomFail (noteFault (s.updLaunch o.gid.tag (fun l => { l with pwt := l.pwt ++ [w] })) o.gid o.id) o e.1 0x3F

/-- The matched operations differ (R305). -/
def boomDiffers (a b : BoomOp) : Bool :=
  let key := fun (i : Instr) => match i with
    | .xAllred _ op ty w => (0, op.toNat, ty, w.toNat)
    | .xAllmax _ ty => (1, 0, ty, 0)
    | .xBcast _ ty => (2, 0, ty, 0)
    | .xGather _ ty => (3, 0, ty, 0)
    | _ => (4, 0, Ty.i8, 0)
  key a.op != key b.op || a.outw != b.outw || a.count != b.count || a.root != b.root

/-! ## Starting -/

/-- A run of SRC read; the bytes, up to a fault, are charged to the Skidder budget (R294, R328). -/
def readRun (s : State) (e : EngBy) (a : Word) (n : Nat) : State × Except (Nat × Nat) (List Byte) :=
  match engRead s e false a n with
  | (s, .error x) => (chargeBudget s e.v.tag 2 (x.2 - a.toNat), .error x)
  | (s, .ok b) => (chargeBudget s e.v.tag 2 n, .ok b)

/-- SRC read whole: elements, or exponents and mantissas (R301). -/
def readSrc (s : State) (o : BoomOp) : State × Except (Nat × Nat) (List (Nat × List Byte)) :=
  let e := byBoom (s.launch o.gid.tag) o
  let skip := isBcast o.op && o.rank != o.root
  match xform o.op with
  | .elem n =>
    if skip then (s, .ok [(4, [])])
    else
      match readRun s e o.src (n * o.count) with
      | (s, .error x) => (s, .error x)
      | (s, .ok b) => (s, .ok [(4, b)])
  | .block w =>
    match readRun s e (o.src + o.seoff) o.count with
    | (s, .error x) => (s, .error x)
    | (s, .ok ex) =>
      match readRun s e o.src (2 * w * o.count) with
      | (s, .error x) => (s, .error x)
      | (s, .ok ms) => (s, .ok [(4, ex), (5, ms)])

/-- A data message acted on once (R386). -/
def actOn (o : BoomOp) (b : BoomMsg) : BoomOp :=
  if (heldSeg o b.phase b.seg b.src).isSome then o else keepSeg o b.phase b.seg b.src b.payload

/-- A message that came before its operation is taken up now. -/
def takeWaiting (s : State) (o : BoomOp) : State × BoomOp :=
  let mine := s.boomWaiting.filter (fun b => b.coll == o.coll && b.k == o.k && b.dst == o.rank)
  let o := mine.foldl (fun o b => match b.kind with
    | 1 => actOn o b
    | 3 => o.freeze s.dtime true
    | 4 => o.freeze s.dtime false
    | 5 => if o.status.isNone then { o with status := some b.status } else o
    | _ => o) o
  ({ s with boomWaiting := s.boomWaiting.filter (fun b => !(b.coll == o.coll && b.k == o.k && b.dst == o.rank)) }, o)

/-- An operation that runs: matched operations are compared, earlier news of it taken up, SRC read, and its first messages
sent. -/
def boomStart (s : State) (id : Nat) : State :=
  match s.boomOps.find? (fun x => x.id == id) with
  | none => s
  | some o =>
    if o.started || o.ended || o.status.isSome then s
    else
      let mates := s.boomOps.filter (fun x => x.coll == o.coll && x.k == o.k && x.id != o.id && x.bind.isNone)
      let news := match mates.find? (fun x => match x.status with | some c => c != 0 | none => false) with
        | some x => some (if x.status == some 0x19 then 0x19 else 0x3F)
        | none => none
      let fl := mates.foldl (fun a x => a ||| x.flags) 0
      let (s, o) := takeWaiting s { o with flags := o.flags ||| fl, bind := none, since := s.dtime }
      let o := if o.status.isNone then { o with status := news } else o
      let s := putBoom s { o with started := true }
      if o.status.isSome then s
      else if mates.any (boomDiffers o) then boomFail s o 0x19 0x19
      else
        match readSrc s o with
        | (s, .error e) => boomFault s o e
        | (s, .ok ds) =>
          let o := ds.foldl (fun o d => keepSeg o d.1 0 o.rank d.2) { o with started := true }
          let s := putBoom s o
          let own := (heldSeg o 4 0 o.rank).getD []
          let s := if xRooted o.op then boomPost s o.ranks (rootedMsgs o own) else s
          boomAdvance s id

/-! ## Issue -/

/-- The timeout of an entry of the collective table, in nanoseconds (R380). -/
def collTimeout (s : State) (coll : Nat) : Nat := 1000 * regLE s (collBase coll + 4) 4

/-- The next sequence number of a rank on a collective (R301). -/
def nextSeq (s : State) (coll rank : Nat) : Nat :=
  match s.boomSeq.find? (fun x => x.1 == coll && x.2.1 == rank) with
  | some x => x.2.2
  | none => 0
def putSeq (s : State) (coll rank n : Nat) : State :=
  { s with boomSeq := (coll, rank, n) :: s.boomSeq.filter (fun x => !(x.1 == coll && x.2.1 == rank)) }

/-- An earlier operation of the rank on the collective still awaits its guard; a later one waits behind it (R65). -/
def behindBound (s : State) (o : BoomOp) : Bool :=
  s.boomOps.any (fun x => x.coll == o.coll && x.rank == o.rank && decide (x.id < o.id) && !x.ended && x.bind.isSome)

/-- A collective at issue. -/
def boomIssue (s : State) (i : Instr) (a : SReg) : State :=
  if boomSuppressed s then s
  else
    let gid := s.iss.gid
    let d := boomDesc s a
    let coll := bits d 0 16
    match collRanks s (viaBoom (s.launch gid.tag) gid.core) coll with
    | (s, none) => s
    | (s, some ranks) =>
      let rank := (rankOf s.part ranks gid.core).getD 0
      let k := nextSeq s coll rank
      let id := s.nextId
      let o : BoomOp :=
        { id := id, gid := gid, word := s.iss.w, op := i, coll := coll, k := k, rank := rank, ranks := ranks, started := false
          root := bits d 256 32, count := bits d 32 32, src := field 64 d 64, dst := field 64 d 128, seoff := field 64 d 320
          deoff := field 64 d 384, outw := bits d 288 8, sig := field 64 d 192, fmt := fmtNow s, segs := [], bind := bindOf s
          frozen := false, left := collTimeout s coll, since := s.dtime, status := none, flags := 0, ended := false }
      let s := putSeq { s with nextId := id + 1, boomOps := s.boomOps ++ [o] } coll rank (k + 1)
      if o.bind.isSome || behindBound s o then s else boomStart s id

def execXAllred (a : SReg) (op : BitVec 4) (ty : Ty) (w : BitVec 4) (s : State) : Host.Outcome State Fault Refusal :=
  gate (.xAllred a op ty w) (chkBoom (.xAllred a op ty w) a) (fun s => boomIssue s (.xAllred a op ty w) a) s
def execXAllmax (a : SReg) (ty : Ty) (s : State) : Host.Outcome State Fault Refusal :=
  gate (.xAllmax a ty) (chkBoom (.xAllmax a ty) a) (fun s => boomIssue s (.xAllmax a ty) a) s
def execXBcast (a : SReg) (ty : Ty) (s : State) : Host.Outcome State Fault Refusal :=
  gate (.xBcast a ty) (chkBoom (.xBcast a ty) a) (fun s => boomIssue s (.xBcast a ty) a) s
def execXGather (a : SReg) (ty : Ty) (s : State) : Host.Outcome State Fault Refusal :=
  gate (.xGather a ty) (chkBoom (.xGather a ty) a) (fun s => boomIssue s (.xGather a ty) a) s

/-- `x.wait` (R305). -/
def execXWait (d : SReg) (s : State) : Host.Outcome State Fault Refusal :=
  gate (.xWait d) noCheck (fun s => addLead s (.xwait d s.nextId)) s

end Sys2Proof.Machine
end

