-- ==== Sys2Proof/Machine/MemIssue.lean ====
section
/-!
DEFINITION. What the memory instructions do at issue (R224 to R240, R246) and `g.ld` (R180): addresses, the checks of each
access, and the operation that enters the group's load or store queue. What happens at the target is in
`Machine/MemEvents.lean`.
-/

namespace Sys2Proof.Machine

/-! ## One access at issue (R226, R229) -/

/-- What the checks of an access need: space, element size, permission, alignment checked, and, for an access that range
locks stop, whether it writes. -/
structure MemForm where
  loc : Bool
  size : Nat
  need : Need
  align : Bool
  lock : Option Bool
  deriving DecidableEq, Repr

/-- A lock of the core stops an access (R221). -/
def lockHit (s : State) (f : MemForm) (va : Word) : Bool :=
  match f.lock with
  | none => false
  | some wr =>
    (s.wg s.iss.gid.tag s.iss.gid.core).locks.any (fun k =>
      k.loc == f.loc && decide (va.toInt ≤ k.hi) && decide (k.lo < va.toInt + (f.size : Int)) && (k.wr || wr))

/-- The translation of a group's access. -/
def groupWalk (s : State) (va : Word) : WalkArg :=
  { die := dieOf s.iss.gid.core, ctx := (s.launch s.iss.gid.tag).ctx, tag := s.iss.gid.tag, va := va.toNat }

/-- The checks of one access, in the order of R229: its target address or the code of the first it fails. An access that reaches memory through the
memory window stands at the byte of memory itself (R205), and is treated like one that reaches it directly: a write by the group's threads to a
poisoned tile fails and rewrites nothing, since R216 speaks of system software. DESIGN CHOICE (notes/assumptions/27.md). -/
def accessOne (s : State) (f : MemForm) (va : Word) : State × Res Nat :=
  if !f.loc && !canonical va then (s, .error 0x08)
  else if f.align && va.toNat % f.size != 0 then (s, .error 0x0D)
  else if f.loc then
    if !spOk (s.launch s.iss.gid.tag) va f.size then (s, .error 0x0F)
    else if lockHit s f va then (s, .error 0x0E) else (s, .ok va.toNat)
  else
    match translate s (groupWalk s va) f.need with
    | (s, .error c) => (s, .error c)
    | (s, .ok pa) =>
      if lockHit s f va then (s, .error 0x0E)
      else
        match locate s.part pa with
        | .slice _ q => (s, .ok q)
        | _ => (s, .ok pa)

/-- Every access of a word, by thread. -/
def accessAll (f : MemForm) : State → List (Nat × Word) → State × List (Nat × Word × Res Nat)
  | s, [] => (s, [])
  | s, (t, va) :: r =>
    let a := accessOne s f va
    let q := accessAll f a.1 r
    (q.1, (t, va, a.2) :: q.2)

/-- The code of a failed access. -/
def resCode (r : Nat × Word × Res Nat) : Option Nat :=
  match r.2.2 with
  | .error c => some c
  | .ok _ => none

/-- The fault of a word's accesses (R111, R229): the lowest code, the threads that raised it, their faces, the lowest such
thread's address. The single access of a group names its path's active mask. -/
def accessChk (s : State) (vs single : Bool) (rs : List (Nat × Word × Res Nat)) : Chk :=
  match (rs.filterMap resCode).min? with
  | none => .pass
  | some code =>
    let hit := rs.filter (fun r => resCode r == some code)
    let m := maskOf (fun t => hit.any (fun r => r.1 == t))
    let addr := match hit with
      | r :: _ => r.2.1
      | [] => 0
    .trap { code := code, arg := 0, vs := vs, mask := if single then s.iss.mask else m
            face := if single then 0 else m &&& faceBMask (cg s), addr := addr, xpc := s.iss.w }

/-! ## Memory instructions -/

/-- An instruction that writes is suppressed in lanes that are not LIVE (R63). -/
def suppresses (k : MemKind) : Bool := isWrite k
/-- The element size (R226, R236). -/
def sizeOf (k : MemKind) (o : MOp) : Nat :=
  match k with
  | .rdc | .faddc => 8
  | .tlogLen | .tlogFlush => 1
  | .logStore => if o.p then 16 else o.ty.width / 8
  | _ => o.ty.width / 8

/-- The permission an operation needs (R203). -/
def needOf (k : MemKind) : Need :=
  match k with
  | .load | .gld | .rdc | .tlogLen => .r
  | .rmw _ true => .rw
  | _ => .w

def formOf (k : MemKind) (loc : Bool) (o : MOp) : MemForm :=
  { loc := loc, size := sizeOf k o, need := needOf k, align := k != .tlogFlush
    lock := if k == .tlogFlush then none else some (isWrite k) }

/-- OFF of AM 0b00. -/
def offOf (o : MOp) : Word := o.off.signExtend 64

/-- ADDR(t) of R226; a `loc` index is read unsigned (R231). -/
def addrOf (s : State) (o : MOp) (loc : Bool) (n t : Nat) : Word :=
  let b := rs s o.base
  let x := readV (cg s) (field 7 o.off.toNat 7) t
  let lane : Word := BitVec.ofNat 64 (t * n)
  match o.am.toNat with
  | 0 => b + offOf o + (if o.d then 0 else lane)
  | 1 => b + (if loc then x.setWidth 64 else x.signExtend 64)
  | _ => b + (if o.d then 0 else lane)

/-- The single access of a group (D = 1, and `tlog.flush`). -/
def isSingle (k : MemKind) (o : MOp) : Bool := o.d || k == .tlogFlush

/-- The accesses a word makes: none where suppressed (R117, R228). -/
def memAddrs (s : State) (k : MemKind) (loc : Bool) (o : MOp) : List (Nat × Word) :=
  let n := sizeOf k o
  if isSingle k o then
    if suppresses k && liveActive s == 0 then []
    else [(0, if k == .tlogFlush then rs s o.base + offOf o else addrOf s o loc n 0)]
  else
    let e := effMask s o.m o.fq
    let e := if suppresses k then e &&& liveMask (cg s) else e
    (lanesOf e).map (fun t => (t, addrOf s o loc n t))

/-- The checks of an access but for range locks: at issue, which its word's checks come before, the other slot's engine command may have
registered its own since (R110). -/
def MemForm.unlocked (f : MemForm) : MemForm := { f with lock := none }

/-- The accesses of a memory instruction as checked at issue. -/
def memAccess (k : MemKind) (loc : Bool) (o : MOp) (s : State) : State × List (Nat × Word × Res Nat) :=
  accessAll (formOf k loc o) s (memAddrs s k loc o)

/-- A word of another path waits at issue where its operation could be performed only after the commit of the group's open region. -/
def commitHold (s : State) (k : MemKind) (loc : Bool) (size : Nat) (rs : List (Nat × Word × Res Nat)) : Bool :=
  let accs := rs.map (fun r => ({ thread := r.1, va := r.2.1, pa := r.2.2.toOption.getD 0, size := size, data := 0, data2 := 0, st := .pending } : Acc))
  isLc k && !inRegion s && regionOpen (cg s) && !accs.isEmpty
  && awaitsCommit (cg s) s.nextId (match k with | .rmw _ _ => true | _ => false) loc accs

/-- The issue checks of a memory instruction (R229), then what makes it wait. -/
def chkMem (k : MemKind) (loc : Bool) (o : MOp) (s : State) : Chk :=
  let r := (memAccess k loc o s).2
  match accessChk s true (isSingle k o) r with
  | .pass => if commitHold s k loc (sizeOf k o) r then .wait else .pass
  | c => c

/-- The operand of a thread's write, and the comparand or the upper half of a pair (R230, R232, R236). -/
def memData (s : State) (k : MemKind) (o : MOp) (t : Nat) : Word × Word :=
  let sd : SReg := BitVec.ofNat 6 o.data.toNat
  let d := if o.d then rs s sd else (readV (cg s) o.data t).setWidth 64
  let c := match k with
    | .rmw 7 _ => if o.d then rs s (BitVec.ofNat 6 o.off.toNat) else (readV (cg s) (BitVec.ofNat 7 o.off.toNat) t).setWidth 64
    | .logStore => if o.p then rs s (sd + 1) else 0
    | _ => 0
  (d, c)

/-- Where a load-class operation writes. -/
def destOf (k : MemKind) (o : MOp) : Dest :=
  if isLc k then (if o.d then .sreg (BitVec.ofNat 6 o.data.toNat) else .vreg o.data) else .none

/-- The accesses as they stand at issue. -/
def accsOf (s : State) (k : MemKind) (o : MOp) (rs : List (Nat × Word × Res Nat)) : List Acc :=
  rs.map (fun r =>
    let d := memData s k o r.1
    { thread := r.1, va := r.2.1, pa := match r.2.2 with | .ok p => p | .error _ => 0
      size := sizeOf k o, data := if isWrite k then d.1 else 0, data2 := d.2, st := .pending })

/-- An operation enters its queue and counts (R116, R117). -/
def enqueue (s : State) (q : QOp) : State :=
  let lc := isLc q.kind
  let n := if q.counted then 1 else 0
  updCg s (fun g =>
    if lc then { g with loadq := g.loadq ++ [q], lc := g.lc + n } else { g with storeq := g.storeq ++ [q], sc := g.sc + n })

/-! ## Issue -/

/-- The spin count of R52 for an operation. -/
def spinOf (g : Group) (k : MemKind) (loc : Bool) (accs : List Acc) : Group :=
  match k with
  | .load | .gld | .rdc | .tlogLen => countSpin g loc (accs.map (fun a => (a.va.toNat, a.size)))
  | .tlogFlush => g
  | _ => resetSpin g

/-- The operation of a word whose accesses passed their checks enters its queue. A member's store is held, and a member's returning
atomic is a read with a held write (R242). One without accesses has completed, and retires behind earlier ones (R117). -/
def issueOp (s : State) (k : MemKind) (loc : Bool) (ty : Ty) (dest : Dest) (rel : Bool) (accs : List Acc) : State :=
  let (s, id) := takeId s
  let member := inRegion s
  let q : QOp := { id := id, word := s.iss.w, path := s.iss.path, kind := k, ty := ty, accs := accs, dest := dest, loc := loc
                   held := member && !isLc k && !accs.isEmpty, counted := true, level := if loc then 1 else 0, appended := none
                   after := none, pair := none, quiet := false, member := member, rel := rel
                   readBy := none }
  let s := updCg s (fun g => spinOf g k loc accs)
  if accs.isEmpty then updCg (enqueue s q) retireEmpty
  else
  match k with
  | .rmw op true =>
    if member then
      let (s, id2) := takeId s
      let rd := { q with kind := .load, pair := some id2, accs := accs.map (fun a => { a with data := 0, data2 := 0 }) }
      let wr := { q with id := id2, kind := .rmw op false, dest := .none, held := true, counted := false }
      enqueue (enqueue s rd) wr
    else enqueue s q
  | _ => enqueue s q

/-- A memory instruction's meaning at issue. -/
def memIssue (s : State) (k : MemKind) (loc : Bool) (o : MOp) : State :=
  let r := accessAll (formOf k loc o).unlocked s (memAddrs s k loc o)
  issueOp r.1 k loc o.ty (destOf k o) (isWrite k && o.acc == 2) (accsOf s k o r.2)

/-- A memory instruction: its checks, then its issue. -/
def gateMem (i : Instr) (k : MemKind) (loc : Bool) (o : MOp) (s : State) : Host.Outcome State Fault Refusal :=
  gateWalk i (chkMem k loc o) (fun s => (memAccess k loc o s).1) (fun s => memIssue s k loc o) s

/-! ## Loads and stores (R230, R231) -/

def execLd (o : MOp) (s : State) : Host.Outcome State Fault Refusal :=
  gateMem (.ld o) .load false o s
def execLdv (o : MOp) (s : State) : Host.Outcome State Fault Refusal :=
  gateMem (.ldv o) .load false o s
def execLds (o : MOp) (s : State) : Host.Outcome State Fault Refusal :=
  gateMem (.lds o) .load true o s
def execLdsv (o : MOp) (s : State) : Host.Outcome State Fault Refusal :=
  gateMem (.ldsv o) .load true o s
def execSt (o : MOp) (s : State) : Host.Outcome State Fault Refusal :=
  gateMem (.st o) .store false o s
def execStv (o : MOp) (s : State) : Host.Outcome State Fault Refusal :=
  gateMem (.stv o) .store false o s
def execSts (o : MOp) (s : State) : Host.Outcome State Fault Refusal :=
  gateMem (.sts o) .store true o s
def execStsv (o : MOp) (s : State) : Host.Outcome State Fault Refusal :=
  gateMem (.stsv o) .store true o s

/-! ## Pairs and tile logs (R234 to R238) -/

def execRdc (o : MOp) (s : State) : Host.Outcome State Fault Refusal :=
  gateMem (.rdc o) .rdc false o s
def execStLog (o : MOp) (s : State) : Host.Outcome State Fault Refusal :=
  gateMem (.stLog o) .logStore false o s
def execTlogFlush (o : MOp) (s : State) : Host.Outcome State Fault Refusal :=
  gateMem (.tlogFlush o) .tlogFlush false o s
def execTlogLen (o : MOp) (s : State) : Host.Outcome State Fault Refusal :=
  gateMem (.tlogLen o) .tlogLen false o s

/-! ## Returning atomics and reductions (R232, R233) -/

def execAtomAdd (o : MOp) (s : State) : Host.Outcome State Fault Refusal :=
  gateMem (.atomAdd o) (.rmw 0 true) false o s
def execAtomMin (o : MOp) (s : State) : Host.Outcome State Fault Refusal :=
  gateMem (.atomMin o) (.rmw 1 true) false o s
def execAtomMax (o : MOp) (s : State) : Host.Outcome State Fault Refusal :=
  gateMem (.atomMax o) (.rmw 2 true) false o s
def execAtomAnd (o : MOp) (s : State) : Host.Outcome State Fault Refusal :=
  gateMem (.atomAnd o) (.rmw 3 true) false o s
def execAtomOr (o : MOp) (s : State) : Host.Outcome State Fault Refusal :=
  gateMem (.atomOr o) (.rmw 4 true) false o s
def execAtomXor (o : MOp) (s : State) : Host.Outcome State Fault Refusal :=
  gateMem (.atomXor o) (.rmw 5 true) false o s
def execAtomXchg (o : MOp) (s : State) : Host.Outcome State Fault Refusal :=
  gateMem (.atomXchg o) (.rmw 6 true) false o s
def execAtomCas (o : MOp) (s : State) : Host.Outcome State Fault Refusal :=
  gateMem (.atomCas o) (.rmw 7 true) false o s
def execRedAdd (o : MOp) (s : State) : Host.Outcome State Fault Refusal :=
  gateMem (.redAdd o) (.rmw 0 false) false o s
def execRedMin (o : MOp) (s : State) : Host.Outcome State Fault Refusal :=
  gateMem (.redMin o) (.rmw 1 false) false o s
def execRedMax (o : MOp) (s : State) : Host.Outcome State Fault Refusal :=
  gateMem (.redMax o) (.rmw 2 false) false o s
def execRedAnd (o : MOp) (s : State) : Host.Outcome State Fault Refusal :=
  gateMem (.redAnd o) (.rmw 3 false) false o s
def execRedOr (o : MOp) (s : State) : Host.Outcome State Fault Refusal :=
  gateMem (.redOr o) (.rmw 4 false) false o s
def execRedXor (o : MOp) (s : State) : Host.Outcome State Fault Refusal :=
  gateMem (.redXor o) (.rmw 5 false) false o s
def execRedFadd (o : MOp) (s : State) : Host.Outcome State Fault Refusal :=
  gateMem (.redFadd o) .fadd false o s
def execRedFaddc (o : MOp) (s : State) : Host.Outcome State Fault Refusal :=
  gateMem (.redFaddc o) .faddc false o s

/-! ## g.ld (R180) -/

/-- `g.ld` behaves as a scalar load of its width. -/
def gldForm (code : CmpCode) : MemForm := { loc := false, size := 2 ^ code.wid.toNat, need := .r, align := true, lock := some false }
def gldAddr (s : State) (a : SReg) (off : BitVec 15) : Word := rs s a + off.signExtend 64

def gldAccess (a : SReg) (off : BitVec 15) (code : CmpCode) (s : State) : State × List (Nat × Word × Res Nat) :=
  accessAll (gldForm code) s [(0, gldAddr s a off)]
def chkGLd (a : SReg) (off : BitVec 15) (code : CmpCode) (s : State) : Chk :=
  let r := (gldAccess a off code s).2
  match accessChk s false true r with
  | .pass => if commitHold s .gld false (2 ^ code.wid.toNat) r then .wait else .pass
  | c => c

/-- The load enters the load queue; slot K is unresolved until the load resolves it (R64, R180). -/
def gldIssue (s : State) (k : GReg) (a b : SReg) (off : BitVec 15) (code : CmpCode) : State :=
  let va := gldAddr s a off
  let r := accessOne s (gldForm code).unlocked va
  let pa := match r.2 with
    | .ok p => p
    | .error _ => 0
  let acc : Acc := { thread := 0, va := va, pa := pa, size := 2 ^ code.wid.toNat, data := 0, data2 := 0, st := .pending }
  issueOp (updCg r.1 (fun g => writeGuard g k .unres)) .gld false .z64 (.guard k code (rs s b)) false [acc]

def execGLd (k : GReg) (a b : SReg) (off : BitVec 15) (scope : BitVec 3) (acc : BitVec 2) (code : CmpCode) (s : State) :
    Host.Outcome State Fault Refusal :=
  gateWalk (.gLd k a b off scope acc code) (chkGLd a off code) (fun s => (gldAccess a off code s).1)
    (fun s => gldIssue s k a b off code) s

/-! ## fence and waitw (R239, R240) -/

def execFence (o : MOp) (s : State) : Host.Outcome State Fault Refusal :=
  gate (.fence o) noCheck (fun s => addWait s (.fence s.nextId)) s

/-- `waitw` reads one word of its width. -/
def waitwForm (o : MOp) : MemForm := { loc := o.p, size := o.ty.width / 8, need := .r, align := true, lock := some false }
def waitwAccess (o : MOp) (s : State) : State × List (Nat × Word × Res Nat) := accessAll (waitwForm o) s [(0, rs s o.base + offOf o)]
def chkWaitw (o : MOp) (s : State) : Chk := accessChk s true true (waitwAccess o s).2

def waitw (s : State) (o : MOp) : State :=
  let v := BitVec.ofNat 64 (bits (rs s (BitVec.ofNat 6 o.data.toNat)).toNat 0 o.ty.width)
  let (s, id) := takeId (waitwAccess o s).1
  addWait (updCg s resetSpin) (.waitw (rs s o.base + offOf o) (o.ty.width / 8) o.p v id)

def execWaitw (o : MOp) (s : State) : Host.Outcome State Fault Refusal :=
  gateWalk (.waitw o) (chkWaitw o) (fun s => (waitwAccess o s).1) (fun s => waitw s o) s

/-! ## pf and ipf (R222, R246) -/

/-- `pf`: the tile becomes resident; dropped without fault, and by a member of an open region (R242). One of a poisoned tile, or whose fetch meets an
uncorrectable error, is dropped too: R246 does not list it, and R216 speaks of accesses that trap. DESIGN CHOICE (notes/assumptions/27.md). -/
def pf (s : State) (o : MOp) : State :=
  let va := rs s o.base + offOf o
  if inRegion s then s
  else
    match translate s (groupWalk s va) .r with
    | (s, .error _) => s
    | (s, .ok pa) =>
      let s := noteLevel s s.iss.gid s.nextId (levelAt s (dieOf s.iss.gid.core) pa)
      let m : Master := { ident := idCore s.iss.gid.core, ctx := some (s.launch s.iss.gid.tag).ctx }
      if !permitted s m pa .r then s
      else
        match locate s.part pa with
        | .slice _ q =>
          if (s.tile (q / 4096)).poisoned then s else fetchNow s (some s.iss.gid) (q / 4096) s.iss.gid.tag
        | _ => s

def execPf (o : MOp) (s : State) : Host.Outcome State Fault Refusal := gate (.pf o) noCheck (fun s => pf s o) s

/-- `ipf`: fills are requested for [A, A + min(length, 65,536)); they arrive in CHUTE_FILL. -/
def ipf (s : State) (o : MOp) : State :=
  let va := rs s o.base + offOf o
  let n := min (rs s (BitVec.ofNat 6 o.data.toNat)).toNat 65536
  if inRegion s || n == 0 then s
  else
    let a := va.toNat / 128
    let ls := (List.range ((va.toNat + n - 1) / 128 - a + 1)).map (fun i => ((s.launch s.iss.gid.tag).ctx, a + i))
    s.updCore s.iss.gid.core (fun c => { c with fills := c.fills ++ ls.filter (fun x => !c.fills.contains x) })

def execIpf (o : MOp) (s : State) : Host.Outcome State Fault Refusal := gate (.ipf o) noCheck (fun s => ipf s o) s

end Sys2Proof.Machine
end

