-- ==== Sys2Proof/Machine/Elide.lean ====
section
/-!
DEFINITION. Lock elision at issue (R241 to R245). A region's abort is `abortRegion`; its commit is in
`Machine/MemEvents.lean`.
-/

namespace Sys2Proof.Machine

def elideForm (o : MOp) : MemForm := { loc := false, size := o.ty.width / 8, need := .r, align := true, lock := some false }

def elideAccess (o : MOp) (s : State) : State × List (Nat × Word × Res Nat) := accessAll (elideForm o) s [(0, rs s o.base)]

/-- The lock word's read takes its place among the group's loads: earlier ones, the reductions whose values it might see, stores that an earlier
load has read or that wait for a region's commit, and what a fence before it waits for have been performed (R199, R275, R277,
notes/assumptions/15.md). A member's passes over what waits for its region's commit. -/
def lockReadTurn (s : State) : Bool :=
  let g := cg s
  let mem := inRegion s
  loadsDone g s.nextId mem && !fenceHolds g s.nextId mem
  && g.storeq.all (fun o => settled o || (if behindHeld g o then mem else !isRmwStore o.kind && !wasRead s.nextId o))

/-- The issue checks of the lock word's read (R229); the word waits for the read's turn. -/
def chkElide (o : MOp) (s : State) : Chk :=
  match accessChk s true true (elideAccess o s).2 with
  | .pass => if lockReadTurn s then .pass else .wait
  | c => c

/-- The lock word as the group reads it: the read applies the tile's log and sees the group's own queued stores
(notes/assumptions/15.md). The answer is its value and physical address, or a fault found at the target. -/
def lockRead (s : State) (o : MOp) : State × Res (Nat × Nat) :=
  let va := rs s o.base
  let n := o.ty.width / 8
  match accessOne s (elideForm o).unlocked va with
  | (s, .error c) => (s, .error c)
  | (s, .ok pa) =>
    let s := noteLevel s s.iss.gid s.nextId (levelAt s (dieOf s.iss.gid.core) pa)
    let m : Master := { ident := idCore s.iss.gid.core, ctx := some (s.launch s.iss.gid.tag).ctx }
    match physReadAs (some s.iss.gid) .r s m s.iss.gid.tag pa n with
    | (s, .error c) => (s, .error c)
    | (s, .ok b) =>
      let a : Acc := { thread := 0, va := va, pa := pa, size := n, data := 0, data2 := 0, st := .pending }
      (updCg s (fun g => markRead g s.nextId false a), .ok (groupValue (cg s) s.nextId false a (ofBytes b), pa))

/-- The slot K that an elide resolves: DATA bits 3:0 (R241). -/
def elideK (o : MOp) : GReg := field 4 o.data.toNat 0
/-- The fallback F. -/
def elideF (s : State) (o : MOp) : Word := relTarget s.iss.w o.off.toInt

/-- ELIDE while a region is open: flattened into it. -/
def elideNested (s : State) (o : MOp) (r : Region) (x pa : Nat) : State :=
  let gid := s.iss.gid
  let line := pa / 128
  let add := !r.reads.contains line
  if add && r.reads.length == 32 then endWord (abortRegion s gid 3 0)
  else
    let r := if add then { r with reads := r.reads ++ [line] } else r
    let s := updCg s (fun g => { g with region := some r })
    if x != 0 then endWord (abortRegion s gid 9 0)
    else if r.nest == 31 then endWord (abortRegion s gid 3 0)
    else
      let s := updCg s (fun g => { g with region := some { r with nest := r.nest + 1 } })
      resolveGuard s gid (elideK o) true

/-- ELIDE with no region open. -/
def elideOpen (s : State) (o : MOp) (x pa : Nat) : State :=
  let gid := s.iss.gid
  if x != 0 then
    goTo (resolveGuard (updCg s (fun g => { g with elcause := 9 })) gid (elideK o) false) (elideF s o)
  else
    let g := cg s
    let r : Region := { fallback := elideF s o, k := elideK o, path := s.iss.path, mask := s.iss.mask
                        nsplit := g.split.map (fun p => p.1), nface := g.face.length, nloop := g.loops.length, nest := 0
                        reads := [pa / 128], members := [s.iss.path], start := s.nextId }
    resolveGuard (updCg s (fun g => { g with region := some r, elcause := 0 })) gid (elideK o) true

/-- `elide`. A fault of the lock word's read at its target aborts a member's region (R243); else it opens no region and is held as a
class A fault, and the path goes on at the fallback (notes/assumptions/15.md). -/
def elide (s : State) (o : MOp) : State :=
  match lockRead s o with
  | (s, .error c) =>
    if inRegion s then endWord (abortRegion s s.iss.gid 7 (BitVec.ofNat 8 c))
    else
    let s := holdEvent s s.iss.gid { code := c, arg := 0, addr := rs s o.base }
    goTo (resolveGuard s s.iss.gid (elideK o) false) (elideF s o)
  | (s, .ok (x, pa)) =>
    match (cg s).region with
    | some r => elideNested s o r x pa
    | none => elideOpen s o x pa

def execElide (o : MOp) (s : State) : Host.Outcome State Fault Refusal :=
  gateWalk (.elide o) (chkElide o) (fun s => (elideAccess o s).1) (fun s => elide s o) s

/-- `elidend` (R245): one level less, or the member waits for the commit. -/
def elidend (s : State) : State :=
  match (cg s).region with
  | none => s
  | some r =>
    if !r.members.contains s.iss.path then s
    else if 0 < r.nest then updCg s (fun g => { g with region := some { r with nest := r.nest - 1 } })
    else addWait s .elidend

def execElidend (o : MOp) (s : State) : Host.Outcome State Fault Refusal := gate (.elidend o) noCheck elidend s

/-- `eliabort e` (R244): CAUSE 6 when a member issues it, else no effect. -/
def execEliabort (o : MOp) (s : State) : Host.Outcome State Fault Refusal :=
  gate (.eliabort o) noCheck
    (fun s => if inRegion s then endWord (abortRegion s s.iss.gid 6 (field 8 o.off.toNat 0)) else s) s

end Sys2Proof.Machine
end

