-- ==== Sys2Proof/Machine/Matrix.lean ====
section
/-!
DEFINITION. The matrix instructions at issue (R283 to R293). An operation enters the core's tile-operation queue; its steps
are in `Machine/EngineEvents.lean`.
-/

namespace Sys2Proof.Machine

/-- The format of a matrix operand. -/
inductive MFmt
  | qb (w : Nat) | bf16 | f16 | f32
  deriving DecidableEq, Repr

/-- FMT's AF and BF codes (R133). -/
def mfmtOf (code : Nat) : MFmt := if code == 10 then .bf16 else .qb code
/-- The TYPE of `m.ld` and `m.st` (R286). -/
def mfmtTy (t : Ty) (w : Nat) : MFmt :=
  match t with
  | .f32 => .f32
  | .f16 => .f16
  | .bf16 => .bf16
  | _ => .qb w

/-- base + n × stride, both as the 64-bit registers hold them. -/
def rowAt (d : Desc) (n : Nat) : Word := d.base + d.stride * BitVec.ofNat 64 n
/-- nb of an operand whose blocks take `cb` bytes (R284, R288). -/
def nbOf (d : Desc) (cb : Nat) : Int := d.stride.toInt / (cb : Int)
/-- The exponent byte of block b of row i. -/
def expAt (d : Desc) (w i b : Nat) : Word := d.base + d.off + BitVec.ofInt 64 ((i : Int) * nbOf d (2 * w) + (b : Int))

/-- Row i of an operand whose rows run along K or along a tile row: `n` values from value k on (R284). -/
def rowPieces (f : MFmt) (d : Desc) (i k n : Nat) : List Piece :=
  match f with
  | .qb w => [(rowAt d i + BitVec.ofNat 64 (2 * w * (k / 16)), 2 * w * (n / 16)), (expAt d w i (k / 16), n / 16)]
  | .f32 => [(rowAt d i + BitVec.ofNat 64 (4 * k), 4 * n)]
  | _ => [(rowAt d i + BitVec.ofNat 64 (2 * k), 2 * n)]

/-- Bytes of a block of B and the bytes of its positions: all sixteen mantissas, or N of sixteen (R288). -/
structure BForm where
  w : Nat
  n : Option Nat
  deriving DecidableEq, Repr

def BForm.cb (b : BForm) : Nat :=
  match b.n with
  | some n => n * b.w / 8
  | none => 2 * b.w

/-- Flat block f of a QB operand B: mantissas, exponent, and positions when sparse (R284, R288). -/
def bBlock (b : BForm) (d : Desc) (ival : Word) (f : Nat) : List Piece :=
  let nb := (nbOf d b.cb).toNat
  [(rowAt d (f / nb) + BitVec.ofNat 64 (b.cb * (f % nb)), b.cb), (d.base + d.off + BitVec.ofNat 64 f, 1)]
  ++ (match b.n with
    | some n => [(d.base + ival + BitVec.ofNat 64 (n / 2 * f), n / 2)]
    | none => [])

/-- All of B for K values. The stride of a QB operand is nb blocks exactly, so its planes are runs without gaps. -/
def bPieces (f : MFmt) (d : Desc) (n : Option Nat) (ival : Word) (k : Nat) : List Piece :=
  match f with
  | .qb w =>
    let b : BForm := { w := w, n := n }
    let blocks := 64 * (k / 16)
    [(d.base, b.cb * blocks), (d.base + d.off, blocks)]
    ++ (match n with
      | some n => [(d.base + ival, n / 2 * blocks)]
      | none => [])
  | _ => (List.range k).map (fun i => (rowAt d i, 128))

/-- Rows of a mask as an operand of `n` values a row. -/
def rowsPieces (f : MFmt) (d : Desc) (rows : Word) (n : Nat) : List Piece :=
  (lanesOf rows).flatMap (fun i => rowPieces f d i 0 n)

/-- The stride and base of an operand lie on its unit (R285 check 2). -/
def misaligned (f : MFmt) (cb : Nat) (d : Desc) : Bool :=
  match f with
  | .qb _ => d.stride.toInt % (cb : Int) != 0
  | .f32 => d.stride.toInt % 4 != 0 || d.base.toNat % 4 != 0
  | _ => d.stride.toInt % 2 != 0 || d.base.toNat % 2 != 0

def cbOf : MFmt → Nat
  | .qb w => 2 * w
  | _ => 2

/-- Checks 3 and 4 of R285 for operands (descriptor and runs), in that order. -/
def addrFails (s : State) (ops : List (Desc × List Piece)) : List (Bool × Nat × Word) :=
  let l := s.launch s.iss.gid.tag
  ops.map (fun o => (!o.1.loc && o.2.any (fun p => !pieceCanonical p), 0x08, o.1.base))
  ++ ops.map (fun o => (o.1.loc && o.2.any (fun p => !spOk l p.1 p.2), 0x0F, o.1.base))

/-- The selected rows S (R283), and those whose thread is LIVE. -/
def rowsNow (s : State) : Word := s.iss.mask
def liveRows (s : State) : Word := s.iss.mask &&& liveMask (cg s)

/-- An operation with nothing to do completes at once (R283, R117). Where every row of S is HELPER, R283 has every operation but `m.st`
compute, and R306 gives an all-HELPER engine command no effect; the model follows R283. DESIGN CHOICE (notes/assumptions/25.md). -/
def tileNothing (s : State) (i : Instr) : Bool := nothingToDo i (rowsNow s) (liveRows s)

/-! ## m.mma and m.mmas (R287, R288) -/

/-- N of `m.mmas` (R286). -/
def sparseN (nc : BitVec 2) : Nat := 2 * 2 ^ nc.toNat

def fmtA (s : State) : MFmt := mfmtOf (fmtAf (fmtNow s))
def fmtB (s : State) : MFmt := mfmtOf (fmtBf (fmtNow s))
def qbWidth : MFmt → Nat
  | .qb w => w
  | _ => 0

/-- The operands of a product with their runs. -/
def mmaOperands (s : State) (a b k : SReg) (la lb : Bool) (n : Option Nat) (ival : Word) : List (Desc × List Piece) :=
  let da := readDesc s a la
  let db := readDesc s b lb
  let kv := (rs s k).toNat
  [(da, rowsPieces (fmtA s) da (rowsNow s) kv), (db, bPieces (fmtB s) db n ival kv)]

/-- A product's read locks (R292). -/
def mmaLocks (ops : List (Desc × List Piece)) : List LockReq := ops.flatMap (fun o => lockReq o.1.loc false o.2)

/-- The checks of a product in the order of R285; `bad` is what `m.mmas` adds to the first. -/
def chkMma (a b k : SReg) (la lb : Bool) (n : Option Nat) (ival : State → Word) (bad : State → Bool) (i : Instr)
    (s : State) : Chk :=
  let kv := (rs s k).toNat
  let da := readDesc s a la
  let db := readDesc s b lb
  let isQb := match fmtB s with
    | .qb _ => true
    | _ => false
  let cb := match n with
    | some n => n * qbWidth (fmtB s) / 8
    | none => cbOf (fmtB s)
  let ops := mmaOperands s a b k la lb n (ival s)
  (firstFail s
    [(bad s || kv % 16 != 0 || decide (kv < 16) || decide (1048576 < kv) || (isQb && decide (db.stride.toInt ≤ 0)), 0x03, 0),
     (misaligned (fmtA s) (cbOf (fmtA s)) da, 0x0D, da.base), (misaligned (fmtB s) cb db, 0x0D, db.base)]).andThen
  ((firstFail s (addrFails s ops)).andThen (if tileNothing s i then .pass else chkLocks s (mmaLocks ops)))

/-! ## Enqueueing -/

/-- A tile operation with nothing but its selection. -/
def tileOp (s : State) (i : Instr) : TileOp :=
  let z : Desc := { base := 0, stride := 0, off := 0, loc := false }
  { id := 0, grp := s.iss.gid.grp, word := s.iss.w, op := i, rows := rowsNow s, live := liveRows s, fmt := fmtNow s
    da := z, db := z, kval := 0, ival := 0, vals := [], bind := bindOf s, next := 0, begun := false, flags := 0, fault := none }

/-- The operation enters the tile-operation queue with its locks and counts (R116, R220). One with nothing to do registers no lock, has
completed, and retires behind earlier ones of its group (R117). -/
def tileIssue (s : State) (o : TileOp) (rs : List LockReq) : State :=
  let id := s.nextId
  let s := { s with nextId := id + 1 }
  let s := s.updWg s.iss.gid.tag s.iss.gid.core (fun w =>
    { w with tileq := w.tileq ++ [{ o with id := id }], locks := w.locks ++ (if o.idle then [] else locksOf id rs) })
  let s := updCg s (fun g => { g with tc := g.tc + 1 })
  if o.idle then retireEngines s s.iss.gid.tag s.iss.gid.core else s

def execMZero (d : AReg) (s : State) : Host.Outcome State Fault Refusal :=
  gate (.mZero d) noCheck (fun s => tileIssue s (tileOp s (.mZero d)) []) s

/-- A product at issue. -/
def mmaIssue (s : State) (i : Instr) (a b k : SReg) (la lb : Bool) (n : Option Nat) (ival : Word) : State :=
  tileIssue s
    { tileOp s i with da := readDesc s a la, db := readDesc s b lb, kval := (rs s k).toNat, ival := ival }
    (mmaLocks (mmaOperands s a b k la lb n ival))

def chkMMma (d : AReg) (a b k : SReg) (la lb : Bool) (s : State) : Chk :=
  chkMma a b k la lb none (fun _ => 0) (fun _ => false) (.mMma d a b k la lb) s

def execMMma (d : AReg) (a b k : SReg) (la lb : Bool) (s : State) : Host.Outcome State Fault Refusal :=
  gate (.mMma d a b k la lb) (chkMMma d a b k la lb) (fun s => mmaIssue s (.mMma d a b k la lb) a b k la lb none 0) s

/-- Both formats must be QB, and the mantissas of a block whole bytes (R288). -/
def sparseBad (nc : BitVec 2) (s : State) : Bool :=
  qbWidth (fmtA s) == 0 || qbWidth (fmtB s) == 0 || sparseN nc * qbWidth (fmtB s) % 8 != 0

def chkMMmas (d : AReg) (a b k : SReg) (la lb : Bool) (i : SReg) (nc : BitVec 2) (s : State) : Chk :=
  chkMma a b k la lb (some (sparseN nc)) (fun s => rs s i) (sparseBad nc) (.mMmas d a b k la lb i nc) s

def execMMmas (d : AReg) (a b k : SReg) (la lb : Bool) (i : SReg) (nc : BitVec 2) (s : State) :
    Host.Outcome State Fault Refusal :=
  gate (.mMmas d a b k la lb i nc) (chkMMmas d a b k la lb i nc)
    (fun s => mmaIssue s (.mMmas d a b k la lb i nc) a b k la lb (some (sparseN nc)) (rs s i)) s

/-! ## m.ld and m.st (R289) -/

/-- The rows of memory that a transfer touches: those of S, for `m.st` those whose thread is LIVE (R63, R289). -/
def transferRows (s : State) (wr : Bool) : Word := if wr then liveRows s else rowsNow s
/-- The lock of a transfer, on the span of the selected rows (R292). -/
def transferLocks (s : State) (f : MFmt) (d : Desc) (wr : Bool) : List LockReq :=
  lockReq d.loc wr (rowsPieces f d (rowsNow s) 64)

def chkTransfer (a : SReg) (ty : Ty) (w : BitVec 4) (loc wr : Bool) (i : Instr) (s : State) : Chk :=
  let f := mfmtTy ty w.toNat
  let d := readDesc s a loc
  (firstFail s ((misaligned f (cbOf f) d, 0x0D, d.base) ::
    addrFails s [(d, rowsPieces f d (transferRows s wr) 64)])).andThen
  (if tileNothing s i then .pass else chkLocks s (transferLocks s f d wr))

def transferIssue (s : State) (i : Instr) (a : SReg) (ty : Ty) (w : BitVec 4) (loc wr : Bool) : State :=
  let d := readDesc s a loc
  tileIssue s { tileOp s i with da := d } (transferLocks s (mfmtTy ty w.toNat) d wr)

def execMLd (d : AReg) (a : SReg) (ty : Ty) (w : BitVec 4) (l : Bool) (s : State) : Host.Outcome State Fault Refusal :=
  gate (.mLd d a ty w l) (chkTransfer a ty w l false (.mLd d a ty w l))
    (fun s => transferIssue s (.mLd d a ty w l) a ty w l false) s

def execMSt (d : AReg) (a : SReg) (ty : Ty) (w : BitVec 4) (l : Bool) (s : State) : Host.Outcome State Fault Refusal :=
  gate (.mSt d a ty w l) (chkTransfer a ty w l true (.mSt d a ty w l))
    (fun s => transferIssue s (.mSt d a ty w l) a ty w l true) s

/-! ## Constant matrices (R290) -/

def execMXpose (d a : AReg) (s : State) : Host.Outcome State Fault Refusal :=
  gate (.mXpose d a) noCheck (fun s => tileIssue s (tileOp s (.mXpose d a)) []) s

/-- MODE 3 or a bit outside AMT and MODE traps RESERVED_FIELD. -/
def chkPerm (p : SReg) (s : State) : Chk :=
  let v := (rs s p).toNat
  firstFail s [(bits v 8 2 == 3 || bits v 6 2 != 0 || v / 1024 != 0, 0x03, 0)]

def execMPerm (d a : AReg) (p : SReg) (s : State) : Host.Outcome State Fault Refusal :=
  gate (.mPerm d a p) (chkPerm p) (fun s => tileIssue s { tileOp s (.mPerm d a p) with ival := rs s p } []) s

def execMRsum (d a : AReg) (s : State) : Host.Outcome State Fault Refusal :=
  gate (.mRsum d a) noCheck (fun s => tileIssue s (tileOp s (.mRsum d a)) []) s

def execMScale (d a : AReg) (v : VReg) (s : State) : Host.Outcome State Fault Refusal :=
  gate (.mScale d a v) noCheck
    (fun s => tileIssue s { tileOp s (.mScale d a v) with vals := lanes.map (readV (cg s) v) } []) s

end Sys2Proof.Machine
end

