-- ==== Sys2Proof/Machine/Control.lean ====
section
/-!
DEFINITION. Scalar control transfer, the counted loop and end (R138 to R144, R146), with face calls and their return
(R259, R260).
-/

namespace Sys2Proof.Machine

/-- The checks of a transfer to `t`: canonical; aligned when a register supplied it (R138); NEXTPC (R251); above the open
region, for the transfers R258 names the target, and for every one a loop-back of NEXTPC. -/
def jumpCodes (s : State) (reg meld : Bool) (t : Word) : List (Bool × Nat) :=
  let g := cg s
  [(!canonical t, 0x08), (reg && t &&& 15 != 0, 0x0D), (loopTrap g s.iss.w t, 0x13),
   ((meld && aboveMeld g t) || loopBackAbove g s.iss.w t, 0x14)]

def chkJump (s : State) (reg meld : Bool) (t : Word) : Chk := lowestTrap s false (jumpCodes s reg meld t)

/-- The path goes on at the next word, through NEXTPC (R144). -/
def goFall (s : State) : State := goNext s (nextWord s)

/-! ## br, bcc, jmp, brx (R139) -/

def brTarget (s : State) (off : BitVec 38) : Word := relTarget s.iss.w off.toInt
def bccTarget (s : State) (off : BitVec 20) : Word := relTarget s.iss.w off.toInt
def jmpTarget (s : State) (a : SReg) (imm : BitVec 32) : Word := rs s a + sext32 imm
/-- brx is taken when b < LIMIT, unsigned. -/
def brxTaken (s : State) (b : SReg) (limit : BitVec 20) : Bool := decide ((rs s b).toNat < limit.toNat)
def brxTarget (s : State) (a b : SReg) : Word := rs s a + 16 * rs s b

def chkBr (off : BitVec 38) (s : State) : Chk := chkJump s false true (brTarget s off)
def chkBcc (a b : SReg) (code : CmpCode) (off : BitVec 20) (s : State) : Chk :=
  if compare code (rs s a) (rs s b) then chkJump s false true (bccTarget s off) else chkFall s
def chkJmp (a : SReg) (imm : BitVec 32) (s : State) : Chk := chkJump s true true (jmpTarget s a imm)
def chkBrx (a b : SReg) (limit : BitVec 20) (s : State) : Chk :=
  if brxTaken s b limit then chkJump s true true (brxTarget s a b) else chkFall s

def execBr (off : BitVec 38) (s : State) : Host.Outcome State Fault Refusal :=
  gate (.br off) (chkBr off) (fun s => goNext s (brTarget s off)) s
def execBcc (a b : SReg) (code : CmpCode) (off : BitVec 20) (s : State) : Host.Outcome State Fault Refusal :=
  gate (.bcc a b code off) (chkBcc a b code off)
    (fun s => if compare code (rs s a) (rs s b) then goNext s (bccTarget s off) else goFall s) s
def execJmp (a : SReg) (imm : BitVec 32) (s : State) : Host.Outcome State Fault Refusal :=
  gate (.jmp a imm) (chkJmp a imm) (fun s => goNext s (jmpTarget s a imm)) s
def execBrx (a b : SReg) (limit : BitVec 20) (s : State) : Host.Outcome State Fault Refusal :=
  gate (.brx a b limit) (chkBrx a b limit)
    (fun s => if brxTaken s b limit then goNext s (brxTarget s a b) else goFall s) s

/-! ## Calls and returns (R139, R140, R259, R260) -/

/-- The lanes of each face when a call is a face call: an open meld record, MT = 0 and both faces present (R259). -/
def faceSplit (s : State) (mt : Bool) : Option (Word × Word) :=
  match topMeld (cg s) with
  | some r =>
    let ma := s.iss.mask &&& r.facea
    let mb := s.iss.mask &&& ~~~r.facea
    if mt || ma == 0 || mb == 0 then none else some (ma, mb)
  | none => none

def chkCall (s : State) (reg mt : Bool) (t : Word) : Chk :=
  let g := cg s
  lowestTrap s false [(!canonical t, 0x08), (reg && t &&& 15 != 0, 0x0D),
    ((faceSplit s mt).isSome && (!g.split.isEmpty || decide (4 ≤ g.face.length)), 0x14)]

/-- CALL and FACECALL (R139, R259); NEXTPC is skipped (R144). -/
def callTo (s : State) (mt : Bool) (t : Word) : State :=
  let ret := afterUnit s.iss.w
  match faceSplit s mt with
  | none => goTo (ws s 62 ret) t
  | some (ma, mb) =>
    let s := updCg s (fun g =>
      let p := pathOf g s.iss.path
      let r : FaceRec := { facea := mb, entry := s.iss.mask, stop := t ||| 1, fmtc := p.fmt }
      putPath { g with face := r :: g.face } s.iss.path { p with mask := ma })
    goTo (ws s 62 (ret ||| 1)) t

def execCall (mt : Bool) (off : BitVec 38) (s : State) : Host.Outcome State Fault Refusal :=
  gate (.call mt off) (fun s => chkCall s false mt (brTarget s off)) (fun s => callTo s mt (brTarget s off)) s
def execCallx (mt : Bool) (a : SReg) (s : State) : Host.Outcome State Fault Refusal :=
  gate (.callx mt a) (fun s => chkCall s true mt (rs s a)) (fun s => callTo s mt (rs s a)) s

/-- RET's checks (R260); the return that ends a face call goes on with its record popped. -/
def chkRet (a : SReg) (s : State) : Chk :=
  let g := cg s
  let v := rs s a
  if v &&& 15 == 0 then chkJump s false false v
  else if v &&& 15 != 1 then lowestTrap s false [(!canonical v, 0x08), (true, 0x0D)]
  else
    match topCall g with
    | none => lowestTrap s false [(true, 0x14)]
    | some r =>
      if r.facea &&& ~~~g.gone != 0 then .pass
      else chkJump (updCg s (fun g => { g with face := g.face.tail })) false false (v &&& ~~~15)

/-- RET (R260). -/
def retFrom (s : State) (v : Word) : State :=
  let g := cg s
  let k := s.iss.path
  if v &&& 15 == 0 then goNext s v
  else
    match g.face with
    | [] => s
    | r :: rest =>
      let b := r.facea &&& ~~~g.gone
      let p := pathOf g k
      if b != 0 then
        let s := updCg s (fun g =>
          putPath { g with face := { r with facea := 0 } :: rest } k { p with mask := b, fmt := r.fmtc })
        goTo (ws s 62 v) (r.stop &&& ~~~15)
      else
        let s := updCg s (fun g =>
          putPath { g with face := rest } k { p with mask := r.entry &&& ~~~g.gone, fmt := r.fmtc })
        goNext s (v &&& ~~~15)

def execRet (a : SReg) (s : State) : Host.Outcome State Fault Refusal :=
  gate (.ret a) (chkRet a) (fun s => retFrom s (rs s a)) s

/-! ## loop.s (R141) -/

def chkLoopS (d : SReg) (off : BitVec 38) (s : State) : Chk :=
  let g := cg s
  let e := brTarget s off
  if !g.split.isEmpty then lowestTrap s false [(true, 0x13)]
  else if rs s d == 0 then chkJump s false false e
  else lowestTrap s false [(!canonical e, 0x08), (decide (4 ≤ g.loops.length), 0x13)]

/-- LOOPS. -/
def loopStart (s : State) (d : SReg) (off : BitVec 38) : State :=
  let e := brTarget s off
  let n := rs s d
  if n == 0 then goNext s e
  else
    let r : LoopRec := { kind := false, start := afterUnit s.iss.w, stop := e, count := n, entry := 0, regn := 0 }
    goTo (updCg s (fun g => { g with loops := r :: g.loops })) (afterUnit s.iss.w)

def execLoopS (d : SReg) (off : BitVec 38) (s : State) : Host.Outcome State Fault Refusal :=
  gate (.loopS d off) (chkLoopS d off) (fun s => loopStart s d off) s

/-! ## End (R146) -/

def execSEnd (s : State) : Host.Outcome State Fault Refusal :=
  gate .sEnd noCheck (fun s => endLanes s s.iss.mask) s

end Sys2Proof.Machine
end

