-- ==== Sys2Proof/Machine/Paths.lean ====
section
/-!
DEFINITION. Divergence and meld instructions (R248 to R264), row 0x0C of the vector slot.
-/

namespace Sys2Proof.Machine

def vjTarget (s : State) (off : BitVec 39) : Word := relTarget s.iss.w off.toInt

/-- The lanes of the active mask whose bit in mK is 1. -/
def branchLanes (s : State) (k : MReg) : Word := readM (cg s) k &&& s.iss.mask

/-- The faults of going on at NEXTPC(w, t) from the vector slot (R102, R251, R258). -/
def vGoCodes (s : State) (branch meld : Bool) (t : Word) : List (Bool × Nat) :=
  let g := cg s
  [(branch && !canonical t, 0x08), (loopTrap g s.iss.w t, 0x13),
   (loopBackAbove g s.iss.w t || (meld && aboveMeld g t), 0x14)]

/-! ## brv (R252) -/

/-- The lowest free entry of the split table. -/
def freeSplit (g : Group) : Option Nat := (List.range 8).find? (fun e => !g.split.any (fun p => p.1 == e + 1))

/-- NEXTPC would change the loop stack; a split makes that a trap (R251). -/
def loopMoves (g : Group) (w t : Word) : Bool := (nextPcGo w t g.loops).1 != g.loops

/-- A branch that is not taken makes no test of its target (R102). DESIGN CHOICE (notes/assumptions/9.md). -/
def chkBrv (k : MReg) (off : BitVec 39) (s : State) : Chk :=
  let g := cg s
  let b := branchLanes s k
  let t := vjTarget s off
  if b == 0 then lowestTrap s true (vGoCodes s false false (nextWord s))
  else if b == s.iss.mask then lowestTrap s true (vGoCodes s true false t)
  else lowestTrap s true [(!canonical t, 0x08), ((freeSplit g).isNone, 0x12),
    (loopMoves g s.iss.w t || loopMoves g s.iss.w (afterUnit s.iss.w), 0x13)]

/-- BRV. -/
def brv (s : State) (k : MReg) (off : BitVec 39) : State :=
  let b := branchLanes s k
  let t := vjTarget s off
  if b == 0 then goFall s
  else if b == s.iss.mask then goNext s t
  else
    match freeSplit (cg s) with
    | none => s
    | some e =>
      let s := updCg s (fun g =>
        let p := pathOf g s.iss.path
        let c : Path := { mask := b, pc := t, fmt := p.fmt, fmtc := p.fmt, parent := s.iss.path, mdep := g.face.length
                          ldep := g.loops.length, waits := [], excl := 0, bound := false }
        let g := putPath (putPath g s.iss.path { p with mask := s.iss.mask &&& ~~~b }) (e + 1) c
        { g with region := g.region.map (fun r =>
            if r.members.contains s.iss.path then { r with members := r.members ++ [e + 1] } else r) })
      goTo s (afterUnit s.iss.w)

def execBrv (k : MReg) (off : BitVec 39) (s : State) : Host.Outcome State Fault Refusal :=
  gate (.brv k off) (chkBrv k off) (fun s => brv s k off) s

/-! ## join and meldend (R253, R257) -/

/-- The undivided path, alone, passes at once. -/
def alone (s : State) : Bool := s.iss.path == 0 && (cg s).split.isEmpty

def chkJoin (s : State) : Chk := if alone s then lowestTrap s true (vGoCodes s false false (nextWord s)) else .pass

/-- The path stands at the word, until it fuses or passes: at the end of the word at the earliest (R253). -/
def stand (s : State) (w : Wait) : State := endWord (updPath s (fun p => { p with pc := s.iss.w, waits := p.waits ++ [w] }))

def execJoin (s : State) : Host.Outcome State Fault Refusal :=
  gate .join chkJoin (fun s => if alone s then goFall s else stand s (.join s.iss.w false)) s

/-- MELDEND's trap (R257), tested once no split-table entry is in use. -/
def chkMeldend (s : State) : Chk :=
  let g := cg s
  if alone s then
    let g' := { g with face := g.face.tail }
    lowestTrap s true [((closesAt g s.iss.w).isNone, 0x14), (loopBackAbove g' s.iss.w (nextWord s), 0x14)]
  else .pass

/-- MELDEND of the undivided path alone. -/
def meldClose (s : State) : State :=
  match closesAt (cg s) s.iss.w with
  | none => s
  | some r =>
    goFall (updCg s (fun g =>
      let p := pathOf g s.iss.path
      putPath { g with face := g.face.tail } s.iss.path { p with mask := r.entry &&& ~~~g.gone, fmt := r.fmtc }))

def execMeldend (s : State) : Host.Outcome State Fault Refusal :=
  gate .meldend chkMeldend (fun s => if alone s then meldClose s else stand s (.meldend s.iss.w false)) s

/-! ## meld (R255) -/

/-- MELD's checks: its target, then its two in the order R255 gives, then the word it goes on at. -/
def chkMeld (off : BitVec 39) (s : State) : Chk :=
  let g := cg s
  if !canonical (vjTarget s off) then lowestTrap s true [(true, 0x08)]
  else if !g.split.isEmpty || decide (4 ≤ g.face.length) then lowestTrap s true [(true, 0x14)]
  else lowestTrap s true (vGoCodes s false false (nextWord s))

/-- MELD. -/
def meld (s : State) (k : MReg) (off : BitVec 39) : State :=
  let a := s.iss.mask
  let s := goFall s
  updCg s (fun g =>
    let r : FaceRec := { facea := readM g k &&& a, entry := a, stop := vjTarget s off, fmtc := (pathOf g s.iss.path).fmt }
    { g with face := r :: g.face })

def execMeld (k : MReg) (off : BitVec 39) (s : State) : Host.Outcome State Fault Refusal :=
  gate (.meld k off) (chkMeld off) (fun s => meld s k off) s

/-! ## demote and exit (R264) -/

/-- X: the lanes that demote and exit act on. -/
def outLanes (s : State) (fq : FQ) (k : MReg) : Word := effMask s 0 fq &&& readM (cg s) k

/-- `demote` and `exit` go on at the next word. So does an `exit` that ends its path, for this test: the spec exempts none that executes a
word. DESIGN CHOICE (notes/assumptions/9.md). -/
def chkOut (s : State) : Chk := lowestTrap s true (vGoCodes s false false (nextWord s))

def execDemote (fq : FQ) (k : MReg) (s : State) : Host.Outcome State Fault Refusal :=
  gate (.demote fq k) chkOut
    (fun s =>
      let x := outLanes s fq k
      let s := goFall s
      retireIfDead (updCg s (fun g => { g with helper := g.helper ||| (x &&& ~~~g.gone) })) s.iss.gid) s
def execExit (fq : FQ) (k : MReg) (s : State) : Host.Outcome State Fault Refusal :=
  gate (.exit fq k) chkOut (fun s => let x := outLanes s fq k; endLanes (goFall s) x) s

/-! ## loopv and loopv.end (R262, R263) -/

/-- Lanes whose count is not 0. -/
def countLanes (g : Group) (v : VReg) (m : Word) : Word := maskOf (fun t => bit m t && readV g v t != 0)

def chkLoopv (v : VReg) (off : BitVec 39) (s : State) : Chk :=
  let g := cg s
  let e := vjTarget s off
  if !g.split.isEmpty then lowestTrap s true [(true, 0x13)]
  else if countLanes g v s.iss.mask == 0 then lowestTrap s true ((!canonical e, 0x08) :: vGoCodes s true false (e + 16))
  else lowestTrap s true [(!canonical e, 0x08), (decide (4 ≤ g.loops.length), 0x13)]

/-- LOOPV. -/
def loopv (s : State) (v : VReg) (off : BitVec 39) : State :=
  let e := vjTarget s off
  let c := countLanes (cg s) v s.iss.mask
  if c == 0 then goNext s (e + 16)
  else
    let w := s.iss.w
    let r : LoopRec := { kind := true, start := afterUnit w, stop := e, count := c, entry := s.iss.mask, regn := v }
    let s := updCg s (fun g =>
      let p := pathOf g s.iss.path
      putPath { g with loops := r :: g.loops } s.iss.path { p with mask := c })
    goTo s (afterUnit w)

def execLoopv (v : VReg) (off : BitVec 39) (s : State) : Host.Outcome State Fault Refusal :=
  gate (.loopv v off) (chkLoopv v off) (fun s => loopv s v off) s

/-- The top record, when it is the one that `loopv.end` at the word closes. -/
def loopTop (s : State) : Option (LoopRec × List LoopRec) :=
  let g := cg s
  match g.loops with
  | r :: rest => if r.kind && r.stop == unitOf s.iss.w && g.split.isEmpty then some (r, rest) else none
  | [] => none

/-- The lanes that go on iterating: those whose count is above 1. -/
def stillLooping (g : Group) (r : LoopRec) : Word :=
  maskOf (fun t => bit (r.count &&& ~~~g.gone) t && decide (1 < (readV g r.regn t).toNat))

def chkLoopvEnd (s : State) : Chk :=
  match loopTop s with
  | none => lowestTrap s true [(true, 0x13)]
  | some (r, rest) =>
    let g := { (cg s) with loops := rest }
    if stillLooping (cg s) r != 0 then .pass
    else lowestTrap s true [(loopBackAbove g s.iss.w (nextWord s), 0x14)]

/-- LOOPVEND. -/
def loopvEnd (s : State) : State :=
  match loopTop s with
  | none => s
  | some (r, rest) =>
    let g := cg s
    let live := r.count &&& ~~~g.gone
    let again := stillLooping g r
    let dec := (lanesOf live).filter (fun t => readV g r.regn t != 0)
    let s := updCg s (fun g => writeLanes g (fun _ => r.regn) (dec.map (fun t => (t, readV g r.regn t - 1))))
    if again != 0 then
      let s := updCg s (fun g =>
        let p := pathOf g s.iss.path
        putPath { g with loops := { r with count := again } :: rest } s.iss.path { p with mask := again })
      goTo s r.start
    else
      goFall (updCg s (fun g =>
        let p := pathOf g s.iss.path
        putPath { g with loops := rest } s.iss.path { p with mask := r.entry &&& ~~~g.gone }))

def execLoopvEnd (s : State) : Host.Outcome State Fault Refusal := gate .loopvEnd chkLoopvEnd loopvEnd s

/-! ## bany and ball (R254) -/

def banyTaken (s : State) (k : MReg) : Bool := branchLanes s k != 0
def ballTaken (s : State) (k : MReg) : Bool := branchLanes s k == s.iss.mask

def chkMaskBranch (taken : Bool) (off : BitVec 39) (s : State) : Chk :=
  lowestTrap s true (if taken then vGoCodes s true true (vjTarget s off) else vGoCodes s false false (nextWord s))

def maskBranch (s : State) (taken : Bool) (off : BitVec 39) : State :=
  if taken then goNext s (vjTarget s off) else goFall s

def execBany (k : MReg) (off : BitVec 39) (s : State) : Host.Outcome State Fault Refusal :=
  gate (.bany k off) (fun s => chkMaskBranch (banyTaken s k) off s) (fun s => maskBranch s (banyTaken s k) off) s
def execBall (k : MReg) (off : BitVec 39) (s : State) : Host.Outcome State Fault Refusal :=
  gate (.ball k off) (fun s => chkMaskBranch (ballTaken s k) off s) (fun s => maskBranch s (ballTaken s k) off) s

end Sys2Proof.Machine
end

