-- ==== Sys2Proof/Machine/Scalar.lean ====
section
/-!
DEFINITION. The scalar instructions that compute (R123 to R137), one meaning each.
-/

namespace Sys2Proof.Machine

/-! ## Arithmetic (R125, R126) -/

/-- Signed quotient, truncated toward zero; all ones for divisor 0 (R126). -/
def divS (a b : Word) : Word := if b = 0 then BitVec.allOnes 64 else BitVec.ofInt 64 (a.toInt.tdiv b.toInt)
/-- Unsigned quotient; all ones for divisor 0 (R126). -/
def divZ (a b : Word) : Word := if b = 0 then BitVec.allOnes 64 else BitVec.ofNat 64 (a.toNat / b.toNat)
/-- Signed remainder, with the sign of a; a for divisor 0 (R126). -/
def remS (a b : Word) : Word := if b = 0 then a else BitVec.ofInt 64 (a.toInt.tmod b.toInt)
/-- Unsigned remainder; a for divisor 0 (R126). -/
def remZ (a b : Word) : Word := if b = 0 then a else BitVec.ofNat 64 (a.toNat % b.toNat)
/-- The high 64 bits of a product (R125). -/
def mulHi (x y : Int) : Word := BitVec.ofInt 64 (x * y / 2 ^ 64)
/-- Leading zero bits of a w-bit number (R125, R151). -/
def clzOf (w a : Nat) : Nat := if a = 0 then w else w - 1 - a.log2
/-- One bits of a w-bit number. -/
def popcOf (w a : Nat) : Nat := ((List.range w).filter a.testBit).length

def execNop (s : State) : Host.Outcome State Fault Refusal := gate .nop noCheck (fun s => s) s
def execSAdd (d a b : SReg) (s : State) : Host.Outcome State Fault Refusal :=
  gate (.sAdd d a b) noCheck (fun s => scal2 s d a b (fun x y => x + y)) s
def execSSub (d a b : SReg) (s : State) : Host.Outcome State Fault Refusal :=
  gate (.sSub d a b) noCheck (fun s => scal2 s d a b (fun x y => x - y)) s
def execSAddi (d a : SReg) (imm : BitVec 32) (s : State) : Host.Outcome State Fault Refusal :=
  gate (.sAddi d a imm) noCheck (fun s => scal1 s d a (fun x => x + sext32 imm)) s
def execSMul (d a b : SReg) (s : State) : Host.Outcome State Fault Refusal :=
  gate (.sMul d a b) noCheck (fun s => scal2 s d a b (fun x y => x * y)) s
def execSMulh (d a b : SReg) (s : State) : Host.Outcome State Fault Refusal :=
  gate (.sMulh d a b) noCheck (fun s => scal2 s d a b (fun x y => mulHi x.toInt y.toInt)) s
def execSMulhz (d a b : SReg) (s : State) : Host.Outcome State Fault Refusal :=
  gate (.sMulhz d a b) noCheck (fun s => scal2 s d a b (fun x y => mulHi x.toNat y.toNat)) s
def execSDiv (d a b : SReg) (s : State) : Host.Outcome State Fault Refusal :=
  gate (.sDiv d a b) noCheck (fun s => scal2 s d a b divS) s
def execSDivz (d a b : SReg) (s : State) : Host.Outcome State Fault Refusal :=
  gate (.sDivz d a b) noCheck (fun s => scal2 s d a b divZ) s
def execSRem (d a b : SReg) (s : State) : Host.Outcome State Fault Refusal :=
  gate (.sRem d a b) noCheck (fun s => scal2 s d a b remS) s
def execSRemz (d a b : SReg) (s : State) : Host.Outcome State Fault Refusal :=
  gate (.sRemz d a b) noCheck (fun s => scal2 s d a b remZ) s
def execSAnd (d a b : SReg) (s : State) : Host.Outcome State Fault Refusal :=
  gate (.sAnd d a b) noCheck (fun s => scal2 s d a b (fun x y => x &&& y)) s
def execSOr (d a b : SReg) (s : State) : Host.Outcome State Fault Refusal :=
  gate (.sOr d a b) noCheck (fun s => scal2 s d a b (fun x y => x ||| y)) s
def execSXor (d a b : SReg) (s : State) : Host.Outcome State Fault Refusal :=
  gate (.sXor d a b) noCheck (fun s => scal2 s d a b (fun x y => x ^^^ y)) s
def execSAndi (d a : SReg) (imm : BitVec 32) (s : State) : Host.Outcome State Fault Refusal :=
  gate (.sAndi d a imm) noCheck (fun s => scal1 s d a (fun x => x &&& sext32 imm)) s
def execSOri (d a : SReg) (imm : BitVec 32) (s : State) : Host.Outcome State Fault Refusal :=
  gate (.sOri d a imm) noCheck (fun s => scal1 s d a (fun x => x ||| sext32 imm)) s
def execSXori (d a : SReg) (imm : BitVec 32) (s : State) : Host.Outcome State Fault Refusal :=
  gate (.sXori d a imm) noCheck (fun s => scal1 s d a (fun x => x ^^^ sext32 imm)) s
def execSNot (d a : SReg) (s : State) : Host.Outcome State Fault Refusal :=
  gate (.sNot d a) noCheck (fun s => scal1 s d a (fun x => ~~~x)) s

/-! ## Shifts and bit fields (R128, R129) -/

def execSShl (d a : SReg) (n : Cnt) (s : State) : Host.Outcome State Fault Refusal :=
  gate (.sShl d a n) noCheck (fun s => scal1 s d a (fun x => x <<< cntVal s n)) s
def execSShr (d a : SReg) (n : Cnt) (s : State) : Host.Outcome State Fault Refusal :=
  gate (.sShr d a n) noCheck (fun s => scal1 s d a (fun x => x >>> cntVal s n)) s
def execSSra (d a : SReg) (n : Cnt) (s : State) : Host.Outcome State Fault Refusal :=
  gate (.sSra d a n) noCheck (fun s => scal1 s d a (fun x => x.sshiftRight (cntVal s n))) s
def execSRot (d a : SReg) (n : Cnt) (s : State) : Host.Outcome State Fault Refusal :=
  gate (.sRot d a n) noCheck (fun s => scal1 s d a (fun x => x.rotateLeft (cntVal s n))) s
def execSClz (d a : SReg) (s : State) : Host.Outcome State Fault Refusal :=
  gate (.sClz d a) noCheck (fun s => scal1 s d a (fun x => BitVec.ofNat 64 (clzOf 64 x.toNat))) s
def execSPopc (d a : SReg) (s : State) : Host.Outcome State Fault Refusal :=
  gate (.sPopc d a) noCheck (fun s => scal1 s d a (fun x => BitVec.ofNat 64 (popcOf 64 x.toNat))) s

/-- Bits pos + len − 1 … pos of a, extended to 64 bits (R129). -/
def bfxOf (sx : Bool) (len pos : Nat) (a : Word) : Word :=
  let v := bits a.toNat pos len
  if sx then BitVec.ofInt 64 (signedBits len v) else BitVec.ofNat 64 v

/-- The low len bits of a put at pos of d (R129). -/
def bfiOf (len pos : Nat) (d a : Word) : Word :=
  let hole : Word := BitVec.ofNat 64 ((2 ^ len - 1) * 2 ^ pos)
  (d &&& ~~~hole) ||| ((a <<< pos) &&& hole)

def execSBfx (d a : SReg) (sx : Bool) (len : BitVec 7) (pos : BitVec 6) (s : State) : Host.Outcome State Fault Refusal :=
  gate (.sBfx d a sx len pos) noCheck (fun s => scal1 s d a (bfxOf sx len.toNat pos.toNat)) s
def execSBfi (d a : SReg) (len : BitVec 7) (pos : BitVec 6) (s : State) : Host.Outcome State Fault Refusal :=
  gate (.sBfi d a len pos) noCheck (fun s => scal2 s d d a (bfiOf len.toNat pos.toNat)) s

/-! ## Minimum, maximum, selection, comparison (R125, R131) -/

def execSMin (d a b : SReg) (s : State) : Host.Outcome State Fault Refusal :=
  gate (.sMin d a b) noCheck (fun s => scal2 s d a b (fun x y => if x.slt y then x else y)) s
def execSMax (d a b : SReg) (s : State) : Host.Outcome State Fault Refusal :=
  gate (.sMax d a b) noCheck (fun s => scal2 s d a b (fun x y => if x.slt y then y else x)) s
def execSMinz (d a b : SReg) (s : State) : Host.Outcome State Fault Refusal :=
  gate (.sMinz d a b) noCheck (fun s => scal2 s d a b (fun x y => if x.ult y then x else y)) s
def execSMaxz (d a b : SReg) (s : State) : Host.Outcome State Fault Refusal :=
  gate (.sMaxz d a b) noCheck (fun s => scal2 s d a b (fun x y => if x.ult y then y else x)) s
def execSSel (d a b c : SReg) (s : State) : Host.Outcome State Fault Refusal :=
  gate (.sSel d a b c) noCheck (fun s => scal2 s d a b (fun x y => if rs s c ≠ 0 then x else y)) s
def execSCmp (d a b : SReg) (code : CmpCode) (s : State) : Host.Outcome State Fault Refusal :=
  gate (.sCmp d a b code) noCheck (fun s => scal2 s d a b (fun x y => if compare code x y then 1 else 0)) s

/-! ## Moves and addresses (R132) -/

def execSMovi (d : SReg) (imm : BitVec 32) (s : State) : Host.Outcome State Fault Refusal :=
  gate (.sMovi d imm) noCheck (fun s => ws s d (sext32 imm)) s
def execSMovhi (d a : SReg) (imm : BitVec 32) (s : State) : Host.Outcome State Fault Refusal :=
  gate (.sMovhi d a imm) noCheck (fun s => scal1 s d a (fun x => imm ++ x.extractLsb' 0 32)) s
def execSLea (d : SReg) (imm : BitVec 32) (s : State) : Host.Outcome State Fault Refusal :=
  gate (.sLea d imm) noCheck (fun s => ws s d (relTarget s.iss.w imm.toInt)) s

/-! ## FMT (R133, R134) -/

/-- A value that FMT may hold: no reserved bit, no reserved code (R134). -/
def fmtLegal (v : Nat) : Bool := decide (v < 2 ^ 32) && fmtValid v

/-- `s.setfmt sa`: a reserved bit or code traps RESERVED_FIELD at issue (R134). -/
def chkSetfmt (a : SReg) (s : State) : Chk := lowestTrap s false [(!fmtLegal (rs s a).toNat, 0x03)]

def execSSetfmtImm (imm : BitVec 32) (s : State) : Host.Outcome State Fault Refusal :=
  gate (.sSetfmtImm imm) noCheck (fun s => updPath s (fun p => { p with fmt := imm })) s
def execSSetfmtReg (a : SReg) (s : State) : Host.Outcome State Fault Refusal :=
  gate (.sSetfmtReg a) (chkSetfmt a) (fun s => updPath s (fun p => { p with fmt := (rs s a).setWidth 32 })) s
def execSGetfmt (d : SReg) (s : State) : Host.Outcome State Fault Refusal :=
  gate (.sGetfmt d) noCheck (fun s => ws s d (s.iss.fmt.setWidth 64)) s

/-! ## Guards (R136) -/

def execSGset (k : GReg) (a b : SReg) (code : CmpCode) (s : State) : Host.Outcome State Fault Refusal :=
  gate (.sGset k a b code) noCheck (fun s => resolveGuard s s.iss.gid k (compare code (rs s a) (rs s b))) s
def execSGclr (k : GReg) (s : State) : Host.Outcome State Fault Refusal :=
  gate (.sGclr k) noCheck (fun s => updCg s (fun g => writeGuard g k .unres)) s

end Sys2Proof.Machine
end

