-- ==== Sys2Proof/Machine/Skidder.lean ====
section
/-!
DEFINITION. The Skidder instructions at issue (R294 to R299). A command enters the core's copy queue; what it does is
in `Machine/EngineEvents.lean`.
-/

namespace Sys2Proof.Machine

/-! ## The copy descriptor (R295) -/

/-- The descriptor at scratchpad address `a`, as one number. -/
def copyDesc (s : State) (a : Word) : Nat := readLE (s.wg s.iss.gid.tag s.iss.gid.core).scratch a.toNat 208

def cdNdim (d : Nat) : Nat := bits d 0 8
def cdElog (d : Nat) : Nat := bits d 8 8
def cdKind (d : Nat) : Nat := bits d 0x10 8
def cdVal (d : Nat) : Word := field 64 d 0x600
def cdAddr (d : Nat) : Word := field 64 d 0x640
/-- The nine extents and strides; a dimension at or above NDIM counts as extent 1 with stride 0. -/
def cdExt (d : Nat) : List Nat := (List.range 9).map (fun k => if k < cdNdim d then bits d (0x40 + 32 * k) 32 else 1)
def cdStrides (d lo : Nat) : List Word := (List.range 9).map (fun k => if k < cdNdim d then field 64 d (lo + 64 * k) else 0)

/-- Check 2: NDIM, ELOG, CKIND and the reserved bytes. -/
def cdBad (d : Nat) : Bool :=
  cdNdim d == 0 || decide (9 < cdNdim d) || decide (4 < cdElog d) || decide (2 < cdKind d)
  || bits d 0x18 8 != 0 || bits d 0x20 32 != 0 || bits d 0x160 32 != 0

/-! ## Spans (R220) -/

def spanCanonical (p : Option (Int × Int)) : Bool :=
  match p with
  | some (a, b) => decide (-(2 ^ 56) ≤ a) && decide (b < 2 ^ 56)
  | none => true
def spanInBounds (l : Launch) (p : Option (Int × Int)) : Bool :=
  match p with
  | some (a, b) => decide (0 ≤ a) && decide (b < (spBytes l : Int))
  | none => true
def spansMeet (p q : Option (Int × Int)) : Bool :=
  match p, q with
  | some (a, b), some (c, d) => decide (a ≤ d) && decide (c ≤ b)
  | _, _ => false

/-- The lock of a span. -/
def spanLock (loc wr : Bool) (p : Option (Int × Int)) : List LockReq :=
  match p with
  | some (a, b) => [{ loc := loc, wr := wr, lo := a, hi := b }]
  | none => []

/-! ## Suppression (R63, R294) -/

/-- No LIVE lane in the issuing path's active mask. -/
def skidSuppressed (s : State) : Bool := liveActive s == 0

/-- A command with nothing but its issuer. -/
def copyOp (s : State) (i : Instr) : CopyOp :=
  { id := 0, grp := s.iss.gid.grp, word := s.iss.w, op := i, dst := 0, src := 0, ldst := false, lsrc := false, ord := false
    xpose := false, target := s.iss.gid.core, elog := 0, ext := [], srcs := [], dsts := [], ckind := 0, cval := 0, caddr := 0
    fill := none, bind := bindOf s, suppressed := skidSuppressed s, bytes := 0 }

/-- The command enters the copy queue with its locks and counts (R116, R220). A suppressed one registers no lock, has completed, and
retires behind earlier ones of its group (R117, R294). -/
def copyIssue (s : State) (o : CopyOp) (rs : List LockReq) : State :=
  let id := s.nextId
  let s := { s with nextId := id + 1 }
  let s := s.updWg s.iss.gid.tag s.iss.gid.core (fun w =>
    { w with copyq := w.copyq ++ [{ o with id := id }], locks := w.locks ++ (if o.suppressed then [] else locksOf id rs) })
  let s := updCg s (fun g => { g with cc := g.cc + 1 })
  if o.suppressed then retireEngines s s.iss.gid.tag s.iss.gid.core else s

/-! ## Copies (R295 to R298) -/

/-- A copy as its word gives it: endpoints, descriptor address, and for `c.copyt` the element size it names. -/
structure CopyArg where
  d : SReg
  a : SReg
  b : SReg
  ldst : Bool
  lsrc : Bool
  ord : Bool
  t : Option Nat
  deriving DecidableEq, Repr

/-- Dimensions 0 and 1 exchanged (R297). -/
def swap01 : List Word → List Word
  | x :: y :: r => y :: x :: r
  | r => r

/-- The copy that a word issues, as its descriptor gives it. -/
def copyOf (s : State) (i : Instr) (c : CopyArg) : CopyOp :=
  let d := copyDesc s (rs s c.b)
  let ds := cdStrides d 0x3C0
  { copyOp s i with
    dst := rs s c.d, src := rs s c.a, ldst := c.ldst, lsrc := c.lsrc, ord := c.ord, xpose := c.t.isSome
    elog := cdElog d, ext := cdExt d, srcs := cdStrides d 0x180, dsts := if c.t.isSome then swap01 ds else ds
    ckind := cdKind d, cval := cdVal d, caddr := cdAddr d }

/-- Check 3: what is no multiple of the element size, and the completion address. DEDUCED (notes/assumptions/25.md). -/
def copyMisaligned (o : CopyOp) : Option Word :=
  let n := 2 ^ o.elog
  if o.src.toNat % n != 0 then some o.src
  else if o.dst.toNat % n != 0 then some o.dst
  else if (o.srcs ++ o.dsts).any (fun x => x.toNat % n != 0) then some 0
  else if o.ckind != 0 && o.caddr.toNat % 8 != 0 then some o.caddr
  else none

/-- Checks 1 to 4 of R295; the destination of `c.send` and its completion word are checked at the receiver (R298). Check 4 asks of global
endpoints that they are canonical, which R200 defines for global addresses, and of CADDR also where it names a completion word. DESIGN
CHOICE (notes/assumptions/25.md). -/
def chkCopyDesc (s : State) (o : CopyOp) (c : CopyArg) (send : Bool) : Chk :=
  let l := s.launch s.iss.gid.tag
  let at_ := rs s c.b
  let d := copyDesc s at_
  let lo := fun (p : Option (Int × Int)) => match p with
    | some (a, _) => BitVec.ofInt 64 a
    | none => (0 : Word)
  let m := copyMisaligned o
  firstFail s
    [(at_.toNat % 16 != 0, 0x0D, at_), (!spOk l at_ 208, 0x0F, at_), (cdBad d, 0x03, 0),
     ((match c.t with
       | some e => cdElog d != e || decide (cdNdim d < 2)
       | none => false), 0x03, 0),
     (m.isSome, 0x0D, m.getD 0),
     (!o.lsrc && !spanCanonical (srcSpan o), 0x08, lo (srcSpan o)),
     (!o.ldst && !spanCanonical (dstSpan o), 0x08, lo (dstSpan o)),
     (o.ckind != 0 && !canonical o.caddr, 0x08, o.caddr),
     (o.lsrc && !spanInBounds l (srcSpan o), 0x0F, lo (srcSpan o)),
     (o.ldst && !send && !spanInBounds l (dstSpan o), 0x0F, lo (dstSpan o)),
     (o.ckind == 1 && !send && !spOk l o.caddr 8, 0x0F, o.caddr)]

/-- The locks of a copy on the issuing core: those of a `c.send` elsewhere are its source's only. -/
def copyLocks (s : State) (o : CopyOp) : List LockReq :=
  spanLock o.lsrc false (srcSpan o)
  ++ (if o.target == s.iss.gid.core then spanLock o.ldst true (dstSpan o) else [])

/-- Check 5, then the wait for locks (R293). -/
def chkCopySpans (s : State) (o : CopyOp) : Chk :=
  (firstFail s [(o.target == s.iss.gid.core && o.lsrc == o.ldst && spansMeet (srcSpan o) (dstSpan o), 0x0E, 0)]).andThen
    (chkLocks s (copyLocks s o))

def chkCopy (i : Instr) (c : CopyArg) (s : State) : Chk :=
  if skidSuppressed s then .pass
  else
    let o := copyOf s i c
    (chkCopyDesc s o c false).andThen (chkCopySpans s o)

/-- What the word issues: a suppressed command reads no descriptor (R294). -/
def copyStart (s : State) (i : Instr) (c : CopyArg) : State :=
  let o := if skidSuppressed s then copyOp s i else copyOf s i c
  copyIssue s o (copyLocks s o)

def execCCopy (d a b : SReg) (ldst lsrc ord : Bool) (s : State) : Host.Outcome State Fault Refusal :=
  let c : CopyArg := { d := d, a := a, b := b, ldst := ldst, lsrc := lsrc, ord := ord, t := none }
  gate (.cCopy d a b ldst lsrc ord) (chkCopy (.cCopy d a b ldst lsrc ord) c)
    (fun s => copyStart s (.cCopy d a b ldst lsrc ord) c) s

def execCCopyt (d a b : SReg) (ldst lsrc ord : Bool) (g : BitVec 2) (s : State) : Host.Outcome State Fault Refusal :=
  let c : CopyArg := { d := d, a := a, b := b, ldst := ldst, lsrc := lsrc, ord := ord, t := some (g.toNat - 1) }
  gate (.cCopyt d a b ldst lsrc ord g) (chkCopy (.cCopyt d a b ldst lsrc ord g) c)
    (fun s => copyStart s (.cCopyt d a b ldst lsrc ord g) c) s

/-! ## c.send (R298) -/

/-- The target core; none where it lies outside the launch. -/
def sendTarget (s : State) (tm : Bool) (treg : SReg) : Option Nat :=
  let l := s.launch s.iss.gid.tag
  let me := s.iss.gid.core
  let v := rs s treg
  if tm then (if l.cores.contains v.toNat then some v.toNat else none)
  else
    let st : Int := (stageOf l me : Int) + v.toInt
    if st < 0 || (l.s : Int) ≤ st then none
    else
      let mine := stageCores l (stageOf l me)
      let o := (mine.filter (fun x => x < me)).length
      let cs := stageCores l st.toNat
      cs[o % cs.length]?

def sendOf (s : State) (i : Instr) (c : CopyArg) (t : Nat) : CopyOp := { copyOf s i c with target := t }

/-- Checks 1 to 4, the target, check 5 (notes/assumptions/16.md: the place of the target's check). -/
def chkSend (i : Instr) (c : CopyArg) (tm : Bool) (treg : SReg) (s : State) : Chk :=
  if skidSuppressed s then .pass
  else
    (chkCopyDesc s (copyOf s i c) c true).andThen
      (match sendTarget s tm treg with
      | none => .trap (wordTrap s 0x0C false)
      | some t => chkCopySpans s (sendOf s i c t))

def sendStart (s : State) (i : Instr) (c : CopyArg) (tm : Bool) (treg : SReg) : State :=
  match skidSuppressed s, sendTarget s tm treg with
  | false, some t =>
    let o := sendOf s i c t
    copyIssue s o (copyLocks s o)
  | _, _ => copyIssue s (copyOp s i) []

def execCSend (d a b : SReg) (lsrc ord tm : Bool) (treg : SReg) (s : State) : Host.Outcome State Fault Refusal :=
  let c : CopyArg := { d := d, a := a, b := b, ldst := true, lsrc := lsrc, ord := ord, t := none }
  gate (.cSend d a b lsrc ord tm treg) (chkSend (.cSend d a b lsrc ord tm treg) c tm treg)
    (fun s => sendStart s (.cSend d a b lsrc ord tm treg) c tm treg) s

/-! ## c.fill and c.sig (R299) -/

/-- The fill that a word issues: one dimension of bytes. -/
def fillOf (s : State) (d a : SReg) (byte : Byte) (ldst : Bool) : CopyOp :=
  { copyOp s (.cFill d a byte ldst) with dst := rs s d, ldst := ldst, ext := [(rs s a).toNat], dsts := [1], fill := some byte }

/-- The span of a fill, the scratchpad address read unsigned. -/
def fillSpan (o : CopyOp) : Option (Int × Int) := copySpan o.dst o.ext o.dsts 1

def chkFill (d a : SReg) (byte : Byte) (ldst : Bool) (s : State) : Chk :=
  if skidSuppressed s then .pass
  else
    let o := fillOf s d a byte ldst
    (firstFail s
      [(!ldst && !spanCanonical (fillSpan o), 0x08, o.dst),
       (ldst && !spanInBounds (s.launch s.iss.gid.tag) (fillSpan o), 0x0F, o.dst)]).andThen
      (chkLocks s (spanLock ldst true (fillSpan o)))

def execCFill (d a : SReg) (byte : Byte) (ldst : Bool) (s : State) : Host.Outcome State Fault Refusal :=
  gate (.cFill d a byte ldst) (chkFill d a byte ldst)
    (fun s =>
      let o := fillOf s d a byte ldst
      copyIssue s o (spanLock ldst true (fillSpan o))) s

/-- The signal must be 8-aligned. -/
def chkSig (a : SReg) (s : State) : Chk :=
  if skidSuppressed s then .pass else firstFail s [((rs s a).toNat % 8 != 0, 0x0D, rs s a)]

def execCSig (a : SReg) (s : State) : Host.Outcome State Fault Refusal :=
  gate (.cSig a) (chkSig a) (fun s => copyIssue s { copyOp s (.cSig a) with caddr := rs s a } []) s

end Sys2Proof.Machine
end

