-- ==== Sys2Proof/Machine/Sync.lean ====
section
/-!
DEFINITION. Barriers (R174 to R178), counter waits (R179), `draw` and `deal` (R39 to R43, R181, R182) and `idem` (R183);
with the events that end such waits.
-/

namespace Sys2Proof.Machine

/-! ## Barriers (R175 to R178) -/

/-- The newest phase in which lanes of `lm` have arrived and not yet passed their wait. -/
def arrivedPhase (g : Group) (level n : Nat) (lm : Word) : Option Nat :=
  ((g.bars.filter (fun b => b.level == level && b.n == n && b.share &&& lm != 0)).map (fun b => b.phase)).max?

/-- A `.wait` by a member whose flag is clear: a LIVE lane of the path, each a member at a group barrier, or the path itself above has no share
in it (R53, R176). -/
def notArrived (g : Group) (k level n : Nat) : Bool :=
  let share := (g.bars.filter (fun b => b.level == level && b.n == n)).foldl (fun m b => m ||| b.share) 0
  barLanes g k level &&& liveMask g &&& ~~~share != 0

/-- A path has already arrived with lanes `m`: at a group barrier a LIVE active lane of it, which is a member; above, all its own LIVE lanes
(R54, R176). -/
def arrivedTwice (g : Group) (k level : Nat) (m : Word) : Bool :=
  let own := barLanes g k level &&& liveMask g
  if level == 0 then own &&& m != 0 else own &&& ~~~m == 0

/-- A second arrival in the open phase, or a `.wait` without an arrival, traps BARRIER_MEMBER (R176). A path without a
LIVE lane in its active mask is no member (R54). -/
def chkBar (level : Nat) (kind : BitVec 2) (n : Nat) (s : State) : Chk :=
  let g := cg s
  let lm := liveActive s
  let again := match barRecord g level n (phaseCount s s.iss.gid level n) with
    | some b => arrivedTwice g s.iss.path level b.lanes
    | none => false
  let bad := if kind == 2 then notArrived g s.iss.path level n else again
  lowestTrap s false [(lm != 0 && bad, 0x16)]

/-- The lanes `own` of a path arrive in the open phase, and share the member's flag (R176). -/
def arrive (g : Group) (level n ph first : Nat) (own : Word) : Group :=
  let old := g.bars.map (fun b =>
    if b.level == level && b.n == n && b.phase != ph then { b with share := b.share &&& ~~~own } else b)
  let rest := old.filter (fun b => b.share != 0 && !(b.level == level && b.n == n && b.phase == ph))
  let new : BarRec := match barRecord g level n ph with
    | some b => { b with share := b.share ||| own, lanes := b.lanes ||| own, signalled := false, before := max b.before first }
    | none => { level := level, n := n, phase := ph, share := own, lanes := own, signalled := false, before := first }
  resetSpin { g with bars := rest ++ [new] }

/-- One barrier instruction: KIND 0 arrives and waits, 1 arrives, 2 waits. -/
def barrier (s : State) (level : Nat) (kind : BitVec 2) (n : Nat) : State :=
  let lm := liveActive s
  let ph := phaseCount s s.iss.gid level n
  if lm == 0 then s
  else if kind == 2 then
    match arrivedPhase (cg s) level n (barLanes (cg s) s.iss.path level) with
    | some p => addLead s (.barrier level n p)
    | none => s
  else
    let s := updCg s (fun g => arrive g level n ph s.iss.first (barLanes g s.iss.path level ||| lm))
    if kind == 1 then s else addLead s (.barrier level n ph)

def execBarGrp (kind : BitVec 2) (s : State) : Host.Outcome State Fault Refusal :=
  gate (.barGrp kind) (chkBar 0 kind 0) (fun s => barrier s 0 kind 0) s
def execBarBlk (kind : BitVec 2) (n : BitVec 4) (s : State) : Host.Outcome State Fault Refusal :=
  gate (.barBlk kind n) (chkBar 1 kind n.toNat) (fun s => barrier s 1 kind n.toNat) s
def execBarClu (kind : BitVec 2) (n : BitVec 4) (s : State) : Host.Outcome State Fault Refusal :=
  gate (.barClu kind n) (chkBar 2 kind n.toNat) (fun s => barrier s 2 kind n.toNat) s
def execBarGrid (kind : BitVec 2) (n : BitVec 4) (s : State) : Host.Outcome State Fault Refusal :=
  gate (.barGrid kind n) (chkBar 3 kind n.toNat) (fun s => barrier s 3 kind n.toNat) s

/-- Loads issued before number `n` have been performed. -/
def loadsBelow (g : Group) (n : Nat) : Bool := g.loadq.all (fun o => decide (n ≤ o.id) || settled o)

/-- The group's arrival may be signalled: it has arrived, and of the operations issued before the arriving words those of
class SC have retired (R177) and the loads have been performed (R273); or the group has retired, and the same holds of all of them. -/
def maySignal (s : State) (gid : GId) (level n : Nat) : Bool :=
  let g := s.group gid
  if g.status == .retired then g.sc == 0 && loadsBelow g s.nextId
  else
    match barRecord g level n (phaseCount s gid level n) with
    | some b => memberArrived g b.lanes && storesBelow g b.before && loadsBelow g b.before
    | none => false

/-- BARRIER_ARRIVAL_SIGNAL (R177): the arrival reaches the barrier, and the phase completes once all have (R54). -/
def execBarrierArrivalSignal (gid : GId) (level n : Nat) (s : State) : Host.Outcome State Fault Refusal :=
  if maySignal s gid level n then
    let ph := phaseCount s gid level n
    let s := s.updGroup gid (fun g =>
      { g with bars := g.bars.map (fun b =>
          if b.level == level && b.n == n && b.phase == ph then { b with signalled := true } else b) })
    .next (barComplete s gid level n)
  else .next s

/-! ## wait (R179) -/

def execWait (c : WaitArg) (s : State) : Host.Outcome State Fault Refusal :=
  gate (.wait c) noCheck (fun s => addWait s (.counters c)) s

/-! ## draw and deal (R39 to R43, R181, R182) -/

/-- The shoe of a stage of a launch. -/
def shoeOf (l : Launch) (st : Nat) : Shoe := sget { ext := [], given := 0, fifo := [] } l.shoes st
def putShoe (s : State) (tag st : Nat) (x : Shoe) : State :=
  s.updLaunch tag (fun l => { l with shoes := sput { ext := [], given := 0, fifo := [] } l.shoes st x })

/-- The i-th coordinate in ascending linear order, d0 fastest (R40). -/
def coordAt : List Nat → Nat → List (BitVec 32)
  | [], _ => []
  | e :: r, i => BitVec.ofNat 32 (i % e) :: coordAt r (i / e)

/-- Coordinates that a stage-0 shoe dispenses; none when an extent is 0 (R40). -/
def shoeSize (ext : List Nat) : Nat := if ext.isEmpty then 0 else ext.foldl (fun a e => a * e) 1

/-- Take the next coordinate of a shoe (R40, R41). -/
def takeCoord (st : Nat) (x : Shoe) : Option (List (BitVec 32) × Shoe) :=
  if st = 0 then
    if x.given < shoeSize x.ext then some (coordAt x.ext x.given, { x with given := x.given + 1 }) else none
  else
    match x.fifo with
    | c :: r => some (c, { x with fifo := r })
    | [] => none

/-- Every group of a stage has retired (R42). -/
def stageRetired (s : State) (l : Launch) (st : Nat) : Bool :=
  (stageCores l st).all (fun c => (groupsOf l c).all (fun g => groupDone (s.group g)))

/-- A draw of a group: a coordinate taken, the shoe exhausted, or neither yet (R42, R181). -/
def tryDraw (s : State) (gid : GId) (n : SReg) (k : GReg) : Option State :=
  let l := s.launch gid.tag
  let st := (s.wg gid.tag gid.core).stage
  match takeCoord st (shoeOf l st) with
  | some (c, x) =>
    let s := putShoe s gid.tag st x
    let v := fun (i : Nat) => (c.getD i 0).setWidth 64
    let s := s.updGroup gid (fun g =>
      writeS (writeS (writeS (writeS g n (v 0)) (n + 1) (v 1)) (n + 2) (v 2)) (n + 3) (v 3))
    some (resolveGuard s gid k true)
  | none => if st = 0 || stageRetired s l (st - 1) then some (resolveGuard s gid k false) else none

/-- The word that follows the one being executed, as its vector slot has left it. -/
def behindWord (s : State) : Word :=
  match s.iss.next with
  | .goto t => t
  | _ => nextWord s

/-- `draw`: done at once, or the path waits on the draw word. -/
def drawOrWait (s : State) (n : SReg) (k : GReg) : State :=
  match tryDraw s s.iss.gid n k with
  | some s' => s'
  | none =>
    endWord (addWait s (.draw n k s.iss.w (behindWord s)))

/-- Path k goes on behind the word `at_`, whose `draw` or `deal` has waited; one that stands at the word stays. -/
def goBehind (g : Group) (k : Nat) (at_ nxt : Word) : Group :=
  let p := pathOf g k
  if p.pc == at_ && (standsAt p).isNone then
    let r := nextPcGo at_ nxt g.loops
    putPath { g with loops := r.1 } k { p with pc := r.2 }
  else g

/-- A path whose `draw` or `deal` has waited, wait `w` of the word `at_`, goes on: behind its word, or, where the whole word acts only
then, it issues that word, and the shoe of the state `s` is as it was; `t` is the state in which the shoe has been served. -/
def shoeServed (s t : State) (gid : GId) (k : Nat) (w : Wait) (at_ nxt : Word) : State :=
  if nxt == at_ then dropWait s gid k w else (dropWait t gid k w).updGroup gid (fun g => goBehind g k at_ nxt)

def execDraw (n : SReg) (k : GReg) (s : State) : Host.Outcome State Fault Refusal :=
  gate (.draw n k) noCheck (fun s => drawOrWait s n k) s

/-- DRAW_WAKE (R42): a waiting draw gets a coordinate or finds the shoe exhausted, or its word may now issue, and its path goes on. -/
def execDrawWake (gid : GId) (k : Nat) (s : State) : Host.Outcome State Fault Refusal :=
  let w := (pathOf (s.group gid) k).waits.find? (fun w => match w with | .draw _ _ _ _ => true | _ => false)
  if (s.group gid).status != .active then .next s
  else
    match w with
    | some (.draw n gk at_ nxt) =>
      match tryDraw s gid n gk with
      | none => .next s
      | some t => .next (shoeServed s t gid k (.draw n gk at_ nxt) at_ nxt)
    | _ => .next s

/-- The last stage of a launch deals to nobody (R41, R182). The stage is checked first, so a deal there traps also where R43 would suppress it.
DESIGN CHOICE (notes/assumptions/9.md). -/
def chkDeal (s : State) : Chk :=
  let l := s.launch s.iss.gid.tag
  lowestTrap s false [(decide (l.s ≤ (s.wg s.iss.gid.tag s.iss.gid.core).stage + 1), 0x18)]

/-- A coordinate enters the downstream shoe of 256, if there is room (R41). -/
def enterShoe (s : State) (tag st : Nat) (c : List (BitVec 32)) : Option State :=
  let x := shoeOf (s.launch tag) st
  if x.fifo.length < 256 then some (putShoe s tag st { x with fifo := x.fifo ++ [c] }) else none

/-- The order numbers of a group's waiting deals. -/
def waitingDeals (g : Group) : List Nat :=
  (pathKeys g).flatMap (fun k => (pathOf g k).waits.filterMap (fun w => match w with
    | .deal _ _ _ _ _ _ n => some n
    | _ => none))

/-- The wait of a `deal` of the word being executed, which goes on at `nxt`. -/
def dealWait (s : State) (n : SReg) (nxt : Word) : Wait :=
  let v := fun (i : BitVec 6) => (rs s (n + i)).setWidth 32
  .deal (v 0) (v 1) (v 2) (v 3) s.iss.w nxt s.nextId

/-- `deal` at issue (R43, R182), unless it must wait: the deals of one group reach the shoe in issue order, so one behind a waiting deal
waits too (R41). -/
def tryDeal (s : State) (n : SReg) : Option State :=
  let v := fun (i : BitVec 6) => (rs s (n + i)).setWidth 32
  if liveActive s == 0 then some s
  else if !(waitingDeals (cg s)).isEmpty then none
  else enterShoe s s.iss.gid.tag ((s.wg s.iss.gid.tag s.iss.gid.core).stage + 1) [v 0, v 1, v 2, v 3]

/-- `deal`: done at once, or the path waits on the deal word. -/
def deal (s : State) (n : SReg) : State := (tryDeal s n).getD (endWord (addWait (takeId s).1 (dealWait s n (behindWord s))))

/-- The wait that a `draw` or `deal` of the word being executed comes to before the word acts. -/
def shoeWait (s : State) (i : Instr) : Option Wait :=
  match i with
  | .draw n k => if (tryDraw s s.iss.gid n k).isNone then some (.draw n k s.iss.w s.iss.w) else none
  | .deal n => if (tryDeal s n).isNone then some (dealWait s n s.iss.w) else none
  | _ => none

def execDeal (n : SReg) (s : State) : Host.Outcome State Fault Refusal :=
  gate (.deal n) chkDeal (fun s => deal s n) s

/-- DEAL_ENTRY (R41): a waiting deal enters the shoe, if none of its group has waited longer, or its word may now issue. -/
def execDealEntry (gid : GId) (k : Nat) (s : State) : Host.Outcome State Fault Refusal :=
  let w := (pathOf (s.group gid) k).waits.find? (fun w => match w with | .deal _ _ _ _ _ _ _ => true | _ => false)
  if (s.group gid).status != .active then .next s
  else
    match w with
    | some (.deal a b c d at_ nxt n) =>
      if (waitingDeals (s.group gid)).any (fun m => decide (m < n)) then .next s
      else
        match enterShoe s gid.tag ((s.wg gid.tag gid.core).stage + 1) [a, b, c, d] with
        | some t => .next (shoeServed s t gid k (.deal a b c d at_ nxt n) at_ nxt)
        | none => .next s
    | _ => .next s

/-! ## idem (R183) -/

/-- `idem`: the checkpoint of an undivided group outside every region, else CKV = 0. -/
def idem (s : State) : State :=
  updCg s (fun g =>
    if g.split.isEmpty && g.face.isEmpty then
      let gs := g.guards.filter (fun x => !(pendG g).contains (BitVec.ofNat 4 x.1))
      { g with ck := { ckv := true, ckpc := afterUnit s.iss.w, mask := s.iss.mask, loops := g.loops, fmt := s.iss.fmt
                       flags := s.iss.flags, guards := gs } }
    else { g with ck := { g.ck with ckv := false } })

def execIdem (s : State) : Host.Outcome State Fault Refusal := gate .idem noCheck idem s

end Sys2Proof.Machine
end

