-- ==== Sys2Proof/Machine/System.lean ====
section
/-!
DEFINITION. System values and registers (R185 to R189), traps and return (R190, R191), budget, halt and instruction fence
(R192 to R194).
-/

namespace Sys2Proof.Machine

/-! ## s.sys (R185) -/

/-- A system value. -/
def sysValue (s : State) (sel : BitVec 5) : Word :=
  let gid := s.iss.gid
  let t := lowest s.iss.mask
  let some' := s.iss.mask != 0
  match sel.toNat with
  | 0 => capsOf s.part
  | 1 => BitVec.ofNat 64 (dieOf gid.core)
  | 2 => BitVec.ofNat 64 (clusterOf gid.core % 4)
  | 3 => BitVec.ofNat 64 (gid.core % 8)
  | 4 => BitVec.ofNat 64 (s.wg gid.tag gid.core).stage
  | 5 => BitVec.ofNat 64 gid.grp
  | 6 => if some' then BitVec.ofNat 64 t else 0
  | 7 => if some' then BitVec.ofNat 64 (t % 16) else 0
  | 8 => if some' then BitVec.ofNat 64 (t / 16) else 0
  | 9 => if some' && bit s.iss.face t then 1 else 0
  | _ => BitVec.ofNat 64 s.dtime

def execSSys (d : SReg) (sel : BitVec 5) (s : State) : Host.Outcome State Fault Refusal :=
  gate (.sSys d sel) noCheck (fun s => ws s d (sysValue s sel)) s

/-! ## s.getsr and s.setsr (R187 to R189) -/

/-- A system register as `s.getsr` reads it; FLAGS and ELSTAT as the word found them (R110). -/
def srValue (s : State) (n : BitVec 8) : Word :=
  let g := cg s
  match n.toNat with
  | 0x00 => g.xpc
  | 0x01 => g.xcode
  | 0x02 => g.faultmask
  | 0x03 => g.faultface
  | 0x04 => g.faultaddr
  | 0x08 => s.iss.flags
  | 0x09 => s.iss.elstat
  | 0x0A => BitVec.ofNat 64 (g.budleft.getD 0 0 % 2 ^ 32)
  | 0x0B => g.spord.setWidth 64
  | 0x0C => modeOf g
  | _ => (g.ck.ckpc &&& ~~~15) ||| (if g.ck.ckv then 1 else 0)

def execSGetsr (d : SReg) (num : BitVec 8) (s : State) : Host.Outcome State Fault Refusal :=
  gate (.sGetsr d num) noCheck (fun s => ws s d (srValue s num)) s

/-- XPC takes only a canonical, aligned address; the canonical test comes first (R189). -/
def chkSetsr (num : BitVec 8) (a : SReg) (s : State) : Chk :=
  let v := rs s a
  lowestTrap s false [(num == 0 && !canonical v, 0x08), (num == 0 && v &&& 15 != 0, 0x0D)]

def execSSetsr (num : BitVec 8) (a : SReg) (s : State) : Host.Outcome State Fault Refusal :=
  gate (.sSetsr num a) (chkSetsr num a) (fun s => updCg s (fun g => setSr g num (rs s a))) s

/-! ## trap, brk, rett (R190, R191) -/

/-- The fault that `trap` and `brk` raise after the word's vector slot. -/
def softTrap (s : State) (code : Nat) (e : BitVec 16) : Trap :=
  { code := code, arg := e.toNat, vs := false, mask := s.iss.mask, face := 0, addr := 0, xpc := afterUnit s.iss.w }

/-- A group that its vector slot has retired takes no trap. -/
def raiseSoft (s : State) (code : Nat) (e : BitVec 16) : State :=
  if groupDone (cg s) then endWord s else takeTrap s (softTrap s code e)

def execTrap (e : BitVec 16) (s : State) : Host.Outcome State Fault Refusal :=
  gate (.trap e) noCheck (fun s => raiseSoft s 0x40 e) s

/-- BRKEN of the launch's context (R351). -/
def brkEnabled (s : State) : Bool := regLE s (dbgBase (s.launch s.iss.gid.tag).ctx) 8 % 2 == 1

/-- `brk`: a halt when the debugger has enabled it (R353), else the fault BREAK. DEDUCED (notes/assumptions/11.md). -/
def brk (s : State) (e : BitVec 16) : State :=
  if brkEnabled s && !groupDone (cg s) then
    let s := updCg s (fun g => { g with xpc := afterUnit s.iss.w, xcode := BitVec.ofNat 64 (e.toNat * 65536 + 0x31) })
    goTo (haltGroup s s.iss.gid { path := s.iss.path, word := afterUnit s.iss.w, points := false } false) (afterUnit s.iss.w)
  else raiseSoft s 0x31 e

def execBrk (e : BitVec 16) (s : State) : Host.Outcome State Fault Refusal :=
  gate (.brk e) noCheck (fun s => brk s e) s

/-- PRIV with H = 0 (R191); a stack of another depth than at entry traps (R265); so does a skip over the faulting word by which
NEXTPC would change a loop record while paths are split (R251), or loop back above the open region (R258). Where several of these hold, the
lowest code stands, LOOP_DEPTH before MELD_DEPTH. DESIGN CHOICE (notes/assumptions/11.md). -/
def chkRett (mode : BitVec 2) (s : State) : Chk :=
  let g := cg s
  let skips := match g.kept with
    | some k => rettSkips g k mode.toNat
    | none => false
  let d := match g.kept with
    | some k => (k.nsplit, k.nface, k.nloop)
    | none => (g.split.length, g.face.length, g.loops.length)
  lowestTrap s false [(!g.h, 0x05), (g.split.length != d.1, 0x12), (g.face.length != d.2.1, 0x14),
    (g.loops.length != d.2.2, 0x13),
    (skips && loopTrap g g.xpc (afterUnit g.xpc), 0x13), (skips && loopBackAbove g g.xpc (afterUnit g.xpc), 0x14)]

/-- The path state kept at handler entry comes back (R191). DEDUCED (notes/assumptions/11.md). -/
def rett (s : State) (mode : BitVec 2) : State :=
  match (cg s).kept with
  | some k => endWord (returnFrom s s.iss.gid k mode.toNat)
  | none => s

def execRett (mode : BitVec 2) (s : State) : Host.Outcome State Fault Refusal :=
  gate (.rett mode) (chkRett mode) (fun s => rett s mode) s

/-! ## s.budget, halt, ifence (R192 to R194) -/

def execSBudget (d : SReg) (sel : BitVec 2) (s : State) : Host.Outcome State Fault Refusal :=
  gate (.sBudget d sel) noCheck (fun s => ws s d (BitVec.ofNat 64 ((cg s).budleft.getD sel.toNat 0))) s

/-- The word that a path issues after the one being executed, as the slots so far have left it. -/
def resumesAt (s : State) : Word :=
  match s.iss.next with
  | .goto t => t
  | _ => (nextPcGo s.iss.w (nextWord s) (cg s).loops).2

def execHalt (s : State) : Host.Outcome State Fault Refusal :=
  gate .halt noCheck
    (fun s => if groupDone (cg s) then s else haltGroup s s.iss.gid { path := s.iss.path, word := resumesAt s, points := false } true) s

def execIfence (a b : SReg) (s : State) : Host.Outcome State Fault Refusal :=
  gate (.ifence a b) noCheck
    (fun s => if rs s b == 0 then s else addWait s (.ifence (rs s a) (rs s b) s.iss.first)) s

end Sys2Proof.Machine
end

