-- ==== Sys2Proof/Machine/Checks.lean ====
section
/-!
DEFINITION. The checks of a whole word (R111): the decoding faults of both slots, the general issue checks of both, then the
instruction checks of both; the lowest code is taken, between equal codes that of the scalar slot.
-/

namespace Sys2Proof.Machine

/-- The check that an instruction's own rule names; the same that its meaning runs through `gate`. -/
def checkOf (i : Instr) (s : State) : Chk :=
  match i with
  | .br off => chkBr off s | .bcc a b code off => chkBcc a b code off s | .jmp a imm => chkJmp a imm s
  | .brx a b limit => chkBrx a b limit s | .call mt off => chkCall s false mt (brTarget s off)
  | .callx mt a => chkCall s true mt (rs s a) | .ret a => chkRet a s | .loopS d off => chkLoopS d off s
  | .sSetfmtReg a => chkSetfmt a s | .sSetsr n a => chkSetsr n a s | .rett mode => chkRett mode s
  | .barGrp kind => chkBar 0 kind 0 s | .barBlk kind n => chkBar 1 kind n.toNat s
  | .barClu kind n => chkBar 2 kind n.toNat s | .barGrid kind n => chkBar 3 kind n.toNat s
  | .deal _ => chkDeal s | .gLd _ a _ off _ _ code => chkGLd a off code s
  | .mMma d a b k la lb => chkMMma d a b k la lb s | .mMmas d a b k la lb j nc => chkMMmas d a b k la lb j nc s
  | .mLd d a ty w l => chkTransfer a ty w l false (.mLd d a ty w l) s
  | .mSt d a ty w l => chkTransfer a ty w l true (.mSt d a ty w l) s
  | .mPerm _ _ p => chkPerm p s
  | .cCopy d a b ldst lsrc ord => chkCopy i { d := d, a := a, b := b, ldst := ldst, lsrc := lsrc, ord := ord, t := none } s
  | .cCopyt d a b ldst lsrc ord g =>
    chkCopy i { d := d, a := a, b := b, ldst := ldst, lsrc := lsrc, ord := ord, t := some (g.toNat - 1) } s
  | .cSend d a b lsrc ord tm treg =>
    chkSend i { d := d, a := a, b := b, ldst := true, lsrc := lsrc, ord := ord, t := none } tm treg s
  | .cFill d a byte ldst => chkFill d a byte ldst s | .cSig a => chkSig a s
  | .xAllred a _ _ _ | .xAllmax a _ | .xBcast a _ | .xGather a _ => chkBoom i a s
  | .ld o | .ldv o => chkMem .load false o s | .lds o | .ldsv o => chkMem .load true o s
  | .st o | .stv o => chkMem .store false o s | .sts o | .stsv o => chkMem .store true o s
  | .rdc o => chkMem .rdc false o s | .stLog o => chkMem .logStore false o s
  | .tlogFlush o => chkMem .tlogFlush false o s | .tlogLen o => chkMem .tlogLen false o s
  | .waitw o => chkWaitw o s
  | .atomAdd o => chkMem (.rmw 0 true) false o s | .atomMin o => chkMem (.rmw 1 true) false o s
  | .atomMax o => chkMem (.rmw 2 true) false o s | .atomAnd o => chkMem (.rmw 3 true) false o s
  | .atomOr o => chkMem (.rmw 4 true) false o s | .atomXor o => chkMem (.rmw 5 true) false o s
  | .atomXchg o => chkMem (.rmw 6 true) false o s | .atomCas o => chkMem (.rmw 7 true) false o s
  | .redAdd o => chkMem (.rmw 0 false) false o s | .redMin o => chkMem (.rmw 1 false) false o s
  | .redMax o => chkMem (.rmw 2 false) false o s | .redAnd o => chkMem (.rmw 3 false) false o s
  | .redOr o => chkMem (.rmw 4 false) false o s | .redXor o => chkMem (.rmw 5 false) false o s
  | .redFadd o => chkMem .fadd false o s | .redFaddc o => chkMem .faddc false o s
  | .elide o => chkElide o s
  | .brv k off => chkBrv k off s | .join => chkJoin s | .meldend => chkMeldend s | .meld _ off => chkMeld off s
  | .demote _ _ | .exit _ _ => chkOut s | .loopv v off => chkLoopv v off s | .loopvEnd => chkLoopvEnd s
  | .bany k off => chkMaskBranch (banyTaken s k) off s | .ball k off => chkMaskBranch (ballTaken s k) off s
  | _ => .pass

/-- What the translations of an instruction's check leave, the word's fault or not (R203, R214). -/
def walksOf (i : Instr) (s : State) : State :=
  let m := fun (k : MemKind) (loc : Bool) (o : MOp) => (memAccess k loc o s).1
  match i with
  | .ld o | .ldv o => m .load false o | .lds o | .ldsv o => m .load true o
  | .st o | .stv o => m .store false o | .sts o | .stsv o => m .store true o
  | .rdc o => m .rdc false o | .stLog o => m .logStore false o | .tlogFlush o => m .tlogFlush false o | .tlogLen o => m .tlogLen false o
  | .atomAdd o => m (.rmw 0 true) false o | .atomMin o => m (.rmw 1 true) false o | .atomMax o => m (.rmw 2 true) false o
  | .atomAnd o => m (.rmw 3 true) false o | .atomOr o => m (.rmw 4 true) false o | .atomXor o => m (.rmw 5 true) false o
  | .atomXchg o => m (.rmw 6 true) false o | .atomCas o => m (.rmw 7 true) false o
  | .redAdd o => m (.rmw 0 false) false o | .redMin o => m (.rmw 1 false) false o | .redMax o => m (.rmw 2 false) false o
  | .redAnd o => m (.rmw 3 false) false o | .redOr o => m (.rmw 4 false) false o | .redXor o => m (.rmw 5 false) false o
  | .redFadd o => m .fadd false o | .redFaddc o => m .faddc false o
  | .waitw o => (waitwAccess o s).1 | .elide o => (elideAccess o s).1 | .gLd _ a _ off _ _ code => (gldAccess a off code s).1
  | _ => s

/-- An instruction that finds the path's next pc, or ends the word, itself; every other word goes on at the next word. -/
def transfers : Instr → Bool
  | .br _ | .bcc _ _ _ _ | .jmp _ _ | .brx _ _ _ | .call _ _ | .callx _ _ | .ret _ | .loopS _ _ => true
  | .trap _ | .brk _ | .rett _ => true
  | .brv _ _ | .join | .meld _ _ | .meldend | .demote _ _ | .exit _ _ | .loopv _ _ | .loopvEnd | .bany _ _ | .ball _ _ => true
  | _ => false

/-- A vector slot of row 0x0C: it moves its path's lanes, the loop stack or the face stack (R248). -/
def steers : Instr → Bool
  | .brv _ _ | .join | .meld _ _ | .meldend | .demote _ _ | .exit _ _ | .loopv _ _ | .loopvEnd | .bany _ _ | .ball _ _ => true
  | _ => false

/-- A word of two instructions: the scalar slot and the vector slot; in a solo word the other is the nop. -/
structure Slots where
  sc : Instr
  ve : Instr
  deriving DecidableEq, Repr

/-- The two slots that a fetched word holds, or the decoding fault of each. -/
def slotsOf : Fetched → Dec × Dec
  | .pair _ _ _ _ s v => (s, v)
  | .solo _ _ esc d => if esc then (d, .ok .vNop) else (.ok .nop, d)
  | .badFormat => (.ok .nop, .ok .vNop)

/-- The decoding fault of a slot, the checks that need the group included. -/
def slotCode (s : State) : Dec → Option Nat
  | .ok i => ctxCode i s
  | .bad c => some c

/-- Of two codes the lower is taken, between equal ones the scalar slot's; the answer says whether it is the vector slot's. -/
def lower (a b : Option Nat) : Option (Nat × Bool) :=
  match a, b with
  | some x, some y => if y < x then some (y, true) else some (x, false)
  | some x, none => some (x, false)
  | none, some y => some (y, true)
  | none, none => none

/-- The decoding faults of a word. DEDUCED (notes/assumptions/9.md). -/
def decodeFault (s : State) (f : Fetched) : Option (Nat × Bool) :=
  match f with
  | .badFormat => some (0x01, false)
  | .solo _ _ _ _ => if s.iss.path != 0 then some (0x01, false) else lower (slotCode s (slotsOf f).1) (slotCode s (slotsOf f).2)
  | .pair _ _ _ _ _ _ => lower (slotCode s (slotsOf f).1) (slotCode s (slotsOf f).2)

/-- The vector slot counts on top of the scalar slot, where both count under one counter. -/
def moreOf (x : Slots) : Nat := match clsOf x.sc, clsOf x.ve with
  | some a, some b => if a == b then 1 else 0
  | _, _ => 0

/-- The general issue checks of both slots. -/
def generalFault (s : State) (x : Slots) : Option (Nat × Bool) :=
  lower (generalCode x.sc s 0) (generalCode x.ve s (moreOf x))

/-- Of two answers: the fault of lower code, the scalar slot's between equal ones; then an abort of the region; then a wait. -/
def Chk.join (a b : Chk) : Chk :=
  match a, b with
  | .trap x, .trap y => if y.code < x.code then .trap y else .trap x
  | .trap x, _ => .trap x
  | _, .trap y => .trap y
  | .abort c e, _ => .abort c e
  | _, .abort c e => .abort c e
  | .wait, _ => .wait
  | _, .wait => .wait
  | .pass, .pass => .pass

/-- NEXTPC's check of a word without a transfer; a path that ends with the word has no next word. -/
def fallCheck (s : State) (x : Slots) : Chk :=
  if transfers x.sc || transfers x.ve then .pass
  else if x.sc == .sEnd && (heldLanes (cg s) s.iss.path &&& ~~~(cg s).gone &&& ~~~s.iss.mask == 0) then .pass
  else chkFall s

/-- What makes a word wait at issue or abort its region, once no check has failed. -/
def holdOf (i : Instr) (s : State) : Chk :=
  match regionCause i s with
  | some c => .abort c 0
  | none => if waitsAtIssue i s then .wait else .pass

/-- What the issue checks of a word leave behind: the walks that its instruction checks have made. -/
def wordWalks (s : State) (x : Slots) : State := if (generalFault s x).isSome then s else walksOf x.ve (walksOf x.sc s)

/-- The issue checks of a word: general, then each instruction's own. -/
def wordCheck (s : State) (x : Slots) : Chk :=
  match generalFault s x with
  | some (c, vs) => generalChk (if vs then x.ve else x.sc) s c vs
  | none =>
    match ((checkOf x.sc s).join (checkOf x.ve s)).join (fallCheck s x) with
    | .trap t => .trap t
    | c => c.join ((holdOf x.sc s).join (holdOf x.ve s))

end Sys2Proof.Machine
end

