-- ==== Sys2Proof/Machine/Crypto.lean ====
section
/-!
DEFINITION. SHA-512, and signatures of ECDSA over P-521 (R383), which the spec names and does not describe: they are those of the
published standards. PRESUMED (notes/assumptions/32.md).
-/

namespace Sys2Proof.Machine

/-! ## SHA-512 -/

/-- Bytes as a number, most significant first, and back. -/
def ofBytesBE (b : List Byte) : Nat := ofBytes b.reverse
def toBytesBE (n v : Nat) : List Byte := (toBytes n v).reverse

/-- A rotation of 64 bits to the right. -/
def rotr64 (x n : Nat) : Nat := (x >>> n ||| x <<< (64 - n)) % 2 ^ 64

/-- The round constants: the first 64 bits of the fractions of the cube roots of the first 80 primes. -/
def shaK : List Nat :=
  [4794697086780616226, 8158064640168781261, 13096744586834688815, 16840607885511220156,
   4131703408338449720, 6480981068601479193, 10538285296894168987, 12329834152419229976,
   15566598209576043074, 1334009975649890238, 2608012711638119052, 6128411473006802146,
   8268148722764581231, 9286055187155687089, 11230858885718282805, 13951009754708518548,
   16472876342353939154, 17275323862435702243, 1135362057144423861, 2597628984639134821]
  ++ [3308224258029322869, 5365058923640841347, 6679025012923562964, 8573033837759648693,
   10970295158949994411, 12119686244451234320, 12683024718118986047, 13788192230050041572,
   14330467153632333762, 15395433587784984357, 489312712824947311, 1452737877330783856,
   2861767655752347644, 3322285676063803686, 5560940570517711597, 5996557281743188959,
   7280758554555802590, 8532644243296465576, 9350256976987008742, 10552545826968843579]
  ++ [11727347734174303076, 12113106623233404929, 14000437183269869457, 14369950271660146224,
   15101387698204529176, 15463397548674623760, 17586052441742319658, 1182934255886127544,
   1847814050463011016, 2177327727835720531, 2830643537854262169, 3796741975233480872,
   4115178125766777443, 5681478168544905931, 6601373596472566643, 7507060721942968483,
   8399075790359081724, 8693463985226723168, 9568029438360202098, 10144078919501101548]
  ++ [10430055236837252648, 11840083180663258601, 13761210420658862357, 14299343276471374635,
   14566680578165727644, 15097957966210449927, 16922976911328602910, 17689382322260857208,
   500013540394364858, 748580250866718886, 1242879168328830382, 1977374033974150939,
   2944078676154940804, 3659926193048069267, 4368137639120453308, 4836135668995329356,
   5532061633213252278, 6448918945643986474, 6902733635092675308, 7801388544844847127]

/-- The initial hash value: the same of the square roots of the first eight. -/
def shaInit : List Nat :=
  [7640891576956012808, 13503953896175478587, 4354685564936845355, 11912009170470909681,
   5840696475078001361, 11170449401992604703, 2270897969802886507, 6620516959819538809]

/-- The next word of the message schedule, from the sixteen before it. -/
def shaNext (w : List Nat) : Nat :=
  let a := w.getD 1 0
  let b := w.getD 14 0
  (w.getD 0 0 + (rotr64 a 1 ^^^ rotr64 a 8 ^^^ (a >>> 7)) + w.getD 9 0 + (rotr64 b 19 ^^^ rotr64 b 61 ^^^ (b >>> 6))) % 2 ^ 64

/-- One round on the eight working variables. -/
def shaRound (k w : Nat) (v : List Nat) : List Nat :=
  match v with
  | [a, b, c, d, e, f, g, h] =>
    let t := h + (rotr64 e 14 ^^^ rotr64 e 18 ^^^ rotr64 e 41) + ((e &&& f) ^^^ ((2 ^ 64 - 1 - e) &&& g)) + k + w
    let u := (rotr64 a 28 ^^^ rotr64 a 34 ^^^ rotr64 a 39) + ((a &&& b) ^^^ (a &&& c) ^^^ (b &&& c))
    [(t + u) % 2 ^ 64, a, b, c, (d + t) % 2 ^ 64, e, f, g]
  | x => x

/-- The rounds of a block; `w` holds the next sixteen words of the schedule. -/
def shaRounds : List Nat → List Nat → List Nat → List Nat
  | [], _, v => v
  | k :: ks, w, v => shaRounds ks (w.tail ++ [shaNext w]) (shaRound k (w.headD 0) v)

/-- One block of 128 bytes. -/
def shaBlock (h : List Nat) (b : List Byte) : List Nat :=
  let w := (List.range 16).map (fun i => ofBytesBE ((b.drop (8 * i)).take 8))
  (h.zip (shaRounds shaK w h)).map (fun p => (p.1 + p.2) % 2 ^ 64)

/-- The message with its padding. -/
def shaPad (m : List Byte) : List Byte := m ++ 0x80 :: List.replicate ((239 - m.length % 128) % 128) 0 ++ toBytesBE 16 (8 * m.length)

/-- SHA-512 of a byte string: 64 bytes. -/
def sha512 (m : List Byte) : List Byte :=
  let p := shaPad m
  ((List.range (p.length / 128)).foldl (fun h i => shaBlock h ((p.drop (128 * i)).take 128)) shaInit).flatMap (toBytesBE 8)

/-! ## P-521 -/

def ecP : Nat := 2 ^ 521 - 1
def ecN : Nat := 2 ^ 521 - 0x5ae79787c40d069948033feb708f65a2fc44a36477663b851449048e16ec79bf7
def ecB : Nat := 0x51953eb9618e1c9a1f929a21a0b68540eea2da725b99b315f3b8b489918ef109e156193951ec7e937b1652c0bd3bb1bf073573df883d2c34f1ef451fd46b503f00
def ecGx : Nat := 0xc6858e06b70404e9cd9e3ecb662395b4429c648139053fb521f828af606b4d3dbaa14b5e77efe75928fe1dc127a2ffa8de3348b3c1856a429bf97e7e31c2e5bd66
def ecGy : Nat := 0x11839296a789a3bc0045c8a5fb42c7d1bd998f54449579b446817afbd17273e662c97ee72995ef42640c550b9013fad0761353c7086a272c24088be94769fd16650

/-- b to the e modulo m, for an e of `fuel` bits. -/
def powMod (m : Nat) : Nat → Nat → Nat → Nat
  | 0, _, _ => 1
  | f + 1, b, e =>
    let h := powMod m f (b * b % m) (e / 2)
    if e % 2 = 1 then h * b % m else h

/-- The inverse modulo a prime. -/
def invMod (m a : Nat) : Nat := powMod m 521 a (m - 2)

/-- A point in Jacobian coordinates; Z = 0 is the point at infinity. -/
structure EcPoint where
  x : Nat
  y : Nat
  z : Nat
  deriving DecidableEq, Repr

def subP (a b : Nat) : Nat := (a + (ecP - b)) % ecP

/-- Twice a point. -/
def ecDouble (q : EcPoint) : EcPoint :=
  let d := q.z * q.z % ecP
  let g := q.y * q.y % ecP
  let b := q.x * g % ecP
  let a := 3 * (subP q.x d * ((q.x + d) % ecP) % ecP) % ecP
  let x := subP (a * a % ecP) (8 * b % ecP)
  { x := x, y := subP (a * subP (4 * b % ecP) x % ecP) (8 * (g * g % ecP) % ecP), z := 2 * (q.y * q.z % ecP) % ecP }

/-- The sum of two points. -/
def ecAdd (p q : EcPoint) : EcPoint :=
  if p.z = 0 then q
  else if q.z = 0 then p
  else
    let zp := p.z * p.z % ecP
    let zq := q.z * q.z % ecP
    let u := p.x * zq % ecP
    let s := p.y * (zq * q.z % ecP) % ecP
    let h := subP (q.x * zp % ecP) u
    let r := subP (q.y * (zp * p.z % ecP) % ecP) s
    if h = 0 then (if r = 0 then ecDouble p else { x := 1, y := 1, z := 0 })
    else
      let h2 := h * h % ecP
      let h3 := h2 * h % ecP
      let v := u * h2 % ecP
      let x := subP (subP (r * r % ecP) h3) (2 * v % ecP)
      { x := x, y := subP (r * subP v x % ecP) (s * h3 % ecP), z := h * (p.z * q.z % ecP) % ecP }

/-- k times a point, for a k of `fuel` bits. -/
def ecMul (q : EcPoint) : Nat → Nat → EcPoint
  | 0, _ => { x := 1, y := 1, z := 0 }
  | f + 1, k =>
    let r := ecDouble (ecMul q f (k / 2))
    if k % 2 = 1 then ecAdd r q else r

/-- The affine coordinates of a point, 66 bytes each, big-endian. -/
def ecAffine (q : EcPoint) : Nat × Nat :=
  let i := invMod ecP q.z
  let i2 := i * i % ecP
  (q.x * i2 % ecP, q.y * (i2 * i % ecP) % ecP)

/-- A private key or a signature's secret number: from 1 to the order of the group less 1. -/
def ecScalar (v : Nat) : Nat := v % (ecN - 1) + 1

/-- The generator times a number. -/
def ecBase (k : Nat) : EcPoint := ecMul { x := ecGx, y := ecGy, z := 1 } 521 k

/-- ECDSA over P-521: `key` is 0x04, X and Y, `sig` r and s of 66 bytes each, big-endian; `digest` the 64 bytes of SHA-512. -/
def ecdsaOk (key sig digest : List Byte) : Bool :=
  let x := ofBytesBE ((key.drop 1).take 66)
  let y := ofBytesBE ((key.drop 67).take 66)
  let r := ofBytesBE (sig.take 66)
  let s := ofBytesBE ((sig.drop 66).take 66)
  let ok := key.length == 133 && key.headD 0 == 4 && sig.length == 132 && decide (x < ecP) && decide (y < ecP)
    && y * y % ecP == (x * x % ecP * x + (ecP - 3) * x + ecB) % ecP
    && decide (1 ≤ r) && decide (r < ecN) && decide (1 ≤ s) && decide (s < ecN)
  if !ok then false
  else
    let w := invMod ecN s
    let q := ecAdd (ecBase (ofBytesBE digest * w % ecN)) (ecMul { x := x, y := y, z := 1 } 521 (r * w % ecN))
    q.z != 0 && (ecAffine q).1 % ecN == r

/-- The public key of a private one, uncompressed: 0x04, X and Y (R383). -/
def ecdsaPublic (d : Nat) : List Byte :=
  let q := ecAffine (ecBase (ecScalar d))
  4 :: toBytesBE 66 q.1 ++ toBytesBE 66 q.2

/-- The signature over a digest with a private key and a secret number: r and s, 66 bytes each. -/
def ecdsaSign (d k : Nat) (digest : List Byte) : List Byte :=
  let r := (ecAffine (ecBase (ecScalar k))).1 % ecN
  toBytesBE 66 r ++ toBytesBE 66 (invMod ecN (ecScalar k) * ((ofBytesBE digest + r * ecScalar d) % ecN) % ecN)

end Sys2Proof.Machine
end

