-- ==== Sys2Proof/Machine/Deck.lean ====
section
/-!
DEFINITION. Decks (R361 to R366, R383): the reading and checking of a deck at dispatch, the choice of an image, and the kernel
entry it gives.
-/

namespace Sys2Proof.Machine

/-- A field of a byte string. -/
def at_ (b : List Byte) (off n : Nat) : Nat := ofBytes ((b.drop off).take n)

/-- A directory entry (R361). -/
structure Card where
  kind : Nat
  level : Nat
  step : Nat
  off : Nat
  len : Nat
  ok : Bool
  deriving DecidableEq, Repr

/-- One entry; `ok` says that it meets R361 in a deck of SIZE bytes. -/
def cardOf (size : Nat) (b : List Byte) : Card :=
  let kind := at_ b 0 1
  let level := at_ b 1 1
  let step := at_ b 2 1
  let off := at_ b 8 8
  let len := at_ b 0x10 8
  let image := kind == 1 || kind == 2
  { kind := kind, level := level, step := step, off := off, len := len
    ok := decide (1 ≤ kind) && decide (kind ≤ 5) && (image || level == 0)
      && (if kind == 1 then step == 0xA0 || step == 0xA1 || step == 0 else step == 0)
      && at_ b 3 5 == 0 && at_ b 0x18 8 == 0 && off % 256 == 0 && decide (off + len ≤ size) }

/-- At most one card of each other kind, and native images of distinct LEVEL and STEP. -/
def cardsDistinct (cs : List Card) : Bool :=
  decide (cs.Pairwise (fun a b =>
    !(a.kind == b.kind && (a.kind != 1 || (a.level == b.level && a.step == b.step)))))

/-- The deck header (R361). -/
def headerOk (b : List Byte) : Bool :=
  at_ b 0 4 == 0x4B434544 && at_ b 4 2 == 1 && decide (1 ≤ at_ b 6 2) && decide (at_ b 6 2 ≤ 32) && at_ b 8 8 != 0
  && at_ b 0x18 40 == 0

/-- A kernel entry (R362). -/
structure Kernel where
  entry : Nat
  handler : Nat
  pword : Nat
  groups : Nat
  vregs : Nat
  stages : Nat
  kflags : Nat
  depths : List Nat
  needs : Nat
  shoe : List Nat
  ok : Bool
  deriving DecidableEq, Repr

/-- A depth of 0 lies below the limits of R13, which R362 does not repeat, and is an error: DEDUCED. An ENTRY or a HANDLER that is no
multiple of 16 is none, since R362 gives no limit for it; the group starts there, and a fetch reads the unit that holds the address:
DESIGN CHOICE (notes/assumptions/14.md). -/
def kernelOf (b : List Byte) : Kernel :=
  let groups := at_ b 0x14 1
  let vregs := at_ b 0x15 1
  let stages := at_ b 0x16 1
  let kflags := at_ b 0x17 1
  let needs := at_ b 0x1C 4
  { entry := at_ b 0 8, handler := at_ b 8 8, pword := at_ b 0x10 4, groups := groups, vregs := vregs, stages := stages
    kflags := kflags, depths := (List.range 4).map (fun i => at_ b (0x18 + i) 1), needs := needs
    shoe := (List.range 4).map (fun i => at_ b (0x20 + 4 * i) 4)
    ok := decide (1 ≤ groups) && decide (groups ≤ 32) && decide (8 ≤ vregs) && decide (vregs ≤ 128) && vregs % 8 == 0
      && decide (1 ≤ stages) && decide (stages ≤ 16) && decide (kflags < 2) && decide (needs < 32)
      && (List.range 4).all (fun i => at_ b (0x18 + i) 1 != 0)
      && at_ b 0x10 4 / 2 ^ 21 == 0 && at_ b 0x30 16 == 0 }

/-- An image with its card, header and kernel table. -/
structure Image where
  card : Card
  kernels : List Kernel
  depths : List Nat
  needs : Nat
  sp : Nat
  spCount : Nat
  code : Nat
  ok : Bool
  deriving DecidableEq, Repr

/-- The image header with its kernel table (R362). -/
def imageOf (c : Card) (h t : List Byte) : Image :=
  let k := at_ h 0 2
  let ks := (List.range k).map (fun i => kernelOf ((t.drop (64 * i)).take 64))
  let depths := (List.range 4).map (fun i => at_ h (8 + i) 1)
  let needs := at_ h 0x0C 4
  let sp := at_ h 0x18 8
  let n := at_ h 4 4
  let code := at_ h 0x20 8
  let len := at_ h 0x28 8
  { card := c, kernels := ks, depths := depths, needs := needs, sp := sp, spCount := n, code := code
    ok := decide (64 ≤ c.len) && decide (1 ≤ k) && at_ h 2 2 == 0 && ks.all (fun x => x.ok)
      && depths == (List.range 4).map (fun i => ks.foldl (fun a x => max a (x.depths.getD i 0)) 0)
      && needs == ks.foldl (fun a x => a ||| x.needs) 0 && decide (at_ h 0x10 8 + 64 * k ≤ c.len) && decide (sp + 64 * n ≤ c.len)
      && code % 256 == 0 && len % 16 == 0 && decide (code + len ≤ c.len) && (c.kind == 2 || at_ h 0x30 8 == 0) && at_ h 0x38 8 == 0 }

/-- Everything of an image's fit but its NEEDS (R364). -/
def fitsBut (i : Image) : Bool :=
  i.card.level == 1 && (i.depths.zip [48, 32, 16, 8]).all (fun p => decide (p.1 ≤ p.2))
def needsMet (p : Part) (i : Image) : Bool := i.needs &&& (capsOf p).toNat % 32 == i.needs

/-- The image that is taken (R364). -/
def chooseImage (p : Part) (is : List Image) : Option Image :=
  let fit := is.filter (fun i => fitsBut i && needsMet p i)
  let native := fit.filter (fun i => i.card.kind == 1)
  match native.find? (fun i => i.card.step == p.stepping.toNat) with
  | some i => some i
  | none =>
    match native.foldl (fun a i => match a with
      | none => some i
      | some b => if b.card.step < i.card.step then some i else a) (none : Option Image) with
    | some i => some i
    | none => fit.find? (fun i => i.card.kind == 2)

/-- SIZE is the end of the last card (R361). -/
def sizeOk (size : Nat) (cs : List Card) : Bool := (cs.map (fun c => c.off + c.len)).max? == some size

/-- Every image has as many kernels and safe-point ordinals as the others (R362). -/
def imagesAgree (is : List Image) : Bool :=
  is.all (fun a => is.all (fun b => a.kernels.length == b.kernels.length && a.spCount == b.spCount))

/-- What dispatch reads of a deck. -/
structure DeckRead where
  deckId : Nat
  size : Nat
  cards : List Card
  images : List Image
  deriving DecidableEq, Repr

/-- Image cards read one after another: header, then kernel table. -/
def readImages (v : Via) (base : Nat) : State → List Card → State × Option (List Image)
  | s, [] => (s, some [])
  | s, c :: r =>
    match virtRead v s (base + c.off) 64 with
    | (s, .error _) => (s, none)
    | (s, .ok h) =>
      match virtRead v s (base + c.off + at_ h 0x10 8) (64 * at_ h 0 2) with
      | (s, .error _) => (s, none)
      | (s, .ok t) =>
        match readImages v base s r with
        | (s, none) => (s, none)
        | (s, some is) => (s, some (imageOf c h t :: is))

/-- The deck read and checked whole; none when it cannot be read or holds an error (R361, R362, R364). -/
def readDeck (s : State) (v : Via) (base : Nat) : State × Option DeckRead :=
  if base % 256 != 0 then (s, none)
  else
    match virtRead v s base 64 with
    | (s, .error _) => (s, none)
    | (s, .ok h) =>
      if !headerOk h then (s, none)
      else
        let n := at_ h 6 2
        let size := at_ h 0x10 8
        match virtRead v s (base + 0x40) (32 * n) with
        | (s, .error _) => (s, none)
        | (s, .ok d) =>
          let cs := (List.range n).map (fun i => cardOf size ((d.drop (32 * i)).take 32))
          if !(cs.all (fun c => c.ok)) || !cardsDistinct cs || !sizeOk size cs then (s, none)
          else
            match readImages v base s (cs.filter (fun c => c.kind == 1 || c.kind == 2)) with
            | (s, none) => (s, none)
            | (s, some is) =>
              if is.all (fun i => i.ok) && imagesAgree is then (s, some { deckId := at_ h 8 8, size := size, cards := cs, images := is })
              else (s, none)

/-- The signature that a context requires (R373, R383). -/
def deckSigned (s : State) (v : Via) (base : Nat) (d : DeckRead) : State × Bool :=
  if bits (rootsEntry s v.ctx) 1 1 == 0 then (s, true)
  else
    match d.cards.find? (fun c => c.kind == 5) with
    | none => (s, false)
    | some c =>
      match virtRead v s base d.size with
      | (s, .error _) => (s, false)
      | (s, .ok b) =>
        let card := (b.drop c.off).take c.len
        let key := card.take 133
        let zeroed := b.take c.off ++ List.replicate c.len 0 ++ b.drop (c.off + c.len)
        let keyDigest := regBytes s (keysBase v.ctx) 64
        (s, c.len == 384 && (card.drop 265).all (fun x => x == 0) && sha512 key == keyDigest
          && ecdsaOk key ((card.drop 133).take 132) (sha512 zeroed))

/-- What a launch takes from its deck (R366). -/
structure Selected where
  deckId : Word
  code : Word
  entry : Word
  handler : Option Word
  kernel : Kernel
  sp : Word
  spCount : Nat
  deriving DecidableEq, Repr

/-- Step 4 of R320: the selected image's kernel, or 0x86 or 0x8C (R364). -/
def selectKernel (s : State) (v : Via) (base : Word) (index : Nat) (stages : Nat) : State × Res Selected :=
  match readDeck s v base.toNat with
  | (s, none) => (s, .error 0x8C)
  | (s, some d) =>
    match deckSigned s v base.toNat d with
    | (s, false) => (s, .error 0x8C)
    | (s, true) =>
      match chooseImage s.part d.images with
      | none => (s, .error (if d.images.any (fun i => fitsBut i && !needsMet s.part i) then 0x86 else 0x8C))
      | some i =>
        match i.kernels[index]? with
        | none => (s, .error 0x8C)
        | some k =>
          if stages != 0 && stages != k.stages then (s, .error 0x8C)
          else
            let card := base + BitVec.ofNat 64 i.card.off
            let code := card + BitVec.ofNat 64 i.code
            (s, .ok
              { deckId := BitVec.ofNat 64 d.deckId, code := code, entry := code + BitVec.ofNat 64 k.entry
                handler := if k.handler == 2 ^ 64 - 1 then none else some (code + BitVec.ofNat 64 k.handler)
                kernel := k, sp := card + BitVec.ofNat 64 i.sp, spCount := i.spCount })

/-- The Dealer loads the safe-point table as (offset, ordinal) pairs (R349). A table that cannot be read names no safe point. DEDUCED
(notes/assumptions/14.md). -/
def readPoints (s : State) (v : Via) (sp : Word) (n : Nat) : State × List (Nat × Nat) :=
  match virtRead v s sp.toNat (64 * n) with
  | (s, .error _) => (s, [])
  | (s, .ok b) => (s, (List.range n).map (fun i => (at_ b (64 * i) 6, i)))

end Sys2Proof.Machine
end

