-- ==== Sys2Proof/Machine/Launching.lean ====
section
/-!
DEFINITION. Launches and the Dealer (R195 to R197, R315, R320, R321, R325 to R330, R337 to R345, R366): the checks of a launch,
admission, placement, eviction and cutback, the swap of a workgroup, budgets, and completion.
-/

namespace Sys2Proof.Machine

/-! ## Partitions (R325, R374) -/

/-- The Dealer of a launch: that of its partition's home die, or of the die that started a service launch. -/
def dealerOf (s : State) (l : Launch) : Nat := if l.svc then l.svcDie else homeDie s l.part

/-! ## The demand test (R321) -/

/-- Twice the clock in cycles per nanosecond (R381). -/
def clk2 (k : BitVec 2) : Nat := 3 + k.toNat

/-- What the test knows of a launch: R(L), C, deadline (0 for background), NPRE. -/
structure Demand where
  r : Int
  c : Nat
  deadline : Nat
  npre : Bool
  deriving DecidableEq, Repr

/-- A launch as the test sees it. A budget that is overdrawn counts as the negative number that it is. DESIGN CHOICE (notes/assumptions/14.md). -/
def demandOf (l : Launch) : Demand :=
  { r := l.budget.headD 0, c := l.c, deadline := l.deadline, npre := l.npre }

/-- NP(d): the non-pre-emptible launches whose deadline is later than d, background included. -/
def npOf (all : List Demand) (d : Nat) : Int :=
  (all.filter (fun x => x.npre && (x.deadline == 0 || decide (d < x.deadline)))).foldl (fun a x => a + x.r) 0

/-- DEMAND over X on N cores; `all` holds every launch of the partition, `f2` twice the clock. -/
def demand (xs all : List Demand) (n now f2 : Nat) (blocking : Bool) : Bool :=
  let own := xs.all (fun x => decide (2 * x.r ≤ (x.c : Int) * f2 * ((x.deadline : Int) - now)))
  let points := xs.all (fun d =>
    let need := (xs.filter (fun x => decide (x.deadline ≤ d.deadline))).foldl (fun a x => a + x.r) 0
    let need := if blocking then need + npOf all d.deadline else need
    decide (2 * need ≤ (n : Int) * f2 * ((d.deadline : Int) - now)))
  own && points

/-- ADMIT: 0 or the rejection code. -/
def admission (s : State) (p : Nat) (cand : Demand) : Nat :=
  let all := (partLaunches s p).map demandOf ++ [cand]
  let xs := all.filter (fun x => x.deadline != 0)
  let n := (partCores s p).length
  let f2 := clk2 s.clkCur
  if cand.deadline == 0 && !cand.npre then 0
  else if demand xs all n s.dtime f2 true then 0
  else if cand.deadline == 0 then 0x87
  else if demand xs all n s.dtime f2 false then 0x87 else 0x81

/-! ## The LAUNCH packet (R314, R315) -/

/-- The LAUNCH packet's fields: slot 0 and, with two slots, slot 1. -/
structure LaunchPkt where
  hdr : Nat
  b0 : List Byte
  b1 : List Byte
  deriving DecidableEq, Repr

def hdrType (h : Nat) : Nat := bits h 0 4
def hdrB (h : Nat) : Bool := bits h 4 1 == 1
def hdrAscope (h : Nat) : Nat := bits h 5 2
def hdrRscope (h : Nat) : Nat := bits h 7 2
def hdrSlots (h : Nat) : Nat := bits h 9 2 + 1
def hdrIdem (h : Nat) : Bool := bits h 11 1 == 1
def hdrNpre (h : Nat) : Bool := bits h 12 1 == 1

/-- The header's rules (R314). -/
def hdrOk (h : Nat) : Bool :=
  let t := hdrType h
  bits h 13 3 == 0 && decide (t < 4) && (t == 1 || (!hdrIdem h && !hdrNpre h)) && !(hdrIdem h && hdrNpre h)
  && (t == 0 || (if t == 1 then decide (hdrSlots h ≤ 2) else hdrSlots h == 1))

/-- Step 2 of R320: header, slots, reserved fields, the signal's alignment. -/
def launchFormOk (k : LaunchPkt) : Bool :=
  hdrOk k.hdr && hdrType k.hdr == 1 && at_ k.b0 0x24 4 == 0 && at_ k.b0 0x28 8 % 8 == 0
  && (k.b1.isEmpty || at_ k.b1 0x0C 52 == 0)

/-- Budgets of a packet in cycles, cycles, bytes and entries. -/
def pktBudget (k : LaunchPkt) : List Int :=
  let n := fun (x : Nat) => (x : Int)
  if k.b1.isEmpty then [n (at_ k.b0 0x20 4 * 1024), 0, 0, 0]
  else [n (at_ k.b0 0x20 4 * 1024), n (at_ k.b1 0 4 * 1024), n (at_ k.b1 4 4 * 1024), n (at_ k.b1 8 4)]

/-- The pool fits (R197). -/
def poolOk (k : Kernel) : Bool :=
  let rf := bits k.pword 0 7
  let sp := bits k.pword 7 7
  let acc := bits k.pword 14 7
  decide (rf + sp + acc ≤ 64) && decide (acc ≤ 16) && decide ((k.groups * k.vregs + 255) / 256 ≤ rf)

/-- What the checks have found of a launch that passes them. -/
structure Passed where
  sel : Selected
  stages : Nat
  deriving DecidableEq, Repr

/-- Steps 1 to 8 of R320; `submit` is the governing notify's right. A launch of a full partition is not dispatched, which
only a caller that has passed step 7 asks (`partFull`). -/
def launchChecks (s : State) (v : Via) (k : LaunchPkt) (submit : Bool) : State × Res Passed :=
  let part := at_ k.b0 5 1
  let c := at_ k.b0 2 2
  if bits (rootsEntry s v.ctx) 0 1 == 0 || !submit then (s, .error 0x8A)
  else if !launchFormOk k then (s, .error 0x89)
  else if decide (16 ≤ part) || partEntry s part == 0 || bits (ctxPmask s v.ctx) part 1 == 0 || c == 0
      || decide ((partCores s part).length < c) then (s, .error 0x84)
  else
    match selectKernel s v (BitVec.ofNat 64 (at_ k.b0 8 8)) (at_ k.b0 6 2) (at_ k.b0 4 1) with
    | (s, .error e) => (s, .error e)
    | (s, .ok x) =>
      let st := x.kernel.stages
      if c < st then (s, .error 0x84)
      else if !poolOk x.kernel then (s, .error 0x85)
      else if at_ k.b0 0x20 4 == 0 then (s, .error 0x83)
      else (s, .ok { sel := x, stages := st })

/-- A Dealer holds at most 64 admitted launches of a partition. -/
def partFull (s : State) (p : Nat) : Bool := decide (64 ≤ (partLaunches s p).length)

/-- Steps 8 and 9. -/
def admitCode (s : State) (k : LaunchPkt) : Nat :=
  let deadline := at_ k.b0 0x18 8
  if deadline != 0 && decide (deadline ≤ s.dtime) then 0x82
  else
    admission s (at_ k.b0 5 1)
      { r := (pktBudget k).headD 0, c := at_ k.b0 2 2, deadline := deadline, npre := hdrNpre k.hdr }

/-- The lowest tag that no live launch has (R321). -/
def freeTag (s : State) : Nat :=
  ((List.range 65535).find? (fun i => s.launches.all (fun l => l.tag != i + 1))).getD 0 + 1

/-- Shoe extents: a packet's non-zero extent replaces the default (R13, R315). -/
def extentsOf (k : LaunchPkt) (x : Kernel) : List Nat :=
  (List.range 4).map (fun i =>
    let e := at_ k.b0 (0x30 + 4 * i) 4
    if e != 0 then e else x.shoe.getD i 0)

/-- The launch record that a packet and its kernel give. A `.idem` kernel in a packet with NPRE, which R13 and R314 together would refuse
and no step of R320 tests, is admitted with both. DESIGN CHOICE (notes/assumptions/14.md). -/
def launchOf (s : State) (ctx : Nat) (base : Word) (k : LaunchPkt) (x : Passed) : Launch :=
  let kn := x.sel.kernel
  let ds := kn.depths
  { Launch.zero with
    tag := freeTag s, ctx := ctx, queue := base, signal := BitVec.ofNat 64 (at_ k.b0 0x28 8)
    rscope := hdrRscope k.hdr, ascope := hdrAscope k.hdr, npre := hdrNpre k.hdr, idem := hdrIdem k.hdr || kn.kflags == 1
    part := at_ k.b0 5 1, c := at_ k.b0 2 2, s := x.stages, deadline := at_ k.b0 0x18 8, prio := ctxPrio s ctx
    order := s.nextOrder, args := BitVec.ofNat 64 (at_ k.b0 0x10 8), deckId := x.sel.deckId, code := x.sel.code
    entry := x.sel.entry, handler := x.sel.handler, pword := BitVec.ofNat 32 kn.pword, groups := kn.groups, vregs := kn.vregs
    lq := ds.getD 0 0, sq := ds.getD 1 0, cq := ds.getD 2 0, tq := ds.getD 3 0, budget := pktBudget k, sp := x.sel.sp, spCount := x.sel.spCount
    shoes := [(0, { ext := extentsOf k kn, given := 0, fifo := [] })] }

/-- The launch is admitted. -/
def addLaunch (s : State) (l : Launch) : State :=
  { s with launches := s.launches ++ [l], nextOrder := s.nextOrder + 1, tagCtx := sput 0 s.tagCtx l.tag l.ctx }

/-! ## Groups at creation (R15, R44, R183) -/

/-- A budget kind in the whole units of R192, never below 0. -/
def budgetUnits (kind : Nat) (b : Int) : Nat := if kind == 3 then b.toNat else b.toNat / 1024
def budgetsLeft (l : Launch) : List Nat := (List.range 4).map (fun i => budgetUnits i (l.budget.getD i 0))

/-- A group in the entry state. -/
def newGroup (l : Launch) : Group :=
  let all := BitVec.allOnes 64
  let g : Group := { Group.zero with
    status := .active, svc := l.svc, held := l.owed, budleft := budgetsLeft l, root := { Path.zero with mask := all, pc := l.entry } }
  let g := writeS (writeS g 1 l.args) 61 (BitVec.ofNat 64 (spBytes l))
  if l.idem then
    { g with ck := { ckv := true, ckpc := l.entry, mask := all, loops := [], fmt := fmtReset, flags := 0, guards := [] } }
  else g

/-! ## Placement (R326, R327, R344) -/

/-- A sampler's LFSR at placement (R356). DESIGN CHOICE (notes/assumptions/19.md). -/
def lfsrSeed (s : State) (ctx : Nat) : BitVec 24 :=
  let v := bits (regLE s (dbgBase ctx + 0x100) 8) 32 24
  if v = 0 then 1 else BitVec.ofNat 24 v

/-- Granules a launch's partition word names. -/
def granules (l : Launch) : Nat := bits l.pword.toNat 0 7 + bits l.pword.toNat 7 7 + bits l.pword.toNat 14 7

/-- Tags of the workgroups saved on a core for which `p` holds, oldest first; one that has retired needs no room. -/
def savedOn (s : State) (c : Nat) (p : Workgroup → Bool) : List Nat :=
  let ls := s.launches.filter (fun l =>
    l.cores.contains c && (s.core c).tag != l.tag && !(s.wg l.tag c).retired && p (s.wg l.tag c) && l.state != .admitted)
  (sortBy (fun a b => decide ((s.wg a.tag c).order ≤ (s.wg b.tag c).order)) ls).map (fun l => l.tag)

/-- Page out granules in place, oldest first, until the incoming launch fits (R344). -/
def pageOut (c need : Nat) : List Nat → State → State
  | [], s => s
  | t :: r, s =>
    let held := (t :: r).foldl (fun a x => a + granules (s.launch x)) 0
    if held + need ≤ 64 then s
    else pageOut c need r (s.updWg t c (fun w => { w with paged := true }))

/-- The core takes a launch's workgroup: active and pending set, sampler, order. Of a restored workgroup too the lowest-numbered live groups
form the active set, in that order of age, whatever set it held when it was saved. DESIGN CHOICE (notes/assumptions/14.md). -/
def occupy (s : State) (l : Launch) (c : Nat) : State :=
  let s := pageOut c (granules l) (savedOn s c (fun w => !w.paged)) s
  let live := (List.range l.groups).filter (fun g => !groupDone (s.group { tag := l.tag, core := c, grp := g }))
  s.updCore c (fun x =>
    { x with tag := l.tag, active := live.take 8, pending := live.drop 8, passed := [], lfsr := lfsrSeed s l.ctx, countdown := 0
             lineBuf := [] })

/-- A new launch on one core: its granules read 0, its groups are created (R44, R197). -/
def placeCore (s : State) (l : Launch) (c : Nat) : State :=
  let st := stageOf l c
  let s := s.updWg l.tag c (fun _ => { Workgroup.zero with stage := st })
  let s := (groupsOf l c).foldl (fun s g => s.setGroup g (newGroup l)) s
  occupy s l c

/-- Restored: the state each group was saved in (R333, R345). -/
def restoreGroup (s : State) (gid : GId) : State :=
  s.updGroup gid (fun g => match g.status with
    | .saved true => { g with status := .halted }
    | .saved false => { g with status := .active }
    | _ => g)

def restoreCore (s : State) (l : Launch) (c : Nat) : State :=
  let s := s.updWg l.tag c (fun w => { w with place := .core, paged := false })
  let s := (groupsOf l c).foldl restoreGroup s
  occupy s l c

/-- The cores stop for a launch: it is PLACING, and they hold it, without a group that may issue (R326). -/
def startPlacing (s : State) (l : Launch) (restore : Bool) : State :=
  let s := s.updLaunch l.tag (fun l => { l with state := .placing restore, reserved := [], stopped := [], asked := false })
  l.cores.foldl (fun s c => s.updCore c (fun x => { x with tag := l.tag, active := [], pending := [], passed := [], lineBuf := [] })) s

/-- A new launch takes its cores. -/
def placeNew (s : State) (l : Launch) (cores : List Nat) : State :=
  startPlacing (s.updLaunch l.tag (fun l => { l with cores := cores })) { l with cores := cores } false

/-- Every core is loaded: the Dealer reads the safe-point table (R349), each core gets its groups, and the launch is RUNNING (R326, R366). -/
def loadLaunch (s : State) (tag : Nat) : State :=
  let l := s.launch tag
  let d := dealerOf s l
  let p := readPoints s { die := d, ident := idDealer d, ctx := l.ctx, tag := 0 } l.sp l.spCount
  let s := p.1.updLaunch tag (fun l => { l with state := .running, points := p.2 })
  l.cores.foldl (fun s c => if l.state == .placing true then restoreCore s l c else placeCore s l c) s

/-- Service order (R327): deadline with background last, higher PRIO, earlier admission. -/
def servedBefore (a b : Launch) : Bool :=
  let d := fun (l : Launch) => if l.deadline = 0 then 2 ^ 64 else l.deadline
  if d a != d b then decide (d a < d b) else if a.prio != b.prio then decide (b.prio < a.prio) else decide (a.order < b.order)

def unplaced (s : State) (p : Nat) : List Launch :=
  sortBy servedBefore ((partLaunches s p).filter (fun l => l.state == .admitted || l.state == .saved))

/-- Place launch l on free cores outside `out`, if it can be: a saved launch on its own cores, another on those of its set, so far as that is
fixed, and the lowest-numbered others (R327). -/
def tryPlace (s : State) (p : Nat) (l : Launch) (out : List Nat) : Option State :=
  let ok := fun c => coreFree s c && !out.contains c
  if l.state == .saved then (if l.cores.all ok then some (startPlacing s l true) else none)
  else
    let set := (l.reserved ++ (partCores s p).filter (fun c => ok c && !l.reserved.contains c)).take l.c
    if set.length == l.c && set.all ok then some (placeNew s l (sortBy (fun a b => decide (a ≤ b)) set)) else none

/-- The cores that a launch gives up when it is asked: those that its workgroups still hold. -/
def heldCores (s : State) (v : Launch) : List Nat := v.cores.filter (fun c => (s.core c).tag == v.tag && !coreFree s c)

/-- The victims for `need` further cores: pre-emptible running launches of later deadline, latest first (R327). -/
def victims (s : State) (need : Nat) : List Launch → List Launch
  | [] => []
  | v :: r => if need = 0 then [] else v :: victims s (need - (heldCores s v).length) r

/-! ## Eviction (R341) -/

/-- A load that LC still counts goes to another die or to CXL. -/
def farLoad (s : State) (gid : GId) (g : Group) : Bool :=
  g.loadq.any (fun o => !o.loc && o.accs.any (fun a =>
    match locate s.part a.pa with
    | .slice h q => h / 6 != dieOf gid.core || decide (0x100000000000 ≤ q)
    | .register d _ | .notify d _ => d != dieOf gid.core
    | _ => false))

/-- A wait at which a group may be evicted. -/
def evictable (s : State) (gid : GId) (w : Wait) : Bool :=
  match w with
  | .barrier _ _ _ | .waitw _ _ _ _ _ | .draw _ _ _ _ | .deal _ _ _ _ _ _ _ | .xwait _ _ => true
  | .counters c => c.elc && farLoad s gid (s.group gid)
  | _ => false

/-- The group is at a blocking point: no path may issue, and every path that has not ended waits at one or stands at a join. -/
def atBlockingPoint (s : State) (gid : GId) : Bool :=
  let g := s.group gid
  let ks := match g.h, g.kept with
    | true, some x => [x.path]
    | _, _ => (pathKeys g).filter (fun k => !pathEnded g k)
  let open_ := fun k => (pathOf g k).waits.filter (fun w => !waitDone s gid w)
  g.status == .active && !g.cutback && ks.all (fun k => !(open_ k).isEmpty && (open_ k).all (fun w => evictable s gid w || w.stand.isSome))
  && ks.any (fun k => (open_ k).any (evictable s gid))

/-- The word of a `draw` or `deal` that waits. -/
def Wait.shoeWord : Wait → Option Word
  | .draw _ _ a _ => some a
  | .deal _ _ _ _ a _ _ => some a
  | _ => none

/-- A withdrawn draw and a deal given up run again from their own word, with all that the word waits for (R341). -/
def withdrawn (p : Path) : Path :=
  match p.waits.findSome? Wait.shoeWord with
  | some a => { p with pc := a, waits := [] }
  | none => p

/-- A group is saved at a blocking point, or as a halted group (R341, R346); an open region aborts (R243). -/
def evictGroup (s : State) (gid : GId) : State :=
  let g := s.group gid
  if g.status == .halted then s.setGroup gid { g with status := .saved true }
  else if atBlockingPoint s gid then
    let s := abortRegion s gid 8 0
    s.updGroup gid (fun g =>
      { g with status := .saved false, root := withdrawn g.root, split := g.split.map (fun x => (x.1, withdrawn x.2)) })
  else s

/-- A cutback to the checkpoint (R184). -/
def cutBack (g : Group) : Group :=
  let c := g.ck
  { g with split := [], face := [], loops := c.loops, flags := c.flags, guards := c.guards, h := false, kept := none
           cutback := false
           root := { Path.zero with mask := c.mask &&& ~~~g.gone, pc := c.ckpc, fmt := c.fmt } }

/-- A group whose window has ended: an open region aborts, which gives up its held stores (R243); once its stores have drained and its
loads completed, its own engine commands are abandoned without word or signal and it is cut back and saved (R295, R342). -/
def finishCut (s : State) (gid : GId) : State :=
  let cut := (s.group gid).cutback && (s.group gid).status == .active
  let s := if cut then abortRegion s gid 8 0 else s
  let g := s.group gid
  if cut && g.loadq.isEmpty && g.storeq.isEmpty then
    let s := abandonEngines (cutTags s gid.core (fun x => x == gid)) (s.launch gid.tag) gid.core 0 false (fun x => x == gid.grp)
    s.updGroup gid (fun g => { cutBack g with status := .saved false })
  else s

/-- Every group of a workgroup that can be saved now is. -/
def saveReady (s : State) (l : Launch) (c : Nat) : State :=
  if !l.asked then s else (groupsOf l c).foldl (fun s g => finishCut (evictGroup s g) g) s

/-- The Dealer asks launch `l` for its cores, on behalf of the launch of tag `who` (R327). -/
def askLaunch (who : Nat) (s : State) (l : Launch) : State :=
  let s := s.updLaunch l.tag (fun l => if l.asked then l else { l with asked := true, askedAt := s.dtime, askedFor := who })
  let l := s.launch l.tag
  l.cores.foldl (fun s c => saveReady s l c) s

/-- A launch of strictly later deadline. -/
def servedLater (l v : Launch) : Bool := l.deadline != 0 && (v.deadline == 0 || decide (l.deadline < v.deadline))

/-- The running launches of a partition that may be asked for cores on behalf of l, latest deadline first (R327). -/
def askable (s : State) (p : Nat) (l : Launch) : List Launch :=
  sortBy (fun a b => servedBefore b a) ((partLaunches s p).filter (fun v =>
    v.state == .running && !v.npre && servedLater l v && !(heldCores s v).isEmpty))

/-- The core set of a launch new to cores, and the launches asked for it: what is fixed already, free cores, those of launches that have
been asked before, and those of launches that are asked now, until there are C (R327). -/
def coreSet (s : State) (p : Nat) (l : Launch) : List Nat × List Launch :=
  let fresh := fun (set cs : List Nat) => set ++ cs.filter (fun c => !set.contains c)
  let set := fresh l.reserved ((partCores s p).filter (coreFree s))
  let set := fresh set ((partLaunches s p).flatMap (fun v => if v.state == .running && v.asked then heldCores s v else []))
  let vs := victims s (l.c - set.length) ((askable s p l).filter (fun v => !v.asked))
  ((fresh set (vs.flatMap (heldCores s))).take l.c, vs)

/-- The first unplaced launch asks for cores, and its set is fixed: a saved launch's is its own cores (R327). DEDUCED (notes/assumptions/14.md). -/
def requestCores (s : State) (p : Nat) (l : Launch) : State :=
  let x := if l.state == .saved then (l.cores, (askable s p l).filter (fun v => !v.asked && (heldCores s v).any (fun c => l.cores.contains c)))
    else coreSet s p l
  x.2.foldl (askLaunch l.tag) (s.updLaunch l.tag (fun l => { l with reserved := x.1 }))

/-- Only the first unplaced launch has a reserved set. -/
def dropReserved (s : State) (r : List Launch) : State :=
  r.foldl (fun s x => s.updLaunch x.tag (fun x => { x with reserved := [], stopped := [] })) s

/-- LAUNCH_PLACEMENT: a launch whose cores have stopped for it is loaded; else the first unplaced launch starts placing, or its core set
is fixed and cores are asked for; else a later launch starts placing outside that set. Nothing is placed while a clock change is
pending (R381). DEDUCED (notes/assumptions/14.md). -/
def launchPlacement (s : State) (p : Nat) : State :=
  if s.clkPend || s.bringup != 3 then s
  else match (partLaunches s p).find? (fun l => l.state == .placing true || l.state == .placing false), unplaced s p with
    | some l, _ => loadLaunch s l.tag
    | none, [] => s
    | none, l :: r =>
      let s := dropReserved s r
      match tryPlace s p l [] with
      | some s' => s'
      | none =>
        let s1 := requestCores s p l
        if s1 != s then s1
        else (r.findSome? (fun x => tryPlace s p { x with reserved := [] } (s.launch l.tag).reserved)).getD s

def execLaunchPlacement (part : Nat) (s : State) : Host.Outcome State Fault Refusal := .next (launchPlacement s part)

/-- POLITE_WINDOW_EXPIRY: the groups still running are cut back, or, without a checkpoint, the launch is terminated (R342). -/
def politeExpiry (s : State) (tag : Nat) : State :=
  let l := s.launch tag
  if l.tag == 0 || !l.asked || l.state != .running || decide (s.dtime < l.askedAt + 1000 * ctxPolite s l.ctx) then s
  else
    let gs := launchGroups l
    let s := gs.foldl evictGroup s
    let left := gs.filter (fun g => (s.group g).status == .active)
    if left.any (fun g => !(s.group g).ck.ckv) then terminate s tag 0x3F none 0
    else
      let s := left.foldl (fun s g => s.updGroup g (fun x => { x with cutback := true })) s
      left.foldl finishCut s

def execPoliteWindowExpiry (tag : Nat) (s : State) : Host.Outcome State Fault Refusal := .next (politeExpiry s tag)

/-- Every group of the workgroup is saved, retired or stopped. -/
def wgSaved (s : State) (l : Launch) (c : Nat) : Bool :=
  (groupsOf l c).all (fun g => match (s.group g).status with
    | .saved _ | .retired | .stopped => true
    | _ => false)

/-- The workgroup's engine commands may go with it: they resume at its restore, which only a launch with a saved group comes to; of one without,
they finish on their core first. DEDUCED (notes/assumptions/14.md). -/
def mayLeave (s : State) (l : Launch) (c : Nat) : Bool :=
  let w := s.wg l.tag c
  (launchGroups l).any (fun g => isSaved (s.group g)) || (w.tileq.isEmpty && w.copyq.isEmpty)

/-- SHADOW_SWAP: a saved workgroup swaps to shadow storage and frees its core; beyond eight images the group state of the oldest is paged
to the save area. Once it has left every core the launch is SAVED (R326, R344). -/
def shadowSwap (s : State) (tag c : Nat) : State :=
  let l := s.launch tag
  if l.tag == 0 || !l.asked || l.state != .running || (s.core c).tag != tag || (s.wg tag c).retired then s
  else
    let s := saveReady s l c
    if !wgSaved s l c || !mayLeave s l c then s
    else
      let s := s.updWg tag c (fun w => { w with place := .shadow, order := s.nextOrder })
      let s := { s with nextOrder := s.nextOrder + 1 }
      let s := stopFor (s.updCore c (fun x => { x with tag := 0, active := [], pending := [], lineBuf := [] })) c
      let old := savedOn s c (fun w => w.place == .shadow)
      let s := if 8 < old.length then s.updWg (old.headD 0) c (fun w => { w with place := .saveArea }) else s
      savedWhenLeft s tag

def execShadowSwap (tag core : Nat) (s : State) : Host.Outcome State Fault Refusal := .next (shadowSwap s tag core)

/-! ## Budgets (R192, R329) -/

/-- BUDGET_OVERRUN: a budget is below 0; of several the lowest-numbered kind is named, a DESIGN CHOICE (notes/assumptions/14.md): the launch goes to background and none of its budgets is enforced again; its groups
get the event, or it is terminated where its context does not let it run on. -/
def budgetOverrun (s : State) (tag : Nat) : State :=
  let l := s.launch tag
  match (List.range 4).find? (fun k => decide (l.budget.getD k 0 < 0)) with
  | none => s
  | some kind =>
    if l.tag == 0 || !l.enforced || l.state == .completing then s
    else
      let s := s.updLaunch tag (fun l => { l with enforced := false, deadline := 0 })
      if l.handler.isSome && !groupsMade l then
        s.updLaunch tag (fun l => { l with owed := l.owed ++ [{ code := 0x20, arg := kind, addr := 0 }] })
      else if l.handler.isSome then
        (launchGroups l).foldl (fun s g => holdEvent s g { code := 0x20, arg := kind, addr := 0 }) s
      else if ctxOvr s l.ctx then s
      else terminate s tag 0x20 none 0

def execBudgetOverrun (tag : Nat) (s : State) : Host.Outcome State Fault Refusal := .next (budgetOverrun s tag)

/-- BUDGET_REPORT: the figures that `s.budget` and BUDLEFT read. -/
def budgetReport (s : State) (tag : Nat) : State :=
  let l := s.launch tag
  if l.tag == 0 then s
  else (launchGroups l).foldl (fun s g => s.updGroup g (fun x => { x with budleft := budgetsLeft l })) s

def execBudgetReport (tag : Nat) (s : State) : Host.Outcome State Fault Refusal := .next (budgetReport s tag)

/-! ## Completion (R317, R324, R337, R338, R359) -/

/-- A partial-work entry (R338). -/
def pwBytes (e : PwEntry) : List Byte :=
  toBytes 1 e.kind ++ toBytes 1 e.grp ++ toBytes 2 e.core ++ toBytes 4 0 ++ toBytes 8 e.word.toNat ++ toBytes 8 e.done.toNat
  ++ toBytes 8 e.where_.toNat

/-- The partial-work table, cut at 2,047 entries. -/
def pwTable (l : Launch) : List Byte :=
  let es := l.pwt.take 2047
  toBytes 2 es.length ++ toBytes 2 l.tag ++ toBytes 12 0 ++ es.flatMap pwBytes

/-- A termination that dumps a group: a fault, or status 0x30; no kill and no overrun. DEDUCED (notes/assumptions/14.md). -/
def dumps (l : Launch) : Option GId :=
  match l.status with
  | some c => if c == 0 || c == 0x3F || c == 0x20 then none else l.cause
  | none => none

/-- The dump and the partial-work table are written to the next slot, then its address to DMPNOTE (R359). The answer is the
table's address, 0 for none. The table is written where it has an entry, also one of a load or a store that was outstanding and then drained.
A write that faults is not performed. DESIGN CHOICE (notes/assumptions/14.md). -/
def writeDump (s : State) (l : Launch) : State × Word :=
  let b := dbgBase l.ctx
  let base := regLE s (b + 0x140) 8
  let cnt := regLE s (b + 0x148) 8 % 256
  let grp := dumps l
  if base == 0 || cnt == 0 || (grp.isNone && l.pwt.isEmpty) then (s, 0)
  else
    let v : Via := { die := dealerOf s l, ident := idDealer (dealerOf s l), ctx := l.ctx, tag := 0 }
    let idx := regLE s (b + 0x150) 8
    let slot := base + 0x20000 * (idx % cnt)
    let img := match grp with
      | some g => groupImage s g
      | none => []
    let img := img ++ List.replicate (0x8800 - img.length) 0
    let s := (virtWrite v s slot img).1
    let s := if l.pwt.isEmpty then s else (virtWrite v s (slot + 0x10000) (pwTable l)).1
    let s := putReg s (b + 0x150) 8 (idx + 1)
    let s := (virtWrite v s (regLE s (b + 0x158) 8) (toBytes 8 slot)).1
    (s, if l.pwt.isEmpty then 0 else BitVec.ofNat 64 (slot + 0x10000))

/-- Charges in the units of their budgets, rounded up. -/
def chargeUnits (l : Launch) : List Nat :=
  (List.range 4).map (fun k =>
    let c := l.charged.getD k 0
    if k == 3 then c else (c + 1023) / 1024)

/-- Bytes 24 to 63 of a completion record (R324, R338). CORE and GROUP of a status that no group has caused and that is no kill, an overrun or a
rejection, are 0xFFFF and 0xFF. DESIGN CHOICE (notes/assumptions/14.md). -/
def recordRest (l : Launch) (pwt : Word) : Nat :=
  let kill := l.status == none || l.status == some 0 || l.status == some 0x3F
  let (core, grp) := match kill, l.cause with
    | false, some g => (g.core, g.grp)
    | _, _ => (0xFFFF, 0xFF)
  ofBytes ((chargeUnits l).flatMap (fun x => toBytes 4 x) ++ toBytes 4 l.first ++ toBytes 2 core ++ toBytes 1 grp
    ++ toBytes 1 (bits l.flagsOr.toNat 0 6) ++ toBytes 8 l.xpc.toNat ++ toBytes 8 pwt.toNat)

/-- A core's sampler still follows a word of a launch (R357). -/
def sampleOf (tag : Nat) (c : Core) : Bool := c.sample.any (fun r => r.gid.tag == tag) || c.due.any (fun r => r.gid.tag == tag)

/-- A launch may complete: it is COMPLETING, since every workgroup has retired or since it was terminated, and its operations have drained;
no tagged word of it is still open (R357). -/
def mayComplete (s : State) (l : Launch) : Bool :=
  l.tag != 0 && s.cores.all (fun c => !sampleOf l.tag c.2) && l.state == .completing && l.cores.all (fun c => wgDrained s l.tag c)

/-- Everything of a launch leaves the cores. -/
def freeLaunch (s : State) (l : Launch) : State :=
  let s := l.cores.foldl (fun s c =>
    let s := giveUpLines s l.tag c
    let left := fun (s : State) => s.updCore c (fun x => { x with tag := 0, active := [], pending := [] })
    let s := if (s.core c).tag != l.tag then s else if coreFree s c then left s else stopFor (left s) c
    (groupsOf l c).foldl (fun s g => s.setGroup g .zero) (s.updWg l.tag c (fun _ => .zero))) s
  let rest := s.launches.filter (fun x => x.tag != l.tag)
  { s with launches := rest.map (fun x => if x.askedFor == l.tag then { x with askedFor := 0 } else x), boomOps := s.boomOps.filter (fun o => o.gid.tag != l.tag) }

/-- The queue's packet of a launch is completed. -/
def packetDone (q : Queue) (p : Packet → Bool) : Queue :=
  let q := { q with inflight := q.inflight.filter (fun x => !p x) }
  match q.state with
  | .hold => if q.inflight.any (fun x => x.b) then q else { q with state := if q.ri == q.wl then .idle else .active }
  | _ => q

/-- LAUNCH_COMPLETION: dump and table, then the completion record, then the signal; the launch's cores and tag are free. -/
def launchCompletion (s : State) (tag : Nat) : State :=
  let l := s.launch tag
  if !mayComplete s l then s
  else
    let status := l.status.getD 0
    let d := dealerOf s l
    let (s, pwt) := writeDump s l
    let s := notice s d l.ctx { kind := 1, tag := tag, status := status, base := l.queue, rest := recordRest { l with status := some status } pwt }
    let s := signalPacket s d l.ctx tag l.signal status l.queue
    let s := { s with queues := s.queues.map (fun x => (x.1, packetDone x.2 (fun p => p.typ == 1 && p.tag == tag))) }
    freeLaunch s l

def execLaunchCompletion (tag : Nat) (s : State) : Host.Outcome State Fault Refusal := .next (launchCompletion s tag)

end Sys2Proof.Machine
end

