-- ==== Sys2Proof/Machine/Queues.lean ====
section
/-!
DEFINITION. User queues (R307 to R322, R388): the notify block's checks, forwarding and take-up, the state machine of a queue,
packet dispatch, barriers, abort, rearm and query.
-/

namespace Sys2Proof.Machine

/-! ## Capabilities (R308) -/

/-- A queue capability as it is presented. -/
structure Cap where
  base : Word
  ridx : Word
  logn : Nat
  owner : Nat
  submit : Bool
  notify : Bool
  abort : Bool
  query : Bool
  ok : Bool
  deriving DecidableEq, Repr

/-- Field rules of bits 159:0: LOGN 6 to 16, BASE 4 KiB-aligned, RIDX 8-aligned and canonical, reserved bits 0. -/
def capFieldsOk (v : Nat) : Bool :=
  bits v 157 3 == 0 && bits v 137 4 == 0 && decide (6 ≤ bits v 128 5) && decide (bits v 128 5 ≤ 16) && bits v 0 12 == 0
  && bits v 64 3 == 0 && canonical (BitVec.ofNat 64 (bits v 64 64))

/-- The capability in the first 32 bytes of a write; `ok` says that it is valid. -/
def capOf (b : List Byte) : Cap :=
  let v := ofBytes (b.take 32)
  { base := BitVec.ofNat 64 (bits v 0 64), ridx := BitVec.ofNat 64 (bits v 64 64), logn := bits v 128 5, owner := bits v 141 16
    submit := bits v 133 1 == 1, notify := bits v 134 1 == 1, abort := bits v 135 1 == 1, query := bits v 136 1 == 1
    ok := capFieldsOk v && BitVec.ofNat 96 (bits v 160 96) == Config.sealMac (BitVec.ofNat 160 (bits v 0 160)) }

/-! ## Queues of a serving die (R309) -/

/-- The packet processor of a die, for a context. -/
def viaPacket (die ctx : Nat) : Via := { die := die, ident := idPacket die, ctx := ctx, tag := 0 }

def servingDie (p : Part) (c : Cap) : Nat := c.base.toNat / 4096 % diesOf p

/-- The entry that holds a queue's state: die × 256 + entry. -/
def findQueue (s : State) (c : Cap) : Option Nat :=
  (s.queues.find? (fun q => q.1 / 256 == servingDie s.part c && q.2.base == c.base && q.2.ridx == c.ridx && q.2.logn == c.logn
    && q.2.owner == c.owner)).map (fun q => q.1)

def queueAt (s : State) (k : Nat) : Queue := sget .zero s.queues k
def updQueue (s : State) (k : Nat) (f : Queue → Queue) : State := { s with queues := sput .zero s.queues k (f (queueAt s k)) }

/-- The virtual address of slot i (R307). -/
def slotVa (q : Queue) (i : Nat) : Nat := (q.base.toNat + 64 * (i % 2 ^ q.logn)) % 2 ^ 64

/-- A notice of kind 5 about an access of the packet processor (R388). -/
def accessNotice (s : State) (die : Nat) (q : Queue) (e : Nat × Nat) : State :=
  notice s die q.owner { kind := 5, tag := 0, status := e.1, base := q.base, rest := e.2 }

/-- A notice of kind 3 (R324). -/
def queueNotice (s : State) (die : Nat) (q : Queue) (status va : Nat) : State :=
  notice s die q.owner { kind := 3, tag := 0, status := status, base := q.base, rest := q.ri + q.wl * 2 ^ 64 + va * 2 ^ 128 }

/-- The processor's Ri moves to `v` and is written to the read-index word; a write that faults is reported and Ri has
moved all the same (R313, R388). -/
def writeRi (s : State) (k v : Nat) : State :=
  let s := updQueue s k (fun q => { q with ri := v, covers := q.covers.filter (fun c => decide (v < c.1)) })
  let q := queueAt s k
  match virtWrite (viaPacket (k / 256) q.owner) s q.ridx.toNat (toBytes 8 v) with
  | (s, .ok _) => s
  | (s, .error e) => accessNotice s (k / 256) q e

/-! ## Packets (R314 to R316) -/

/-- `n` slots read from index i on; the first that faults ends it. -/
def readSlots (v : Via) (q : Queue) : Nat → State → Nat → State × Except (Nat × Nat) (List (List Byte))
  | 0, s, _ => (s, .ok [])
  | n + 1, s, i =>
    match virtRead v s (slotVa q i) 64 with
    | (s, .error e) => (s, .error e)
    | (s, .ok b) =>
      match readSlots v q n s (i + 1) with
      | (s, .error e) => (s, .error e)
      | (s, .ok r) => (s, .ok (b :: r))

/-- What reading the packet at Ri gives: its slots, a fault, or too few slots covered by notifies. -/
inductive PktRead
  | slots (bs : List (List Byte))
  | fault (e : Nat × Nat)
  | short (need : Nat)
  deriving DecidableEq, Repr

def readPacket (s : State) (die : Nat) (q : Queue) : State × PktRead :=
  let v := viaPacket die q.owner
  match readSlots v q 1 s q.ri with
  | (s, .error e) => (s, .fault e)
  | (s, .ok h) =>
    let n := hdrSlots (at_ (h.headD []) 0 2)
    if q.wl - q.ri < n then (s, .short n)
    else
      match readSlots v q (n - 1) s (q.ri + 1) with
      | (s, .error e) => (s, .fault e)
      | (s, .ok r) => (s, .slots (h ++ r))

/-- The completion signal's address: none for a NOP, a SIGNAL or a bad type, and none where it is misaligned. -/
def pktSignal (b : List Byte) : Word :=
  let a := match hdrType (at_ b 0 2) with
    | 1 => at_ b 0x28 8
    | 2 => at_ b 0x30 8
    | _ => 0
  if a % 8 == 0 then BitVec.ofNat 64 a else 0

/-- A BARRIER or SIGNAL packet keeps the rules of R314 and R316. -/
def smallPktOk (b : List Byte) : Bool :=
  let h := at_ b 0 2
  match hdrType h with
  | 0 => true
  | 2 =>
    let n := at_ b 0x38 1
    let as := (List.range 5).map (fun i => at_ b (8 + 8 * i) 8)
    at_ b 2 6 == 0 && at_ b 0x39 7 == 0 && decide (n ≤ 5) && as.all (fun a => a % 8 == 0) && at_ b 0x30 8 % 8 == 0
      && (as.take n).all (fun a => a != 0) && (as.drop n).all (fun a => a == 0)
  | 3 => at_ b 2 6 == 0 && at_ b 0x19 39 == 0 && at_ b 8 8 != 0 && at_ b 8 8 % 8 == 0 && decide (at_ b 0x18 1 ≤ 2)
  | _ => false

/-- A packet completes at once with a status: a LAUNCH writes its record with tag 0 first (R317, R324). DEDUCED (notes/assumptions/13.md). -/
def completePacket (s : State) (die : Nat) (q : Queue) (b : List Byte) (status : Nat) : State :=
  let s := if hdrType (at_ b 0 2) == 1 then
      notice s die q.owner { kind := 1, tag := 0, status := status, base := q.base
                             rest := recordRest { Launch.zero with status := some status } 0 }
    else s
  signalPacket s die q.owner 0 (pktSignal b) status q.base

/-! ## The queue's state machine (R312) -/

/-- The state after a packet has been dispatched. DEDUCED (notes/assumptions/13.md). -/
def afterDispatch (q : Queue) : Queue :=
  if q.ri == q.wl then { q with state := .idle }
  else if q.inflight.any (fun p => p.b) then { q with state := .hold } else { q with state := .active }

/-- The queue is ABORTED: a notice of kind 3; its undispatched packets complete with 0x8B as dispatch comes to them (R322). -/
def abortQueue (s : State) (k status va : Nat) : State :=
  let s := updQueue s k (fun q => { q with state := .aborted })
  queueNotice s (k / 256) (queueAt s k) status va

/-- The next packet of an ABORTED queue completes with 0x8B, if Wl covers it; the answer says whether one did. -/
def dropPacket (s : State) (k : Nat) : State × Bool :=
  let q := queueAt s k
  let die := k / 256
  if q.wl ≤ q.ri || q.stalled then (s, false)
  else
    match readPacket s die q with
    | (s, .short _) => (s, false)
    | (s, .fault e) => (updQueue (accessNotice s die q e) k (fun q => { q with stalled := true }), false)
    | (s, .slots bs) => (completePacket (writeRi s k (q.ri + bs.length)) die q (bs.headD []) 0x8B, true)

/-- Every packet that Wl covers. -/
def dropAll (k : Nat) : Nat → State → State
  | 0, s => s
  | n + 1, s =>
    match dropPacket s k with
    | (s, true) => dropAll k n s
    | (s, false) => s

/-- A packet has left `inflight`. -/
def finishPacket (s : State) (k at_ : Nat) : State := updQueue s k (fun q => packetDone q (fun p => p.at_ == at_))

/-! ## LAUNCH (R320, R321) -/

/-- What dispatch makes of a LAUNCH: a rejection, an admission, or nothing yet because its partition is full. -/
inductive LaunchFate
  | reject (code : Nat)
  | accept (l : Launch)
  | full
  deriving DecidableEq, Repr

def launchFate (s : State) (die : Nat) (q : Queue) (k : LaunchPkt) (submit : Bool) : State × LaunchFate :=
  let v := viaPacket die q.owner
  match launchChecks s v k submit with
  | (s, .error c) => (s, .reject c)
  | (s, .ok x) =>
    if partFull s (at_ k.b0 5 1) then (s, .full)
    else
      let c := admitCode s k
      if c != 0 then (s, .reject c)
      else (s, .accept (launchOf s q.owner q.base k x))

/-- The SUBMIT right of the notify that first covered the packet's last slot (R311). -/
def governedBySubmit (q : Queue) (n : Nat) : Bool :=
  match q.covers.find? (fun c => decide (q.ri + n ≤ c.1)) with
  | some c => c.2
  | none => false

def dispatchLaunch (s : State) (k : Nat) (bs : List (List Byte)) : State :=
  let q := queueAt s k
  let die := k / 256
  let b := bs.headD []
  let pkt : LaunchPkt := { hdr := at_ b 0 2, b0 := b, b1 := (bs.drop 1).headD [] }
  let n := bs.length
  match launchFate s die q pkt (governedBySubmit q n) with
  | (s, .full) => s
  | (s, .reject c) => updQueue (completePacket (writeRi s k (q.ri + n)) die q b c) k afterDispatch
  | (s, .accept l) =>
    let s := addLaunch (writeRi s k (q.ri + n)) l
    let p : Packet := { at_ := q.ri, typ := 1, b := hdrB pkt.hdr, tag := l.tag, signal := l.signal, rscope := hdrRscope pkt.hdr, watch := [] }
    updQueue s k (fun q => afterDispatch { q with inflight := q.inflight ++ [p] })

/-! ## BARRIER, SIGNAL and NOP (R318, R319) -/

/-- The one read-modify-write of a SIGNAL packet. -/
def signalOp (op : Nat) (v old : Word) : Word :=
  match op with
  | 0 => v
  | 1 => old + v
  | _ => old - v

def dispatchSignal (s : State) (k : Nat) (q : Queue) (b : List Byte) : State :=
  let die := k / 256
  match virtRmw (viaPacket die q.owner) s (at_ b 8 8) (signalOp (at_ b 0x18 1) (BitVec.ofNat 64 (at_ b 0x10 8))) with
  | (s, .ok _) => s
  | (s, .error e) => accessNotice s die q e

/-- A BARRIER without signals completes at once; another begins to watch. -/
def dispatchBarrier (s : State) (k : Nat) (q : Queue) (b : List Byte) : State :=
  let n := at_ b 0x38 1
  if n == 0 then signalPacket s (k / 256) q.owner 0 (pktSignal b) 0 q.base
  else
    let p : Packet := { at_ := q.ri, typ := 2, b := hdrB (at_ b 0 2), tag := 0, signal := pktSignal b, rscope := hdrRscope (at_ b 0 2)
                        watch := (List.range n).map (fun i => (BitVec.ofNat 64 (at_ b (8 + 8 * i) 8), false)) }
    updQueue s k (fun q => { q with inflight := q.inflight ++ [p] })

def dispatchSmall (s : State) (k : Nat) (bs : List (List Byte)) : State :=
  let q := queueAt s k
  let b := bs.headD []
  let h := at_ b 0 2
  let s := writeRi s k (q.ri + bs.length)
  let s := if !hdrOk h || !smallPktOk b then completePacket s (k / 256) q b 0x89
    else match hdrType h with
      | 2 => dispatchBarrier s k q b
      | 3 => dispatchSignal s k q b
      | _ => s
  updQueue s k afterDispatch

/-- PACKET_DISPATCH (R313): the packet at Ri is read, checked and dispatched. -/
def packetDispatch (s : State) (k : Nat) : State :=
  let q := queueAt s k
  let die := k / 256
  if q.stalled || q.wl ≤ q.ri then s
  else
    match q.state with
    | .aborted => (dropPacket s k).1
    | .active =>
      if q.inflight.any (fun p => p.b) then updQueue s k (fun q => { q with state := .hold })
      else if 16 ≤ q.inflight.length then s
      else
        match readPacket s die q with
        | (s, .fault e) => updQueue (accessNotice s die q e) k (fun q => { q with stalled := true })
        | (s, .short n) => updQueue s k (fun q => { q with state := .waitslots, need := n })
        | (s, .slots bs) => if hdrType (at_ (bs.headD []) 0 2) == 1 then dispatchLaunch s k bs else dispatchSmall s k bs
    | _ => s

def execPacketDispatch (q : Nat) (s : State) : Host.Outcome State Fault Refusal := .next (packetDispatch s q)

/-- A BARRIER fails: its own signal takes −0x8B and its queue is ABORTED (R322). -/
def failBarrier (s : State) (k : Nat) (p : Packet) : State :=
  let q := queueAt s k
  let s := signalPacket s (k / 256) q.owner 0 p.signal 0x8B q.base
  let s := updQueue s k (fun q => { q with inflight := q.inflight.filter (fun x => x.at_ != p.at_) })
  abortQueue s k 0x8B (slotVa q p.at_)

/-- BARRIER_SIGNAL_READ (R319): watched signal `i` is read again; the barrier fails, completes, or watches on. -/
def barrierSignalRead (s : State) (k pkt i : Nat) : State :=
  let q := queueAt s k
  let die := k / 256
  match q.inflight.find? (fun p => p.at_ == pkt && p.typ == 2) with
  | none => s
  | some p =>
    match p.watch[i]? with
    | none => s
    | some w =>
      match virtRead (viaPacket die q.owner) s w.1.toNat 8 with
      | (s, .error e) => failBarrier (accessNotice s die q e) k p
      | (s, .ok b) =>
        let v : Word := BitVec.ofNat 64 (ofBytes b)
        if v.slt 0 then failBarrier s k p
        else
          let watch := if v == 0 then p.watch.set i (w.1, true) else p.watch
          let s := updQueue s k (fun q =>
            { q with inflight := q.inflight.map (fun x => if x.at_ == pkt && x.typ == 2 then { x with watch := watch } else x) })
          if watch.all (fun x => x.2) then finishPacket (signalPacket s die q.owner 0 p.signal 0 q.base) k pkt else s

def execBarrierSignalRead (q pkt idx : Nat) (s : State) : Host.Outcome State Fault Refusal := .next (barrierSignalRead s q pkt idx)

/-! ## NOTIFY, ABORT and QUERY at the serving die (R311, R322) -/

/-- A notify with write index W. -/
def actNotify (s : State) (k : Nat) (c : Cap) (w : Nat) : State :=
  let q := queueAt s k
  if q.state == .halted then s
  else
    if w ≤ q.wl then updQueue s k (fun q => { q with stalled := false })
    else if 2 ^ q.logn < w - q.ri then
      let s := updQueue s k (fun q => { q with state := .halted })
      queueNotice s (k / 256) q 0x88 (slotVa q q.ri)
    else
      updQueue s k (fun q =>
        let st := match q.state with
          | .idle => QState.active
          | .waitslots => if q.need ≤ w - q.ri then .active else .waitslots
          | x => x
        { q with state := st, wl := w, covers := q.covers ++ [(w, c.submit)], stalled := false })

/-- ABORT command 1: the queue is ABORTED and its launches are killed. DEDUCED (notes/assumptions/13.md). -/
def actAbort (s : State) (k : Nat) : State :=
  let q := queueAt s k
  let s := abortQueue s k 0x3F 0
  (q.inflight.filter (fun p => p.typ == 1)).foldl (fun s p => terminate s p.tag 0x3F none 0) s

/-- ABORT command 2: an ABORTED or HALTED queue resumes at Wl. The packets of a HALTED queue are passed over without a status. DEDUCED (notes/assumptions/13.md). -/
def actRearm (s : State) (k : Nat) : State :=
  let q := queueAt s k
  if q.state != .aborted && q.state != .halted then s
  else
    let s := if q.state == .aborted then dropAll k (q.wl - q.ri) s else s
    let s := writeRi s k q.wl
    updQueue s k (fun q => { q with state := .idle, stalled := false, covers := [] })

def stateCode : QState → Nat
  | .idle => 0 | .active => 1 | .waitslots => 2 | .hold => 3 | .aborted => 4 | .halted => 5

/-- QUERY: the status record, whole or not at all (R388). -/
def actQuery (s : State) (k at_ : Nat) : State :=
  let q := queueAt s k
  let d := toBytes 8 q.ri ++ toBytes 8 q.wl ++ toBytes 4 (stateCode q.state) ++ toBytes 4 q.inflight.length ++ toBytes 8 0
  match virtStore (viaPacket (k / 256) q.owner) s at_ d with
  | (s, .ok _) => s
  | (s, .error e) => accessNotice s (k / 256) q e

/-- A checked write acted on. -/
def actWrite (s : State) (k off : Nat) (w : NWrite) : State :=
  match off with
  | 0 => actNotify s k (capOf w.data) (at_ w.data 32 8)
  | 0x40 => if at_ w.data 32 1 == 1 then actAbort s k else actRearm s k
  | _ => actQuery s k (at_ w.data 32 8)

/-! ## Arrival at a notify block (R309 to R311) -/

def rightOf (c : Cap) (off : Nat) : Bool :=
  match off with
  | 0 => c.notify
  | 0x40 => c.abort
  | _ => c.query

/-- Check 4: the zero bytes, and the command of an ABORT write. -/
def zeroBytesOk (off : Nat) (d : List Byte) : Bool :=
  (d.drop (if off == 0x40 then 33 else 40)).all (fun b => b == 0) && (off != 0x40 || at_ d 32 1 == 1 || at_ d 32 1 == 2)

/-- The context of a request that the die's notify block permits (R376). -/
def notifyCtx (s : State) (w : NWrite) : Option (Option Nat) :=
  decideAccess s w.die 7 w.by_ (0x280000000000 + w.die * 0x1000) .n

/-- A checked write goes to the serving die: it is acted on at once where that die holds the queue and nothing waits for it,
else it waits there (R309). -/
def routeWrite (s : State) (off : Nat) (w : NWrite) : State :=
  let c := capOf w.data
  let sd := servingDie s.part c
  let waiting := sget [] s.forwarded sd
  match findQueue s c with
  | some k =>
    if sd == w.die && !waiting.any (fun x => findQueue s (capOf x.2.data) == some k) then actWrite s k off w
    else { s with forwarded := sput [] s.forwarded sd (waiting ++ [(off, w)]) }
  | none => { s with forwarded := sput [] s.forwarded sd (waiting ++ [(off, w)]) }

/-- A write to NOTIFY, ABORT or QUERY as it arrives at a die. -/
def notifyArrive (s : State) (off : Nat) (w : NWrite) : State :=
  if diesOf s.part ≤ w.die then s
  else
    match notifyCtx s w with
    | none => countRefused s w.die
    | some ctx =>
      if w.data.length != 64 then countRefused s w.die
      else
        let c := capOf w.data
        if !c.ok || ctx != some c.owner || !zeroBytesOk off w.data then countRefused s w.die
        else if !rightOf c off then
          notice (countRefused s w.die) w.die c.owner { kind := 5, tag := 0, status := 0x8A, base := c.base, rest := off * 2 ^ 64 }
        else routeWrite s off w

def execNotify (w : NWrite) (s : State) : Host.Outcome State Fault Refusal := .next (notifyArrive s 0 w)
def execQuery (w : NWrite) (s : State) : Host.Outcome State Fault Refusal := .next (notifyArrive s 0x80 w)
/-- A write to the ABORT register whose command is not 2. -/
def execAbort (w : NWrite) (s : State) : Host.Outcome State Fault Refusal :=
  .next (if at_ w.data 32 1 == 2 then s else notifyArrive s 0x40 w)
/-- A write to the ABORT register whose command is 2. -/
def execRearm (w : NWrite) (s : State) : Host.Outcome State Fault Refusal :=
  .next (if at_ w.data 32 1 == 2 then notifyArrive s 0x40 w else s)

/-- NREFUSED_CLEAR: a write of ones to NREFUSED (R310). -/
def execNrefusedClear (die : Nat) (m : Master) (v : Word) (s : State) : Host.Outcome State Fault Refusal :=
  let a := 0x280000000000 + die * 0x1000 + 0xC0
  .next (if diesOf s.part ≤ die then s else (physWrite s m 0 a (toBytes 8 v.toNat)).1)

/-- The first element that `p` holds of, and the list without it. -/
def takeFirst {α : Type} (p : α → Bool) : List α → Option (α × List α)
  | [] => none
  | x :: r => if p x then some (x, r) else (takeFirst p r).map (fun y => (y.1, x :: y.2))

/-- NOTIFY_FORWARD: a forwarded write whose queue the die holds is acted on. -/
def notifyForward (s : State) (die : Nat) : State :=
  match takeFirst (fun (x : Nat × NWrite) => (findQueue s (capOf x.2.data)).isSome) (sget [] s.forwarded die) with
  | none => s
  | some (x, r) =>
    let s := { s with forwarded := sput [] s.forwarded die r }
    match findQueue s (capOf x.2.data) with
    | some k => actWrite s k x.1 x.2
    | none => s

def execNotifyForward (die : Nat) (s : State) : Host.Outcome State Fault Refusal := .next (notifyForward s die)

/-- A free entry of a die: one not in use, else one whose queue is IDLE with nothing dispatched (R309). -/
def freeQueueEntry (s : State) (die : Nat) : Option Nat :=
  let used := fun k => s.queues.any (fun q => q.1 == k)
  match (List.range 256).find? (fun e => !used (die * 256 + e)) with
  | some e => some (die * 256 + e)
  | none => (s.queues.find? (fun q => q.1 / 256 == die && q.2.state == .idle && q.2.inflight.isEmpty)).map (fun q => q.1)

/-- QUEUE_TAKE_UP: the serving die reads the read-index word, takes up the queue in IDLE and acts on the write; a read that
faults drops the write (R309, R388). -/
def queueTakeUp (s : State) (die : Nat) : State :=
  match takeFirst (fun (x : Nat × NWrite) => (findQueue s (capOf x.2.data)).isNone) (sget [] s.forwarded die) with
  | none => s
  | some (x, r) =>
    match freeQueueEntry s die with
    | none => s
    | some k =>
      let c := capOf x.2.data
      let q : Queue := { Queue.zero with base := c.base, ridx := c.ridx, logn := c.logn, owner := c.owner }
      let s := { s with forwarded := sput [] s.forwarded die r }
      match virtRead (viaPacket die c.owner) s c.ridx.toNat 8 with
      | (s, .error e) => accessNotice s die q e
      | (s, .ok b) =>
        let i := ofBytes b
        actWrite (updQueue s k (fun _ => { q with ri := i, wl := i })) k x.1 x.2

def execQueueTakeUp (die : Nat) (s : State) : Host.Outcome State Fault Refusal := .next (queueTakeUp s die)

end Sys2Proof.Machine
end

