-- ==== Sys2Proof/Machine/Platform.lean ====
section
/-!
DEFINITION. Bring-up and reset (R382, R387), firmware and its services (R379, R383), power, clock and the thermal trip (R330,
R381), translation shootdown (R348, R384).
-/

namespace Sys2Proof.Machine

/-! ## Reset and bring-up (R382, R383, R387) -/

/-- PACKAGE_RESET. The part, the model's own inputs, and the record of a thermal trip stay; nothing else does. DESIGN CHOICE (notes/assumptions/12.md). -/
def packageReset (s : State) : State :=
  { State.reset with part := s.part, sched := s.sched, cur := s.cur, thermstat := if s.stopped then s.thermstat else [] }

def execPackageReset (s : State) : Host.Outcome State Fault Refusal := .next (packageReset s)

/-- THERMSTAT of every die. -/
def setThermstat (s : State) (v : Nat) : State :=
  { s with thermstat := (List.range (diesOf s.part)).foldl (fun m d => sput 0 m d (BitVec.ofNat 64 v)) s.thermstat }

/-- Exactly `n` bytes of a free byte string. -/
def fit (n : Nat) (b : List Byte) : List Byte := (List.range n).map (fun i => b.getD i 0)

/-- The boot ROM accepts an image under the key of the fused digest when its signature verifies (R383). -/
def firmwareOk (image : List Byte) : Bool :=
  let (key, sig, body) := Config.firmwareCard image
  sha512 key == fit 64 Config.fusedDigest && ecdsaOk key sig (sha512 body)

/-- The accepted image lies in every Yarder's SRAM from address 0 on, where the Yarder begins (R378). DESIGN CHOICE (notes/assumptions/20.md). -/
def loadFirmware (s : State) (image : List Byte) : State :=
  (List.range (2 * diesOf s.part)).foldl (fun s y =>
    s.updYarder y (fun x => { x with sram := writeBytes x.sram 0 (image.take 0x40000) })) s

/-- FIRMWARE_CHECK: accepted firmware ends step 1 and is what the Yarders run; other firmware holds the package in reset. -/
def firmwareCheck (s : State) (image : List Byte) : State :=
  if s.bringup != 0 then s
  else if firmwareOk image then loadFirmware { s with bringup := 1, firmware := image } image
  else setThermstat { s with bringup := 9 } (0xE1 * 2 ^ 56)

def execFirmwareCheck (image : List Byte) (s : State) : Host.Outcome State Fault Refusal := .next (firmwareCheck s image)

/-- MEMORY_TRAINING: every physical byte is 0; every tile is non-resident with an empty log. -/
def memoryTraining (s : State) : State := if s.bringup == 1 then { s with bringup := 2, mem := [], tiles := [] } else s

def execMemoryTraining (s : State) : Host.Outcome State Fault Refusal := .next (memoryTraining s)

/-- The window that lets host node 0 reach the register window: V, R and W, any context. DESIGN CHOICE (notes/assumptions/12.md). -/
def bootWindow : Nat := 0x7 + 0x200000000 * 2 ^ 36 + 0x3FFFFFFFF * 2 ^ 72 + 0xFFFF * 2 ^ 112

/-- LINK_UP: host node 0 belongs to group 63 of every register block, whose window 0 grants the register window (R376). -/
def linkUp (s : State) : State :=
  if s.bringup != 2 then s
  else
    let grant := fun (m : Memory) (d : Nat) =>
      let b := atBase d 8
      writeLE (writeByte m (b + 0x2000 + 0x800) 63) (b + 0x4000 + 256 * 63) 16 bootWindow
    { s with bringup := 3, atab := (List.range (diesOf s.part)).foldl grant s.atab }

def execLinkUp (s : State) : Host.Outcome State Fault Refusal := .next (linkUp s)

/-! ## Thermal trip (R381) -/

/-- A stop flit (R385), whose sender is the package, as that of a response is. DEDUCED (notes/assumptions/31.md). -/
def stopFlit (p : Part) : List Byte := headerFlit 0x05 (idPeer p.package) 0 0 0

/-- THERMAL_TRIP: a stop flit on every port, THERMSTAT holds the die and DTIME, every clock stops. -/
def thermalTrip (s : State) (die : Nat) : State :=
  if diesOf s.part ≤ die then s
  else
    let s := (List.range (diesOf s.part)).foldl (fun s d => sendFlits s d [stopFlit s.part]) s
    { setThermstat s (die * 2 ^ 56 + s.dtime % 2 ^ 56) with stopped := true }

def execThermalTrip (die : Nat) (s : State) : Host.Outcome State Fault Refusal := .next (thermalTrip s die)

/-! ## The clock takes effect (R330, R381) -/

/-- A launch loses its deadline: it goes to background, its context gets a notice of kind 2, its handler the code 0x21. DESIGN CHOICE (notes/assumptions/14.md). -/
def atRisk (s : State) (l : Launch) : State :=
  let mhz := 1500 + 500 * s.clkCur.toNat
  let left := (l.budget.headD 0).toNat
  let s := s.updLaunch l.tag (fun l => { l with deadline := 0 })
  let s := notice s (dealerOf s l) l.ctx
    { kind := 2, tag := l.tag, status := 0x21, base := l.queue, rest := l.deadline % 2 ^ 64 + left % 2 ^ 64 * 2 ^ 64 + mhz * 2 ^ 128 }
  let e : HeldEv := { code := 0x21, arg := 0, addr := 0 }
  if l.handler.isNone then s
  else if !groupsMade l then s.updLaunch l.tag (fun l => { l with owed := l.owed ++ [e] })
  else (launchGroups l).foldl (fun s g => holdEvent s g e) s

/-- The re-test of a partition: launches are added in service order; one whose addition fails is demoted. -/
def retestGo (p : Nat) : List Launch → List Demand → State → State
  | [], _, s => s
  | l :: r, xs, s =>
    let xs' := xs ++ [demandOf l]
    let all := (partLaunches s p).map demandOf
    if demand xs' all (partCores s p).length s.dtime (clk2 s.clkCur) true then retestGo p r xs' s
    else retestGo p r xs (atRisk s l)

def retest (s : State) (p : Nat) : State :=
  retestGo p (sortBy servedBefore ((partLaunches s p).filter (fun l => l.deadline != 0))) [] s

/-- CLOCK_CHANGE: the clock of the last write takes effect; when it differs, every Dealer re-tests. -/
def clockChange (s : State) : State :=
  if !s.clkPend then s
  else if s.clkSet == s.clkCur then { s with clkPend := false }
  else (List.range 16).foldl retest { s with clkPend := false, clkCur := s.clkSet }

def execClockChange (s : State) : Host.Outcome State Fault Refusal := .next (clockChange s)

/-! ## Shootdown (R348, R384) -/

/-- SDREQ: context, virtual base, length. -/
def shootdownRequest (s : State) (d : List Byte) : State :=
  { s with sdreqs := s.sdreqs ++ [(at_ d 0 2, at_ d 8 8, at_ d 16 8)] }

/-- A translation of the range (die by die). -/
def inShootdown (ctx base len : Nat) (t : TlbEntry) : Bool :=
  t.ctx == ctx && len != 0 && overlaps t.vbase t.bytes base len

/-- An address whose translation is dropped: in the range's 64 KiB pages, or in the page of a dropped translation. -/
def shotAddr (s : State) (ctx base len va : Nat) : Bool :=
  len != 0 && (overlaps (va / 65536 * 65536) 65536 base len
    || s.tlb.any (fun t => inShootdown ctx base len t && decide (t.vbase ≤ va) && decide (va < t.vbase + t.bytes)))

/-- An access of the context that used such a translation has not yet been performed. -/
def shotPending (s : State) (ctx base len : Nat) : Bool :=
  s.groups.any (fun x =>
    let tag := x.1 / 2 ^ 14
    (s.launch tag).ctx == ctx && (x.2.loadq ++ x.2.storeq).any (fun o => !o.loc && o.accs.any (fun a =>
      (a.st == .pending || a.st == .queued) && shotAddr s ctx base len a.va.toNat)))

/-- SHOOTDOWN_COMPLETION: the translations and the instruction-cache lines of the oldest request's range are gone, and SDSTAT
counts it. -/
def shootdownCompletion (s : State) : State :=
  match s.sdreqs with
  | [] => s
  | (ctx, base, len) :: r =>
    if shotPending s ctx base len then s
    else
      let keep := fun (x : ILine) => !(x.ctx == ctx && shotAddr s ctx base len (x.line * 128))
      let cores := s.cores.map (fun c => (c.1, { c.2 with icache := c.2.icache.filter keep }))
      { s with sdreqs := r, sdstat := s.sdstat + 1, tlb := s.tlb.filter (fun t => !inShootdown ctx base len t)
               cores := cores.filter (fun c => c.2 != Core.zero) }

def execShootdownCompletion (s : State) : Host.Outcome State Fault Refusal := .next (shootdownCompletion s)

/-! ## Firmware services (R379, R383) -/

/-- Firmware runs. -/
def firmwareRuns (s : State) : Bool := decide (1 ≤ s.bringup) && decide (s.bringup ≤ 3)

def yarderMaster (y : Nat) : Master := { ident := idYarder y, ctx := none }

/-- A capability that may be minted for a writer (R379). -/
def mintOk (s : State) (m : Master) (v : Nat) : Bool :=
  isHost m.ident && capFieldsOk v && canonical (BitVec.ofNat 64 (bits v 0 64)) && bits (rootsEntry s (bits v 141 16)) 0 1 == 1

/-- MINTREQ: Yarder 0 of the die writes the result area: capability, status, zeros. DEDUCED (notes/assumptions/30.md). -/
def mintreq (s : State) (m : Master) (die : Nat) (d : List Byte) : State :=
  let v := at_ d 0 20
  let out := at_ d 32 8
  let ok := mintOk s m v
  let cap := if ok then v + (Config.sealMac (BitVec.ofNat 160 v)).toNat * 2 ^ 160 else 0
  if !firmwareRuns s || out % 64 != 0 then s
  else (physWriteAll s (yarderMaster (2 * die)) out (toBytes 32 cap ++ toBytes 8 (if ok then 0 else 0x8A) ++ toBytes 24 0)).1

/-- The first 380 bytes of a quote. -/
def quoteBody (s : State) (nonce : List Byte) : List Byte :=
  fit 32 nonce ++ fit 64 (sha512 s.firmware) ++ toBytes 8 (capsOf s.part).toNat ++ [s.part.stepping] ++ toBytes 7 0
  ++ fit 64 Config.fusedDigest ++ toBytes 8 s.dtime ++ toBytes 4 1 ++ toBytes 4 0 ++ ecdsaPublic Config.attestPrivate ++ toBytes 55 0

/-- r and s of a quote. -/
def quoteSig (body : List Byte) : List Byte :=
  let h := sha512 body
  ecdsaSign Config.attestPrivate (Config.attestNonce h) h

/-- ATTREQ: the Yarder writes the signed quote, its FORMAT with it. -/
def attest (s : State) (d : List Byte) : State :=
  let out := at_ d 32 8
  let body := quoteBody s (d.take 32)
  if !firmwareRuns s || out % 64 != 0 then s
  else (physWriteAll s (yarderMaster 0) out (body ++ quoteSig body)).1

/-- A group of a launch stands halted by `halt` (R193), on its core or saved. -/
def haltedBySelf (s : State) (l : Launch) : Bool :=
  (launchGroups l).any (fun g =>
    (s.group g).byHalt && ((s.group g).status == .halted || (s.group g).status == .saved true))

/-- SVCCTL, written by a Yarder of the block's die: a service-mode group is resumed, or a service-mode launch ended (R379). A group that
`halt` has stopped stays halted for every Yarder but the one that launched it (R193). DEDUCED (notes/assumptions/30.md). -/
def svcctl (s : State) (m : Master) (die v : Nat) : State :=
  let l := s.launch (bits v 16 16)
  let g : GId := { tag := l.tag, core := bits v 32 16, grp := bits v 48 5 }
  let own := m.ident == idYarder l.svcBy
  if !((m.ident == idYarder (2 * die)) || m.ident == idYarder (2 * die + 1)) || bits v 2 14 != 0 || bits v 53 11 != 0 || l.tag == 0 || !l.svc
  then s
  else match bits v 0 2 with
    | 1 => if own && l.cores.contains g.core && (s.group g).status == .halted && (s.group g).byHalt then resumeGroup s g else s
    | 2 => if own || !haltedBySelf s l then terminate s l.tag 0x3F none 0 else s
    | _ => s

end Sys2Proof.Machine
end

