-- ==== Sys2Proof/Machine/Windows.lean ====
section
/-!
DEFINITION. Requests to the device windows from outside the cores (R372, R375, R376): each register's own rules of size, and the
events that are writes of one register.
-/

namespace Sys2Proof.Machine

/-- A register that acts on one 64-byte write: the operation on its data. -/
def block64 (s : State) (m : Master) (a : Nat) : Option (List Byte → State) :=
  match regAt s.part a with
  | .pkg o => if o == 0x40 then some (shootdownRequest s) else if o == 0xC0 then some (attest s) else none
  | .die d o => if o == 0x30040 then some (mintreq s m d) else none
  | _ => none

/-- SVCCTL of a die. -/
def svcDieAt (p : Part) (a : Nat) : Option Nat :=
  match regAt p a with
  | .die d o => if o == 0x30080 then some d else none
  | _ => none

/-- The die of a NOTIFY, ABORT or QUERY register's own address. -/
def notifyAt (p : Part) (a : Nat) : Option (Nat × Nat) :=
  match regAt p a with
  | .notify d o => if o == 0 || o == 0x40 || o == 0x80 then some (d, o) else none
  | _ => none

/-- A write request to a physical address (R372): ACCESS_DENIED, or performed under the register's own rules. -/
def devWrite (s : State) (m : Master) (a : Nat) (d : List Byte) : State × Res Unit :=
  match notifyAt s.part a, d.length == 64 with
  | some (die, o), true =>
    let w : NWrite := { die := die, by_ := m, data := d }
    (notifyArrive s o w, if (notifyCtx s w).isSome then .ok () else .error 0x0C)
  | _, _ =>
    if !permitted s m a (writePerm s.part a) then (denied s a, .error 0x0C)
    else
      match block64 s m a, svcDieAt s.part a with
      | some f, _ => (if d.length == 64 then f d else s, .ok ())
      | none, some die => (if d.length == 8 then svcctl s m die (ofBytes d) else s, .ok ())
      | none, none => physWriteAll s m a d

/-- A write of a register as an event. -/
def regEvent (s : State) (m : Master) (a : Nat) (d : List Byte) : Host.Outcome State Fault Refusal := .next (devWrite s m a d).1

def execRegisterWrite (m : Master) (addr : Nat) (data : List Byte) (s : State) : Host.Outcome State Fault Refusal :=
  regEvent s m addr data
def execClklockWrite (m : Master) (v : Word) (s : State) : Host.Outcome State Fault Refusal :=
  regEvent s m pkgBase (toBytes 8 v.toNat)
def execPwrgateWrite (m : Master) (die : Nat) (v : Word) (s : State) : Host.Outcome State Fault Refusal :=
  regEvent s m (dieBase die + 0x10000) (toBytes 8 v.toNat)
def execPartitionWrite (m : Master) (p : Nat) (v : Word) (s : State) : Host.Outcome State Fault Refusal :=
  if p < 16 then regEvent s m (partBase p) (toBytes 8 v.toNat) else .next s
/-- ACCESS_WINDOW_WRITE: the half at offset 8 of window `win` of group `group` of the selected target (R377). -/
def execAccessWindowWrite (m : Master) (die group win : Nat) (v : Word) (s : State) : Host.Outcome State Fault Refusal :=
  if group < 64 && win < 16 then regEvent s m (dieBase die + 0x4000 + 256 * group + 16 * win + 8) (toBytes 8 v.toNat) else .next s

def execShootdownRequest (m : Master) (data : List Byte) (s : State) : Host.Outcome State Fault Refusal :=
  regEvent s m (pkgBase + 0x40) data
def execAttestationRequest (m : Master) (data : List Byte) (s : State) : Host.Outcome State Fault Refusal :=
  regEvent s m (pkgBase + 0xC0) data
def execMintreq (m : Master) (die : Nat) (data : List Byte) (s : State) : Host.Outcome State Fault Refusal :=
  regEvent s m (yctlBase die + 0x40) data
/-- SVC_RESUME: a write of SVCCTL with CMD 1. -/
def execSvcResume (m : Master) (die : Nat) (v : Word) (s : State) : Host.Outcome State Fault Refusal :=
  if bits v.toNat 0 2 == 1 then regEvent s m (yctlBase die + 0x80) (toBytes 8 v.toNat) else .next s
/-- SVC_END: a write of SVCCTL with CMD 2. -/
def execSvcEnd (m : Master) (die : Nat) (v : Word) (s : State) : Host.Outcome State Fault Refusal :=
  if bits v.toNat 0 2 == 2 then regEvent s m (yctlBase die + 0x80) (toBytes 8 v.toNat) else .next s

/-! ## The debug block (R351 to R355) -/

/-- A write of DBGCMD whose CMD is `cmd`. -/
def dbgcmdEvent (s : State) (m : Master) (ctx : Nat) (v : Word) (cmd : Nat) : Host.Outcome State Fault Refusal :=
  if bits v.toNat 0 2 == cmd && decide (ctx < 65536) then regEvent s m (dbgBase ctx + 8) (toBytes 8 v.toNat) else .next s

def execDebugHaltLaunch (m : Master) (ctx : Nat) (v : Word) (s : State) : Host.Outcome State Fault Refusal := dbgcmdEvent s m ctx v 1
def execDebugResumeLaunch (m : Master) (ctx : Nat) (v : Word) (s : State) : Host.Outcome State Fault Refusal := dbgcmdEvent s m ctx v 2
def execDebugResumeGroup (m : Master) (ctx : Nat) (v : Word) (s : State) : Host.Outcome State Fault Refusal := dbgcmdEvent s m ctx v 3

/-- A write inside one of the 64 KiB state and pool windows. -/
def windowEvent (s : State) (m : Master) (ctx win off : Nat) (d : List Byte) : Host.Outcome State Fault Refusal :=
  if ctx < 65536 && off + d.length ≤ 0x10000 then regEvent s m (dbgBase ctx + win + off) d else .next s

def execGstateWrite (m : Master) (ctx off : Nat) (data : List Byte) (s : State) : Host.Outcome State Fault Refusal :=
  windowEvent s m ctx 0x10000 off data
def execGpoolWrite (m : Master) (ctx off : Nat) (data : List Byte) (s : State) : Host.Outcome State Fault Refusal :=
  windowEvent s m ctx 0x20000 off data

end Sys2Proof.Machine
end

