-- ==== Sys2Proof/Machine/Debug.lean ====
section
/-!
DEFINITION. Safe points (R349, R350), halts before them (R352, R353), and the tagged-instruction sampler (R356 to R358).
-/

namespace Sys2Proof.Machine

/-! ## The word at a path's pc -/

/-- The word at an address as a group of core `gid.core` fetches it. -/
def fetchWord (s : State) (gid : GId) (w : Word) : State × Res Fetched :=
  match fetchUnit s gid.core (s.launch gid.tag).ctx gid.tag w with
  | (s, .error c) => (s, .error c)
  | (s, .ok u) => (s, .ok (decodeUnit (s.group gid).svc (w &&& 15 == 8) u))

/-- STOP of a word. -/
def stopBit : Fetched → Bool
  | .pair st _ _ _ _ _ => st
  | .solo _ st _ _ => st
  | .badFormat => false

/-- The ordinal of the safe point at `w`, if the deck's table names it (R349). -/
def ordinalAt (l : Launch) (w : Word) : Option Nat :=
  (l.points.find? (fun p => p.1 == (w - l.code).toNat)).map (fun p => p.2)

/-- SPORD takes the ordinal of a safe point (R350). -/
def passPoint (s : State) (gid : GId) (stop : Bool) (w : Word) : State :=
  match stop, ordinalAt (s.launch gid.tag) w with
  | true, some n => s.updGroup gid (fun g => { g with spord := BitVec.ofNat 32 n })
  | _, _ => s

/-! ## Halts (R352, R353) -/

/-- An enabled breakpoint stands on ordinal `n` of the launch's deck (R351). -/
def breakpointAt (s : State) (l : Launch) (n : Nat) : Bool :=
  regLE s (dbgBase l.ctx + 0xC0) 8 == l.deckId.toNat
  && (List.range 16).any (fun i =>
    let b := regLE s (dbgBase l.ctx + 0x40 + 8 * i) 8
    bits b 63 1 == 1 && bits b 0 32 == n)

/-- The words at which the group's resumed paths still stand. -/
def resuming (g : Group) : List Skip := g.skip.filter (fun x => (pathKeys g).contains x.path && (pathOf g x.path).pc == x.word)

/-- A cause to halt path `k` before the safe point `n`: a request; a step, once every word at which the group resumed has issued; a
breakpoint, unless the path halted before this very word. DEDUCED (notes/assumptions/24.md). -/
def haltCause (s : State) (gid : GId) (k n : Nat) : Bool :=
  let g := s.group gid
  let rs := resuming g
  g.haltReq || (g.stepReq && rs.isEmpty)
  || (!rs.any (fun x => x.path == k && x.points) && breakpointAt s (s.launch gid.tag) n)

/-- The group halts before path `k` issues the word at `w` if that is a safe point with a cause. An open region is aborted first, and the group
then halts at the next safe point. The answer says whether the word does not issue now. -/
def haltBefore (s : State) (gid : GId) (k : Nat) (stop : Bool) (w : Word) : State × Bool :=
  match stop, ordinalAt (s.launch gid.tag) w with
  | true, some n =>
    if !haltCause s gid k n then (s, false)
    else if regionOpen (s.group gid) then
      ((abortRegion s gid 8 0).updGroup gid (fun g => { g with haltReq := true }), true)
    else (haltGroup (passPoint s gid true w) gid { path := k, word := w, points := true } false, true)
  | _, _ => (s, false)

/-- SAFE_POINT_HALT: path `k` stands before a safe-point word with a cause to halt. -/
def safePointHalt (s : State) (gid : GId) (k : Nat) : State :=
  if !(readyPaths s gid).contains k then s
  else
    let w := (pathOf (s.group gid) k).pc
    match fetchWord s gid w with
    | (s, .ok f) => (haltBefore s gid k (stopBit f) w).1
    | (_, .error _) => s

def execSafePointHalt (g : GId) (path : Nat) (s : State) : Host.Outcome State Fault Refusal := .next (safePointHalt s g path)

/-! ## The sampler (R356) -/

def smpctl (s : State) (ctx : Nat) : Nat := regLE s (dbgBase ctx + 0x100) 8

/-- The sampler runs on a core: EN of the context of the launch there. -/
def sampling (s : State) (c : Nat) : Bool := (s.core c).tag != 0 && bits (smpctl s (coreLaunch s c).ctx) 0 1 == 1

/-- One step of x^24 + x^23 + x^22 + x^17 + 1 (notes/assumptions/19.md). -/
def lfsrNext (x : BitVec 24) : BitVec 24 :=
  x <<< 1 ||| (if x.getLsbD 23 ^^ x.getLsbD 22 ^^ x.getLsbD 21 ^^ x.getLsbD 16 then 1 else 0)

/-- The countdown's next value: (LFSR AND (2^(K+1) − 1)) + 1. -/
def nextCountdown (s : State) (c : Nat) : Nat :=
  (s.core c).lfsr.toNat % 2 ^ (bits (smpctl s (coreLaunch s c).ctx) 8 5 + 1) + 1

/-- A word's slot that the record follows: the vector slot unless that is the nop (R357). -/
def followsVector : Fetched → Bool
  | .pair _ _ _ _ _ v => v != .ok .vNop
  | .solo _ _ esc d => !esc && d != .ok .vNop
  | .badFormat => false

/-- The guard of a word does not hold (R65). -/
def guardFails (g : Group) : Fetched → Bool
  | .pair _ gen neg k _ _ => gen && readGuard g k != .unres && readGuard g k != Guard.ofBool (!neg)
  | _ => false

/-- The engine command of a word that was enqueued while the word's guard was unresolved (R65). -/
def boundId (s : State) (gid : GId) (k : Nat) (w : Word) : Option Nat :=
  let wg := s.wg gid.tag gid.core
  let ids := (wg.tileq.filter (fun o => o.grp == gid.grp && o.word == w && o.bind.isSome)).map (fun o => o.id)
    ++ (wg.copyq.filter (fun o => o.grp == gid.grp && o.word == w && o.bind.isSome)).map (fun o => o.id)
    ++ (s.boomOps.filter (fun o => o.gid == gid && o.word == w && !o.ended)).map (fun o => o.id)
  if (pathOf (s.group gid) k).bound then ids.max? else none

/-- The instruction reads its descriptor in the scratchpad: that of a copy or of a collective, unless the command is suppressed or the address
faults (R294, R301). -/
def readsDesc (s : State) : Instr → Bool
  | .cCopy _ _ b _ _ _ | .cCopyt _ _ b _ _ _ _ | .cSend _ _ b _ _ _ _ => !skidSuppressed s && reads b 208
  | .xAllred a _ _ _ | .xAllmax a _ | .xBcast a _ | .xGather a _ => !boomSuppressed s && reads a 64
  | _ => false
where
  reads (a : SReg) (n : Nat) : Bool := (rs s a).toNat % 16 == 0 && spOk (s.launch s.iss.gid.tag) (rs s a) n

/-- The level of a word as it issues: 1 where its command reads a descriptor, as one enqueued before its guard was resolved has done (R65,
R358). -/
def descLevel (s : State) (g : Group) (bound : Bool) (f : Fetched) : Nat :=
  match (slotsOf f).1 with
  | .ok i => if (bound || !guardFails g f) && readsDesc s i then 1 else 0
  | _ => 0

/-- The word at `w` of path `k` is tagged as it issues; its operations are numbered from the next number on (`id1` = 0 until its
slots have acted), beside an engine command that it has enqueued before. -/
def tagWord (s : State) (gid : GId) (k : Nat) (w : Word) (f : Fetched) : State :=
  let g := s.group gid
  let l := s.launch gid.tag
  let wg := s.wg gid.tag gid.core
  let r : TagRec := { dtime := BitVec.ofNat 64 s.dtime, gid := gid, path := k, deck := l.deckId, offs := (w - l.code).setWidth 32, spord := g.spord
                      vs := followsVector f, gf := guardFails g f, id0 := s.nextId, id1 := 0, bound := boundId s gid k w, fate := .whole, lq := g.lc, sq := g.sc
                      cq := wg.copyq.length, tq := wg.tileq.length, level := descLevel s g (pathOf g k).bound f, waits := [] }
  let n := nextCountdown s gid.core
  s.updCore gid.core (fun c => { c with due := some r, countdown := n, lfsr := lfsrNext c.lfsr })

/-- Path `k` goes on to another word: of the waits that its tagged word left, those are left that the entry of a handler keeps. -/
def sampleLeft (s : State) (gid : GId) (k : Nat) : State :=
  let c := s.core gid.core
  let kept := match (s.group gid).kept with
    | some x => x.waits
    | none => []
  let mine := fun (r : TagRec) => r.gid == gid && r.path == k && r.id1 != 0
  let left := fun (r : TagRec) => if mine r then { r with waits := r.waits.filter kept.contains } else r
  if c.due.any mine || c.sample.any mine then s.updCore gid.core (fun c => { c with due := c.due.map left, sample := c.sample.map left })
  else s

/-- The sampler's count of a word that issues: it is tagged, counted, or, while a tag is outstanding, neither. -/
def sampleWord (s : State) (gid : GId) (k : Nat) (w : Word) (f : Fetched) : State :=
  let s := sampleLeft s gid k
  let c := s.core gid.core
  if !sampling s gid.core || c.sample.isSome || c.due.isSome then s
  else if c.countdown ≤ 1 then tagWord s gid k w f
  else s.updCore gid.core (fun c => { c with countdown := c.countdown - 1 })

/-- The slots of path `k`'s tagged word have acted: its operations end before the next number, and the waits that the path now has are the
word's. -/
def sampleIssued (s : State) (gid : GId) (k : Nat) : State :=
  let done := fun (r : TagRec) =>
    if r.gid == gid && r.path == k && r.id1 == 0 then { r with id1 := s.nextId + 1, waits := (pathOf (s.group gid) k).waits } else r
  s.updCore gid.core (fun c => { c with due := c.due.map done, sample := c.sample.map done })

/-- SAMPLER_TAG: the tag that the countdown has set on a word of path `k` as it issued is taken up, and its record can be written
from then on. DEDUCED (notes/assumptions/24.md). -/
def samplerTag (s : State) (gid : GId) (k : Nat) : State :=
  match (s.core gid.core).due with
  | some r => if r.gid == gid && r.path == k then s.updCore gid.core (fun c => { c with due := none, sample := some r }) else s
  | none => s

def execSamplerTag (g : GId) (path : Nat) (s : State) : Host.Outcome State Fault Refusal := .next (samplerTag s g path)

/-- The record of R357 as a number of 512 bits: after the stage that a fault cut short 0, and 0xFFFF for the stage that the launch's end
left unfinished. SAT says that a stage was left unfinished or that a recorded count has saturated: then one reads 0xFFFF, which a count of just
so many cycles does too, unsaturated. -/
def sampleNat (r : TagRec) (t : SampleTimes) : Nat :=
  let cut := r.fate == .inExec || r.fate == .inWb
  let ex := if r.fate == .inExec then 0xFFFF else t.exec.toNat
  let wb := match r.fate with
    | .whole => t.wb.toNat
    | .faulted | .inExec => 0
    | .inWb => 0xFFFF
  let sat := t.sat && [t.fetch.toNat, t.issue.toNat, t.opnd.toNat, ex, wb].contains 0xFFFF
  let b := fun (x : Bool) => if x then 1 else 0
  r.dtime.toNat * 2 ^ 448 + r.deck.toNat * 2 ^ 384 + r.offs.toNat * 2 ^ 352 + r.spord.toNat * 2 ^ 320 + r.gid.tag % 2 ^ 16 * 2 ^ 304
  + r.gid.core % 2 ^ 16 * 2 ^ 288 + r.gid.grp % 32 * 2 ^ 283 + b r.vs * 2 ^ 282 + b r.gf * 2 ^ 281 + r.level % 8 * 2 ^ 278
  + r.lq % 64 * 2 ^ 272 + r.sq % 64 * 2 ^ 266 + r.cq % 32 * 2 ^ 261 + r.tq % 16 * 2 ^ 257 + b (sat || cut) * 2 ^ 256
  + t.fetch.toNat * 2 ^ 240 + t.issue.toNat * 2 ^ 224 + t.opnd.toNat * 2 ^ 208 + ex * 2 ^ 192 + wb * 2 ^ 176

/-- SAMPLE_RECORD: the word's operations have ended, or its launch has been terminated: the record is written to the ring and
SMPIDX counts it. A write that faults is not performed. DEDUCED (notes/assumptions/24.md). -/
def sampleRecord (s : State) (core : Nat) (t : SampleTimes) : State :=
  match (s.core core).sample with
  | none => s
  | some r =>
    let l := s.launch r.gid.tag
    if sampleOpen s r && l.state != .completing then s
    else
      let b := dbgBase l.ctx
      let idx := regLE s (b + 0x110) 8
      let slot := regLE s (b + 0x108) 8 + 64 * (idx % 2 ^ bits (regLE s (b + 0x118) 8) 0 5)
      let v : Via := { die := dieOf core, ident := idCore core, ctx := l.ctx, tag := 0 }
      let s := (virtWrite v s slot (toBytes 64 (sampleNat (cutTag s r) t))).1
      let s := putReg s (b + 0x110) 8 (idx + 1)
      s.updCore core (fun c => { c with sample := none })

def execSampleRecord (core : Nat) (t : SampleTimes) (s : State) : Host.Outcome State Fault Refusal := .next (sampleRecord s core t)

end Sys2Proof.Machine
end

