-- ==== Sys2Proof/Machine/BoomEvents.lean ====
section
/-!
DEFINITION. The events of the Boom (R305, R347, R386). A message from a rank of this package is one that was sent; a message
from another package is an input.
-/

namespace Sys2Proof.Machine

/-- The operation at a rank of this package that a message belongs to. -/
def boomAt (s : State) (b : BoomMsg) : Option BoomOp :=
  s.boomOps.find? (fun o => o.coll == b.coll && o.k == b.k && o.rank == b.dst)

/-- The rank words of a collective as they lie in memory (R380). -/
def collWords (s : State) (coll : Nat) : List Nat :=
  let e := regLE s (collBase coll) 64
  (List.range (bits e 0 16)).map (fun r => bits (readLE s.mem (bits e 64 64 + 4 * r) 4) 0 28)

/-- A message that may arrive: sent by a rank of this package and kept, or coming from another one. -/
def boomArrives (s : State) (b : BoomMsg) : Bool :=
  s.boomSent.any (fun m => m.1 == b) || rankPkg (collWords s b.coll) b.src != s.part.package

/-- The acknowledgement of a data message. -/
def ackOf (b : BoomMsg) : BoomMsg :=
  { kind := 2, coll := b.coll, k := b.k, src := b.dst, dst := b.src, seg := b.seg, phase := b.phase, payload := [], status := 0 }

/-- BOOM_DATA: the message is acted on once and every copy acknowledged; one for an operation that has not started waits. -/
def boomData (s : State) (b : BoomMsg) : State :=
  if b.kind != 1 || decide (8192 < b.payload.length) || !boomArrives s b then s
  else
    let s := boomPost s (collWords s b.coll) [ackOf b]
    match boomAt s b with
    | some o =>
      if o.started then
        if o.ended || o.status.isSome then s else boomAdvance (putBoom s (actOn o b)) o.id
      else if s.boomWaiting.contains b then s
      else { s with boomWaiting := s.boomWaiting ++ [b] }
    | none => if s.boomWaiting.contains b then s else { s with boomWaiting := s.boomWaiting ++ [b] }

def execBoomData (b : BoomMsg) (s : State) : Host.Outcome State Fault Refusal := .next (boomData s b)

/-- A message other than data has been delivered, and is kept no longer. -/
def delivered (s : State) (b : BoomMsg) : State := { s with boomSent := s.boomSent.eraseP (fun m => m.1 == b) }

/-- BOOM_ACKNOWLEDGEMENT: the acknowledged data message is not sent again. -/
def boomAck (s : State) (b : BoomMsg) : State :=
  if b.kind != 2 || !boomArrives s b then s
  else
    delivered { s with boomSent := s.boomSent.filter (fun m =>
        !(m.1.kind == 1 && m.1.coll == b.coll && m.1.k == b.k && m.1.seg == b.seg && m.1.phase == b.phase && m.1.src == b.dst
          && m.1.dst == b.src)) } b

def execBoomAcknowledgement (b : BoomMsg) (s : State) : Host.Outcome State Fault Refusal := .next (boomAck s b)

/-- A notice or a failure is delivered once; one for an operation not yet started waits for it. -/
def boomNews (s : State) (b : BoomMsg) (f : BoomOp → BoomOp) : State :=
  if !boomArrives s b then s
  else
    let s := delivered s b
    match boomAt s b with
    | some o => putBoom s (if o.ended then o else f o)
    | none => { s with boomWaiting := s.boomWaiting ++ [b] }

/-- BOOM_HALT_NOTICE: the timeout of the operation freezes (R347). -/
def execBoomHaltNotice (b : BoomMsg) (s : State) : Host.Outcome State Fault Refusal :=
  .next (if b.kind != 3 then s else boomNews s b (BoomOp.freeze s.dtime true))

/-- BOOM_RESUME_NOTICE: it runs on. -/
def execBoomResumeNotice (b : BoomMsg) (s : State) : Host.Outcome State Fault Refusal :=
  .next (if b.kind != 4 then s else boomNews s b (BoomOp.freeze s.dtime false))

/-- BOOM_FAILURE: the rank records the message's status (R305, R386). -/
def execBoomFailure (b : BoomMsg) (s : State) : Host.Outcome State Fault Refusal :=
  .next (if b.kind != 5 then s
    else boomNews s b (fun o => if o.status.isNone then { o with status := some b.status } else o))

/-- BOOM_RESEND: a data message not acknowledged within 100 µs is sent again with the same fields (R386). -/
def execBoomResend (b : BoomMsg) (s : State) : Host.Outcome State Fault Refusal :=
  let due := fun (m : BoomMsg × Nat) => m.1 == b && decide (m.2 + 100000 ≤ s.dtime)
  .next (if b.kind == 1 && s.boomSent.any due then boomPost { s with boomSent := s.boomSent.eraseP due } (collWords s b.coll) [b] else s)

/-- The timeout of the entry has passed since the operation started, the time it was frozen apart (R305, R347, R380). DEDUCED
(notes/assumptions/18.md). -/
def timedOut (s : State) (o : BoomOp) : Bool := !o.frozen && decide (o.left ≤ s.dtime - o.since)

/-- COLLECTIVE_TIMEOUT: the operation fails with 0x3F on every rank once its timeout has passed (R305). -/
def collectiveTimeout (s : State) (gid : GId) (id : Nat) : State :=
  match s.boomOps.find? (fun o => o.id == id && o.gid == gid) with
  | some o => if o.ended || o.status.isSome || !o.started || !timedOut s o then s else boomFail s o 0x3F 0x3F
  | none => s

def execCollectiveTimeout (g : GId) (id : Nat) (s : State) : Host.Outcome State Fault Refusal := .next (collectiveTimeout s g id)

/-! ## Completion (R305) -/

/-- The delivered data of a reduction, once complete at this rank. -/
def reducedData (o : BoomOp) : Option (List Byte) :=
  match xform o.op with
  | .elem _ => finished o 0
  | .block _ => finished o 2

/-- Every rank of this package has issued the operation matched with this one, and none still awaits its guard (R281). What ranks of other
packages have issued is not seen: their part is an input of the completion. DEDUCED (notes/assumptions/18.md). -/
def allIssued (s : State) (o : BoomOp) : Bool :=
  (List.range o.ranks.length).all (fun r => !rankHere s.part o.ranks r || decide (o.k < nextSeq s o.coll r))
  && s.boomOps.all (fun x => !(x.coll == o.coll && x.k == o.k) || x.bind.isNone)

/-- What an operation writes when it is ready: addresses and bytes. -/
def boomWrites (o : BoomOp) : Option (List (Word × List Byte)) :=
  match o.op with
  | .xBcast _ _ =>
    if o.rank == o.root then
      some (if o.dst == o.src then [] else [(o.dst, (heldSeg o 4 0 o.rank).getD [])])
    else (joinSegs o 0 0 (segCount o 0) o.root).map (fun b => if o.dst == o.src then [] else [(o.dst, b)])
  | .xGather _ _ =>
    if o.rank != o.root then some []
    else
      (List.range o.ranks.length).foldl (fun a r =>
        let d := if r == o.rank then heldSeg o 4 0 o.rank else joinSegs o 0 0 (segCount o 0) r
        match a, d with
        | some x, some b => some (x ++ [(o.dst + BitVec.ofNat 64 (r * o.count * unitBytes o 0), b)])
        | _, _ => none) (some [])
  | _ =>
    match reducedData o with
    | none => none
    | some b =>
      match xform o.op with
      | .elem _ => some [(o.dst, b)]
      | .block _ =>
        if o.outw == 0 then some [(o.dst, b)]
        else
          let u := 2 * o.outw + 1
          let bl := (List.range o.count).map (fun j => (b.drop (u * j)).take u)
          some [(o.dst, bl.flatMap (fun x => x.take (2 * o.outw))), (o.dst + o.deoff, bl.flatMap (fun x => x.drop (2 * o.outw)))]

/-- The operation has ended at its rank. -/
def boomEnd (s : State) (o : BoomOp) : State :=
  retireWg (putBoom s { o with ended := true }) o.gid.tag o.gid.core

/-- The ranks that may raise flags: of a QB reduction the last, which alone delivers (R90); of another floating-point one those that
combine (R302). -/
def flagRanks (o : BoomOp) : List Nat :=
  match o.op with
  | .xAllred _ _ ty _ | .xAllmax _ ty =>
    if ty == .qb then [lastRank o] else if ty == .f32 then (List.range o.ranks.length).drop 1 else []
  | _ => []

/-- Flags that an operation may raise in ranks of other packages. DESIGN CHOICE (notes/assumptions/18.md). -/
def farFlagsOf (s : State) (o : BoomOp) : Nat :=
  if (flagRanks o).any (fun r => !rankHere s.part o.ranks r) then Config.farFlags o.coll o.k else 0

/-- A discarded command leaves its place in the sequence to the ones behind it (R65, R301). -/
def boomDiscard (s : State) (o : BoomOp) : State :=
  let ops := (s.boomOps.filter (fun x => x.id != o.id)).map (fun x =>
    if x.coll == o.coll && x.rank == o.rank && decide (o.id < x.id) then { x with k := x.k - 1 } else x)
  retireWg (putSeq { s with boomOps := ops } o.coll o.rank (nextSeq s o.coll o.rank - 1)) o.gid.tag o.gid.core

/-- DST and the signal could be written; neither is. -/
def boomReady (e : EngBy) (s : State) (o : BoomOp) (ws : List (Word × List Byte)) : State × Except (Nat × Nat) Unit :=
  match engReady e s (ws.map (fun w => (false, w.1, w.2.length))) with
  | (s, .error x) => (s, .error x)
  | (s, .ok _) =>
    if o.sig == 0 then (s, .ok ())
    else
      match rmwReady e.v (noteSignal e s o.sig) o.sig.toNat with
      | (s, .error x) => (s, .error x)
      | (s, .ok _) => (s, .ok ())

/-- The operation writes DST and its signal; a fault of either fails it with no DST written. -/
def boomDeliver (s : State) (o : BoomOp) (ws : List (Word × List Byte)) : State :=
  let e := byBoom (s.launch o.gid.tag) o
  match boomReady e s o ws with
  | (s, .error x) => boomFault s o x
  | (s, .ok _) =>
    let s := (engWrites e s (ws.map (fun w => (false, w.1, w.2)))).1
    let s := if o.sig == 0 then s else (virtRmw e.v s o.sig.toNat (fun x => x - 1)).1
    boomEnd (raiseFor s o.gid (o.flags.toNat ||| farFlagsOf s o)) { o with status := some 0 }

/-- BOOM_OPERATION_COMPLETE: a released command starts, a discarded one goes; a failed one stores its negated status into
SIG; a finished one writes DST and decrements SIG. -/
def boomComplete (s : State) (gid : GId) (id : Nat) : State :=
  match s.boomOps.find? (fun o => o.id == id && o.gid == gid) with
  | none => s
  | some o =>
    if o.ended then s
    else
      match o.status with
      | some c =>
        let e := byBoom (s.launch gid.tag) o
        let s := if o.sig == 0 then s else (virtRmw e.v (noteSignal e s o.sig) o.sig.toNat (fun _ => BitVec.ofInt 64 (-(c : Int)))).1
        boomEnd s o
      | none =>
        if bindDiscard o.bind then boomDiscard s o
        else if !o.started then
          if bindWaits o.bind || behindBound s o then s else boomStart s id
        else
          match boomWrites o, allIssued s o with
          | some ws, true => boomDeliver s o ws
          | _, _ => s
where
  bindDiscard (b : Option Bind) : Bool := match b with
    | some x => x.fate == some false
    | none => false
  bindWaits (b : Option Bind) : Bool := match b with
    | some x => x.fate == none
    | none => false

def execBoomOperationComplete (g : GId) (id : Nat) (s : State) : Host.Outcome State Fault Refusal := .next (boomComplete s g id)

end Sys2Proof.Machine
end

