-- ==== Sys2Proof/Machine/Special.lean ====
section
/-!
DEFINITION. The special functions (R91, R92, R166). The exact result y is enclosed between two rationals; the
results within the bound of R91 are the FP32 values between the enclosure's ends widened by the bound; which of
them the unit delivers is FREE (`Config.sfuPick`, notes/assumptions/3.md).
-/

namespace Sys2Proof.Machine

/-- A special function. The number indexes `Config.sfuPick`. -/
inductive Sfu
  | rcp | rsqrt | sqrt | exp2 | log2 | sinpi | cospi
  deriving DecidableEq, Repr

def Sfu.num : Sfu → Nat
  | .rcp => 0 | .rsqrt => 1 | .sqrt => 2 | .exp2 => 3 | .log2 => 4 | .sinpi => 5 | .cospi => 6

/-- Integer square root by bisection on `n` bits. -/
def isqrtGo : Nat → Nat → Nat → Nat
  | 0, _, r => r
  | n + 1, v, r =>
    let t := r + 2 ^ n
    isqrtGo n v (if t * t ≤ v then t else r)

def isqrt (v : Nat) : Nat := isqrtGo (Nat.log2 v / 2 + 1) v 0

/-! ## Fixed-point enclosures: numbers with `fxBits` fraction bits; every function below is within 2^64 units. -/

def fxBits : Nat := 384
def fxOne : Int := (2 ^ fxBits : Nat)
def fxMul (a b : Int) : Int := a * b / fxOne

/-- Σ z^(2k+1) / (2k+1), with the sign alternating when `alt`: atan or atanh of z. -/
def fxAtanGo (alt : Bool) : Nat → Int → Int → Nat → Int → Int
  | 0, _, _, _, acc => acc
  | n + 1, z2, p, k, acc =>
    let t := p / ((2 * k + 1 : Nat) : Int)
    fxAtanGo alt n z2 (fxMul p z2) (k + 1) (if alt && k % 2 == 1 then acc - t else acc + t)

def fxAtan (alt : Bool) (z : Int) : Int := fxAtanGo alt 260 (fxMul z z) z 0 0

/-- π = 16 atan(1/5) − 4 atan(1/239). -/
def fxPi : Int := 16 * fxAtan true (fxOne / 5) - 4 * fxAtan true (fxOne / 239)
/-- ln 2 = 2 atanh(1/3). -/
def fxLn2 : Int := 2 * fxAtan false (fxOne / 3)

/-- Σ z^k / k!. -/
def fxExpGo : Nat → Int → Int → Nat → Int → Int
  | 0, _, _, _, acc => acc
  | n + 1, z, p, k, acc => fxExpGo n z (fxMul p z / ((k + 1 : Nat) : Int)) (k + 1) (acc + p)

/-- Σ (−1)^k z^(2k+1) / (2k+1)!. -/
def fxSinGo : Nat → Int → Int → Nat → Int → Int
  | 0, _, _, _, acc => acc
  | n + 1, z2, p, k, acc =>
    fxSinGo n z2 (-(fxMul p z2) / (((2 * k + 2) * (2 * k + 3) : Nat) : Int)) (k + 1) (acc + p)

/-- m × 2^e in fixed point. -/
def fxOf (m : Int) (e : Int) : Int :=
  let s : Int := e + fxBits
  if 0 ≤ s then m * 2 ^ s.toNat else m / 2 ^ (-s).toNat

/-- An enclosure: y lies between lo / den and hi / den. -/
structure Encl where
  lo : Int
  hi : Int
  den : Nat
  deriving DecidableEq, Repr

/-- A fixed-point result scaled by 2^n. -/
def enclFx (v : Int) (n : Int) : Encl :=
  if 0 ≤ n then { lo := (v - 2 ^ 64) * 2 ^ n.toNat, hi := (v + 2 ^ 64) * 2 ^ n.toNat, den := 2 ^ fxBits }
  else { lo := v - 2 ^ 64, hi := v + 2 ^ 64, den := 2 ^ (fxBits + (-n).toNat) }

/-- 1 / (m × 2^e) for m ≠ 0. -/
def enclRcp (m : Int) (e : Int) : Encl :=
  let s : Int := if m < 0 then -1 else 1
  if 0 ≤ e then { lo := s, hi := s, den := m.natAbs * 2 ^ e.toNat }
  else { lo := s * 2 ^ (-e).toNat, hi := s * 2 ^ (-e).toNat, den := m.natAbs }

/-- 1 / √(m × 2^e) for m > 0: √(2^(2k) / (m × 2^e)) / 2^k with a remainder of less than one unit. -/
def enclRsqrt (m : Nat) (e : Int) : Encl :=
  let k : Nat := 256
  let num : Nat := 2 ^ (2 * k)
  let v := if 0 ≤ e then num / (m * 2 ^ e.toNat) else num * 2 ^ (-e).toNat / m
  let r := isqrt v
  { lo := r, hi := r + 1, den := 2 ^ k }

/-- 2^(m × 2^e). -/
def enclExp2 (m : Int) (e : Int) : Encl :=
  let v := fxOf m e
  let n := v / fxOne
  let fr := v - n * fxOne
  enclFx (fxExpGo 120 (fxMul fr fxLn2) fxOne 0 0) n

/-- log2 (m × 2^e) for m > 0. -/
def enclLog2 (m : Nat) (e : Int) : Encl :=
  let k := Nat.log2 m
  let z := fxOf m (-(k : Int))
  let t := fxAtan false ((z - fxOne) * fxOne / (z + fxOne))
  enclFx (2 * t * fxOne / fxLn2 + (e + k) * fxOne) 0

/-- sin(π t) for a fixed-point t in [0, 1/2]. -/
def fxSinPi (t : Int) : Int :=
  let z := fxMul fxPi t
  fxSinGo 100 (fxMul z z) z 0 0

/-- sin(π × m × 2^e): t is m × 2^e reduced modulo 2. -/
def enclSinpi (m : Int) (e : Int) (shift : Int) : Encl :=
  let t := (fxOf m e + shift) % (2 * fxOne)
  let neg := fxOne ≤ t
  let u := if neg then t - fxOne else t
  let u := if fxOne / 2 < u then fxOne - u else u
  let v := fxSinPi u
  enclFx (if neg then -v else v) 0

/-! ## Candidates -/

/-- An FP32 word as an ordered number: −0 just below +0. -/
def ordOf (w : Nat) : Int := if bits w 31 1 == 1 then -1 - (bits w 0 31 : Nat) else w

def wordOfOrd (o : Int) : Nat := if o < 0 then 2 ^ 31 + (-1 - o).toNat else o.toNat

/-- The exact number of a finite FP32 word. -/
def dyOfWord (w : Nat) : Dy := (unpack fp32 w).dy

/-- Whether the FP32 word is ≤ n / d. -/
def leRat (w : Nat) (n : Int) (d : Nat) : Bool :=
  let v := dyOfWord w
  if 0 ≤ v.2 then decide (v.1 * 2 ^ v.2.toNat * d ≤ n) else decide (v.1 * d ≤ n * 2 ^ (-v.2).toNat)

/-- Whether n / d ≤ the FP32 word. -/
def geRat (w : Nat) (n : Int) (d : Nat) : Bool :=
  let v := dyOfWord w
  if 0 ≤ v.2 then decide (n ≤ v.1 * 2 ^ v.2.toNat * d) else decide (n * 2 ^ (-v.2).toNat ≤ v.1 * d)

/-- The greatest finite FP32 word ≤ n / d, by bisection over the ordered numbers. -/
def lastLe (n : Int) (d : Nat) : Nat → Int → Int → Int
  | 0, lo, _ => lo
  | f + 1, lo, hi =>
    let mid := (lo + hi + 1) / 2
    if leRat (wordOfOrd mid) n d then lastLe n d f mid hi else lastLe n d f lo (mid - 1)

/-- The least finite FP32 word ≥ n / d. -/
def firstGe (n : Int) (d : Nat) : Nat → Int → Int → Int
  | 0, _, hi => hi
  | f + 1, lo, hi =>
    let mid := (lo + hi) / 2
    if geRat (wordOfOrd mid) n d then firstGe n d f lo mid else firstGe n d f (mid + 1) hi

def ordMax : Int := 0x7F7FFFFF
def ordMin : Int := -1 - 0x7F7FFFFF

/-- floor(log2 |n / d|) for n ≠ 0. -/
def ratExp (n : Int) (d : Nat) : Int :=
  let a := n.natAbs
  let e : Int := (Nat.log2 a : Nat) - (Nat.log2 d : Nat)
  let le := if 0 ≤ e then decide (d * 2 ^ e.toNat ≤ a) else decide (d ≤ a * 2 ^ (-e).toNat)
  if le then e else e - 1

/-- The FREE result among the FP32 values within `num` × 2^bexp of y. One that is zero has the sign of y (R70). -/
def pickWithin (fn : Nat) (x : Nat) (y : Encl) (num : Nat) (bexp : Int) : Nat :=
  -- everything over the denominator den × 2^s
  let s : Nat := (-bexp).toNat
  let up : Nat := bexp.toNat
  let den := y.den * 2 ^ s
  let b : Int := (num * y.den * 2 ^ up : Nat)
  let hi := lastLe (y.lo * 2 ^ s + b) den 33 ordMin ordMax
  let lo := firstGe (y.hi * 2 ^ s - b) den 33 ordMin ordMax
  let n := (hi - lo).toNat + 1
  let w := wordOfOrd (lo + ((Config.sfuPick fn (BitVec.ofNat 32 x) % n : Nat) : Int))
  if bits w 0 31 == 0 then fp32.sign (decide (y.lo < 0)) else w

/-- The same with the bound in ulps of y (R91). -/
def pickUlps (fn x : Nat) (y : Encl) (ulps : Nat) : Nat :=
  let e := ratExp y.lo y.den
  let e := if e < -126 then -126 else e
  pickWithin fn x y ulps (e - 23)

/-- Flags of an approximated result: NX (R92), UF when it is tiny (R80). -/
def approxFlags (w : Nat) : Nat := if bits w 0 31 < 0x00800000 then fUF ||| fNX else fNX

/-- An approximated result with its flags; beyond the finite range it is an infinity with OF and NX. -/
def approx (fn x : Nat) (y : Encl) (ulps : Nat) : Nat × Nat :=
  if 128 ≤ ratExp y.lo y.den then (fp32.sign (decide (y.lo < 0)) + fp32.top, fOF ||| fNX)
  else
    let w := pickUlps fn x y ulps
    (w, approxFlags w)

/-- m × 2^e with m odd (m > 0). -/
def oddForm : Nat → Nat → Int → Nat × Int
  | 0, m, e => (m, e)
  | f + 1, m, e => if m % 2 == 0 then oddForm f (m / 2) (e + 1) else (m, e)

/-- v.rcp on FP32 (R91, R92). -/
def sfuRcp (x : Nat) : Nat × Nat :=
  match unpack fp32 x with
  | .nan s => (fp32.nan, if s then fNV else 0)
  | .inf n => (fp32.sign n, 0)
  | .fin n 0 _ => (fp32.sign n + fp32.top, fDZ)
  | .fin n m e =>
    let o := oddForm 24 m e
    if o.1 == 1 && decide (-126 ≤ -o.2) && decide (-o.2 ≤ 127) then (packFV fp32 0 (.fin n 1 (-o.2)))
    else
      let r := approx 0 x (enclRcp (if n then -(m : Int) else m) e) 1
      -- R92: above 2^126 the result is subnormal or zero
      if 126 ≤ o.2 + (Nat.log2 o.1 : Nat) && decide (0x007FFFFF < bits r.1 0 31) then
        (bits r.1 31 1 * 2 ^ 31 + 0x007FFFFF, fUF ||| fNX)
      else r

/-- v.rsqrt on FP32. -/
def sfuRsqrt (x : Nat) : Nat × Nat :=
  match unpack fp32 x with
  | .nan s => (fp32.nan, if s then fNV else 0)
  | .inf n => if n then (fp32.nan, fNV) else (0, 0)
  | .fin n 0 _ => (fp32.sign n + fp32.top, fDZ)
  | .fin n m e =>
    if n then (fp32.nan, fNV)
    else
      let o := oddForm 24 m e
      if o.1 == 1 && o.2 % 2 == 0 then packFV fp32 0 (.fin false 1 (-(o.2 / 2)))
      else approx 1 x (enclRsqrt m e) 1

/-- v.sqrt on FP32, correctly rounded in the mode: an inexact root keeps a sticky bit below its last bit. -/
def sfuSqrt (mode x : Nat) : Nat × Nat :=
  match unpack fp32 x with
  | .nan s => (fp32.nan, if s then fNV else 0)
  | .inf n => if n then (fp32.nan, fNV) else (fp32.top, 0)
  | .fin n 0 _ => (fp32.sign n, 0)
  | .fin n m e =>
    if n then (fp32.nan, fNV)
    else
      let odd := e % 2 != 0
      let v := (if odd then 2 * m else m) * 2 ^ 64
      let h := ((if odd then e - 1 else e) - 64) / 2
      let r := isqrt v
      if r * r == v then roundMag fp32 mode false r h else roundMag fp32 mode false (2 * r + 1) (h - 1)

/-- v.exp2 on FP32. -/
def sfuExp2 (x : Nat) : Nat × Nat :=
  match unpack fp32 x with
  | .nan s => (fp32.nan, if s then fNV else 0)
  | .inf n => if n then (0, 0) else (fp32.top, 0)
  | .fin n m e =>
    let v : Dy := (FV.fin n m e).dy
    if decide (0 ≤ (dyAdd v (-128, 0)).1) then (fp32.top, fOF ||| fNX)
    else if decide ((dyAdd v (150, 0)).1 < 0) then (0, fUF ||| fNX)
    else
      let o := oddForm 24 m e
      let whole := m == 0 || decide (0 ≤ o.2)
      let k : Int := if m == 0 then 0 else (if n then -(o.1 : Int) else o.1) * 2 ^ o.2.toNat
      if whole && decide (-149 ≤ k) then packFV fp32 0 (.fin false 1 k)
      else approx 3 x (enclExp2 v.1 v.2) 2

/-- v.log2 on FP32. -/
def sfuLog2 (x : Nat) : Nat × Nat :=
  match unpack fp32 x with
  | .nan s => (fp32.nan, if s then fNV else 0)
  | .inf n => if n then (fp32.nan, fNV) else (fp32.top, 0)
  | .fin _ 0 _ => (fp32.sign true + fp32.top, fDZ)
  | .fin n m e =>
    if n then (fp32.nan, fNV)
    else
      let o := oddForm 24 m e
      if o.1 == 1 then packFV fp32 0 (fvOfInt o.2)
      else
        let y := enclLog2 m e
        let v : Dy := (m, e)
        let near := decide (0 ≤ (dyAdd v (-3, -2)).1) && decide ((dyAdd v (-3, -1)).1 ≤ 0)
        if near then
          let w := pickWithin 4 x y 1 (-22)
          (w, approxFlags w)
        else approx 4 x y 2

/-- v.sinpi and v.cospi on FP32; `shift` is 0 or one half in fixed point. -/
def sfuSinpi (x : Nat) (cos : Bool) : Nat × Nat :=
  match unpack fp32 x with
  | .nan s => (fp32.nan, if s then fNV else 0)
  | .inf _ => (fp32.nan, fNV)
  | .fin n m e =>
    let o := oddForm 24 m e
    let whole := m == 0 || decide (0 ≤ o.2)
    let k : Int := if m == 0 then 0 else (if n then -(o.1 : Int) else o.1) * 2 ^ (o.2 + 1).toNat
    let one (neg : Bool) := (fp32.sign neg + 0x3F800000, 0)
    if whole then
      -- k is twice the integer
      if cos then one (k % 4 != 0) else (fp32.sign n, 0)
    else if o.2 == -1 then
      -- k is odd: x = k / 2
      if cos then (0, 0) else one (k % 4 == 3)
    else
      let v : Dy := (FV.fin n m e).dy
      approx (if cos then 6 else 5) x (enclSinpi v.1 v.2 (if cos then fxOne / 2 else 0)) 1

/-- A special function on FP32. -/
def sfu32 (fn : Sfu) (mode x : Nat) : Nat × Nat :=
  match fn with
  | .rcp => sfuRcp x
  | .rsqrt => sfuRsqrt x
  | .sqrt => sfuSqrt mode x
  | .exp2 => sfuExp2 x
  | .log2 => sfuLog2 x
  | .sinpi => sfuSinpi x false
  | .cospi => sfuSinpi x true

/-- On any floating-point type: FP16 and BF16 operands are widened, and the FP32 result rounded once (R92). `v.sqrt` rounds in FMT's mode; the
approximating functions ignore that mode (R77, R91), and their result is rounded to nearest with ties to even. DEDUCED
(notes/assumptions/26.md). -/
def sfu (fn : Sfu) (t : Ty) (mode a : Nat) : Nat × Nat :=
  if t == .f16 || t == .bf16 then
    match unpack (fmtOfTy t) a with
    | .nan s => ((fmtOfTy t).nan, if s then fNV else 0)
    | v =>
      let r := sfu32 fn mode (packFV fp32 0 v).1
      let p := packFV (fmtOfTy t) (if fn == .sqrt then mode else 0) (unpack fp32 r.1)
      (p.1, r.2 ||| p.2)
  else sfu32 fn mode a

end Sys2Proof.Machine
end

