-- ==== Sys2Proof/Machine/VecFp.lean ====
section
/-!
DEFINITION. The floating-point, conversion and special-function instructions of the vector slot (R157 to R166).
-/

namespace Sys2Proof.Machine

/-- A result of a format as a lane holds it (R148). -/
def fRes (r : Nat × Nat) : Lane × Nat := (BitVec.ofNat 32 r.1, r.2)

/-! ## Arithmetic (R157, R158) -/

def execVFadd (m : MReg) (o : VBin) (t : Ty) (s : State) : Host.Outcome State Fault Refusal :=
  gate (.vFadd m o t) noCheck (fun s => vecBin s m o (fun a b => fRes (fAdd (fmtOfTy t) (fmtRnd (fmtNow s)) a b))) s
def execVFsub (m : MReg) (o : VBin) (t : Ty) (s : State) : Host.Outcome State Fault Refusal :=
  gate (.vFsub m o t) noCheck (fun s => vecBin s m o (fun a b => fRes (fSub (fmtOfTy t) (fmtRnd (fmtNow s)) a b))) s
def execVFmul (m : MReg) (o : VBin) (t : Ty) (s : State) : Host.Outcome State Fault Refusal :=
  gate (.vFmul m o t) noCheck (fun s => vecBin s m o (fun a b => fRes (fMul (fmtOfTy t) (fmtRnd (fmtNow s)) a b))) s
def execVFma (m : MReg) (o : VTer) (t : Ty) (s : State) : Host.Outcome State Fault Refusal :=
  gate (.vFma m o t) noCheck (fun s => vecTer s m o (fun a b c => fRes (fFma (fmtOfTy t) (fmtRnd (fmtNow s)) a b c))) s
def execVFmin (m : MReg) (o : VBin) (t : Ty) (s : State) : Host.Outcome State Fault Refusal :=
  gate (.vFmin m o t) noCheck (fun s => vecBin s m o (fun a b => fRes (fMinMax (fmtOfTy t) false a b))) s
def execVFmax (m : MReg) (o : VBin) (t : Ty) (s : State) : Host.Outcome State Fault Refusal :=
  gate (.vFmax m o t) noCheck (fun s => vecBin s m o (fun a b => fRes (fMinMax (fmtOfTy t) true a b))) s

/-! ## Class, two-sum, compares (R159 to R161) -/

def execVFclass (m : MReg) (fq : FQ) (vd va : VReg) (t : Ty) (s : State) : Host.Outcome State Fault Refusal :=
  gate (.vFclass m fq vd va t) noCheck
    (fun s => perLane s m fq (fun _ _ => vd) (fun g l => fRes (fClass (fmtOfTy t) (readV g va l).toNat, 0))) s

/-- Two destinations per lane: every lane reads before any lane writes (R35). -/
def perLane2 (s : State) (m : MReg) (fq : FQ) (vd vc : VReg) (f : Group → Nat → Lane × Lane × Nat) : State :=
  let g := cg s
  let rs := (lanesOf (writeMask s m fq)).map (fun t => (t, f g (srcLane s t)))
  let fl := flagsOf (rs.map (fun r => ((), r.2.2.2)))
  updCg s (fun g' =>
    let g' := writeLanes g' (fun _ => vd) (rs.map (fun r => (r.1, r.2.1)))
    orFlags (writeLanes g' (fun _ => vc) (rs.map (fun r => (r.1, r.2.2.1)))) fl)

def execVTwosum (m : MReg) (fq : FQ) (vd va vb vc : VReg) (s : State) : Host.Outcome State Fault Refusal :=
  gate (.vTwosum m fq vd va vb vc) noCheck
    (fun s => perLane2 s m fq vd vc (fun g l =>
      let r := twoSum (fmtRnd (fmtNow s)) (readV g va l).toNat (readV g vb l).toNat
      (BitVec.ofNat 32 r.1, BitVec.ofNat 32 r.2.1, r.2.2))) s

/-- A floating-point compare of two registers. -/
def fcmpReg (c : Cond) (t : Ty) (va vb : VReg) (g : Group) (l : Nat) : Bool × Nat :=
  fCmp (fmtOfTy t) c (readV g va l).toNat (readV g vb l).toNat

def execVFcmpEq (m : MReg) (fq : FQ) (k : MReg) (va vb : VReg) (t : Ty) (s : State) : Host.Outcome State Fault Refusal :=
  gate (.vFcmpEq m fq k va vb t) noCheck (fun s => vecCmp s m fq k (fcmpReg .eq t va vb)) s
def execVFcmpNe (m : MReg) (fq : FQ) (k : MReg) (va vb : VReg) (t : Ty) (s : State) : Host.Outcome State Fault Refusal :=
  gate (.vFcmpNe m fq k va vb t) noCheck (fun s => vecCmp s m fq k (fcmpReg .ne t va vb)) s
def execVFcmpLt (m : MReg) (fq : FQ) (k : MReg) (va vb : VReg) (t : Ty) (s : State) : Host.Outcome State Fault Refusal :=
  gate (.vFcmpLt m fq k va vb t) noCheck (fun s => vecCmp s m fq k (fcmpReg .lt t va vb)) s
def execVFcmpLe (m : MReg) (fq : FQ) (k : MReg) (va vb : VReg) (t : Ty) (s : State) : Host.Outcome State Fault Refusal :=
  gate (.vFcmpLe m fq k va vb t) noCheck (fun s => vecCmp s m fq k (fcmpReg .le t va vb)) s
def execVFcmpGt (m : MReg) (fq : FQ) (k : MReg) (va vb : VReg) (t : Ty) (s : State) : Host.Outcome State Fault Refusal :=
  gate (.vFcmpGt m fq k va vb t) noCheck (fun s => vecCmp s m fq k (fcmpReg .gt t va vb)) s
def execVFcmpGe (m : MReg) (fq : FQ) (k : MReg) (va vb : VReg) (t : Ty) (s : State) : Host.Outcome State Fault Refusal :=
  gate (.vFcmpGe m fq k va vb t) noCheck (fun s => vecCmp s m fq k (fcmpReg .ge t va vb)) s

/-! ## Conversions (R162, R163) -/

/-- A conversion under the path's FMT. -/
def cvtNow (s : State) (src dst : Ty) (a : Nat) : Lane × Nat := convert src dst (fmtRnd (fmtNow s)) (fmtSat (fmtNow s)) a

def execVCvt (m : MReg) (fq : FQ) (vd va : VReg) (src dst : Ty) (s : State) : Host.Outcome State Fault Refusal :=
  gate (.vCvt m fq vd va src dst) noCheck
    (fun s => perLane s m fq (fun _ _ => vd) (fun g l => cvtNow s src dst (readV g va l).toNat)) s

/-- The 32-bit type that a packed type is narrowed from and widened to (R163). -/
def wideTy (t : Ty) : Ty :=
  match t with
  | .i16 => .i32
  | .z16 => .z32
  | _ => .f32

def execVPack (m : MReg) (fq : FQ) (vd va vb : VReg) (t : Ty) (s : State) : Host.Outcome State Fault Refusal :=
  gate (.vPack m fq vd va vb t) noCheck
    (fun s => perLane s m fq (fun _ _ => vd) (fun g l =>
      let a := cvtNow s (wideTy t) t (readV g va l).toNat
      let b := cvtNow s (wideTy t) t (readV g vb l).toNat
      (BitVec.ofNat 32 (bits b.1.toNat 0 16 * 65536 + bits a.1.toNat 0 16), a.2 ||| b.2))) s

def execVUnpack (m : MReg) (fq : FQ) (vd va : VReg) (hi : Bool) (t : Ty) (s : State) : Host.Outcome State Fault Refusal :=
  gate (.vUnpack m fq vd va hi t) noCheck
    (fun s => perLane s m fq (fun _ _ => vd) (fun g l =>
      let h := bits (readV g va l).toNat (if hi then 16 else 0) 16
      if isFp t then fRes (widen t h) else (laneOf t (intOf t h), 0))) s

/-! ## Block floating point (R164, R165) -/

/-- One block of `v.qpack`: the values of its sixteen threads, +0 outside `src`, quantised (R164). -/
def qpackBlock (g : Group) (w k : Nat) (src : Word) (va : VReg) : Nat × List Int × Nat :=
  quant w ((List.range 16).map (fun i =>
    let t := 16 * k + i
    unpack fp32 (if bit src t then (readV g va t).toNat else 0)))

/-- QPACK. With U = 1 the block of the lowest thread is computed from that thread alone (R99). -/
def qpack (s : State) (m : MReg) (fq : FQ) (vd va vc : VReg) (w : Nat) : State :=
  let g := cg s
  let e := effMask s m fq
  let one := srcLane s 0
  let src := if s.iss.uniform then maskOf (fun t => t == one) else e
  let res := fun (t : Nat) =>
    let k := (if s.iss.uniform then one else t) / 16
    let q := qpackBlock g w k src va
    (q, q.2.1.getD ((if s.iss.uniform then one else t) % 16) 0)
  let rs := (lanesOf (writeMask s m fq)).map (fun t => (t, res t))
  let fl := flagsOf (rs.map (fun r => ((), r.2.1.2.2)))
  updCg s (fun g' =>
    let g' := writeLanes g' (fun _ => vd) (rs.map (fun r => (r.1, BitVec.ofInt 32 r.2.2)))
    orFlags (writeLanes g' (fun _ => vc) (rs.map (fun r => (r.1, BitVec.ofNat 32 r.2.1.1)))) fl)

def execVQpack (m : MReg) (fq : FQ) (vd va vc : VReg) (w : BitVec 4) (s : State) : Host.Outcome State Fault Refusal :=
  gate (.vQpack m fq vd va vc w) noCheck (fun s => qpack s m fq vd va vc w.toNat) s

def execVQunpack (m : MReg) (fq : FQ) (vd va vb : VReg) (w : BitVec 4) (s : State) : Host.Outcome State Fault Refusal :=
  gate (.vQunpack m fq vd va vb w) noCheck
    (fun s => perLane s m fq (fun _ _ => vd) (fun g l =>
      let e := bits (readV g vb l).toNat 0 8
      fRes (if e == 0xFF then fp32.nan else qbToFp32 w.toNat e (signedBits w.toNat (readV g va l).toNat), 0))) s

/-! ## Special functions (R166) -/

def execVRcp (m : MReg) (o : VUn) (t : Ty) (s : State) : Host.Outcome State Fault Refusal :=
  gate (.vRcp m o t) noCheck (fun s => vecUn s m o (fun a => fRes (sfu .rcp t (fmtRnd (fmtNow s)) a))) s
def execVRsqrt (m : MReg) (o : VUn) (t : Ty) (s : State) : Host.Outcome State Fault Refusal :=
  gate (.vRsqrt m o t) noCheck (fun s => vecUn s m o (fun a => fRes (sfu .rsqrt t (fmtRnd (fmtNow s)) a))) s
def execVSqrt (m : MReg) (o : VUn) (t : Ty) (s : State) : Host.Outcome State Fault Refusal :=
  gate (.vSqrt m o t) noCheck (fun s => vecUn s m o (fun a => fRes (sfu .sqrt t (fmtRnd (fmtNow s)) a))) s
def execVExp2 (m : MReg) (o : VUn) (t : Ty) (s : State) : Host.Outcome State Fault Refusal :=
  gate (.vExp2 m o t) noCheck (fun s => vecUn s m o (fun a => fRes (sfu .exp2 t (fmtRnd (fmtNow s)) a))) s
def execVLog2 (m : MReg) (o : VUn) (t : Ty) (s : State) : Host.Outcome State Fault Refusal :=
  gate (.vLog2 m o t) noCheck (fun s => vecUn s m o (fun a => fRes (sfu .log2 t (fmtRnd (fmtNow s)) a))) s
def execVSinpi (m : MReg) (o : VUn) (t : Ty) (s : State) : Host.Outcome State Fault Refusal :=
  gate (.vSinpi m o t) noCheck (fun s => vecUn s m o (fun a => fRes (sfu .sinpi t (fmtRnd (fmtNow s)) a))) s
def execVCospi (m : MReg) (o : VUn) (t : Ty) (s : State) : Host.Outcome State Fault Refusal :=
  gate (.vCospi m o t) noCheck (fun s => vecUn s m o (fun a => fRes (sfu .cospi t (fmtRnd (fmtNow s)) a))) s

end Sys2Proof.Machine
end

