-- ==== Sys2Proof/Machine/VecInt.lean ====
section
/-!
DEFINITION. The integer, logic, shift, compare and move instructions of the vector slot (R147 to R156).
-/

namespace Sys2Proof.Machine

/-! ## What a lane computes -/

/-- A result under a type, raising no flag. -/
def iRes (t : Ty) (v : Int) : Lane × Nat := (laneOf t v, 0)
/-- An operation on two values of a type (R148, R151). -/
def iBin (t : Ty) (f : Int → Int → Int) (a b : Nat) : Lane × Nat := iRes t (f (intOf t a) (intOf t b))
/-- An operation on the low w bits. -/
def zBin (t : Ty) (f : Nat → Nat → Nat) (a b : Nat) : Lane × Nat := iRes t (f (bits a 0 t.width) (bits b 0 t.width) : Nat)
def zUn (t : Ty) (f : Nat → Nat) (a : Nat) : Lane × Nat := iRes t (f (bits a 0 t.width) : Nat)

def iAdd (t : Ty) : Nat → Nat → Lane × Nat := iBin t (fun a b => a + b)
def iSub (t : Ty) : Nat → Nat → Lane × Nat := iBin t (fun a b => a - b)
def iMul (t : Ty) : Nat → Nat → Lane × Nat := iBin t (fun a b => a * b)
/-- The high w bits of the 2w-bit product. -/
def iMulhi (t : Ty) : Nat → Nat → Lane × Nat := iBin t (fun a b => a * b / (2 ^ t.width : Nat))
def iMin (t : Ty) : Nat → Nat → Lane × Nat := iBin t min
def iMax (t : Ty) : Nat → Nat → Lane × Nat := iBin t max
def iAnd (t : Ty) : Nat → Nat → Lane × Nat := zBin t (fun a b => a &&& b)
def iOr (t : Ty) : Nat → Nat → Lane × Nat := zBin t (fun a b => a ||| b)
def iXor (t : Ty) : Nat → Nat → Lane × Nat := zBin t (fun a b => a ^^^ b)
/-- Shifts by n places (R151). -/
def iShl (t : Ty) (a n : Nat) : Lane × Nat := iRes t (bits a 0 t.width * 2 ^ n : Nat)
def iShr (t : Ty) (a n : Nat) : Lane × Nat := iRes t (bits a 0 t.width / 2 ^ n : Nat)
def iSra (t : Ty) (a n : Nat) : Lane × Nat := iRes t (signedBits t.width a / (2 ^ n : Nat))
/-- A register form takes the low log2 w bits of b as its count (R152). -/
def byReg (t : Ty) (f : Ty → Nat → Nat → Lane × Nat) (a b : Nat) : Lane × Nat := f t a (b % t.width)

/-! ## Register forms (R151) -/

def execVNop (s : State) : Host.Outcome State Fault Refusal :=
  gate .vNop noCheck (fun s => s) s
def execVAdd (m : MReg) (o : VBin) (t : Ty) (s : State) : Host.Outcome State Fault Refusal :=
  gate (.vAdd m o t) noCheck (fun s => vecBin s m o (iAdd t)) s
def execVSub (m : MReg) (o : VBin) (t : Ty) (s : State) : Host.Outcome State Fault Refusal :=
  gate (.vSub m o t) noCheck (fun s => vecBin s m o (iSub t)) s
def execVMul (m : MReg) (o : VBin) (t : Ty) (s : State) : Host.Outcome State Fault Refusal :=
  gate (.vMul m o t) noCheck (fun s => vecBin s m o (iMul t)) s
def execVMad (m : MReg) (o : VTer) (t : Ty) (s : State) : Host.Outcome State Fault Refusal :=
  gate (.vMad m o t) noCheck (fun s => vecTer s m o (fun a b c => iRes t (intOf t a * intOf t b + intOf t c))) s
def execVMulhi (m : MReg) (o : VBin) (t : Ty) (s : State) : Host.Outcome State Fault Refusal :=
  gate (.vMulhi m o t) noCheck (fun s => vecBin s m o (iMulhi t)) s
def execVMin (m : MReg) (o : VBin) (t : Ty) (s : State) : Host.Outcome State Fault Refusal :=
  gate (.vMin m o t) noCheck (fun s => vecBin s m o (iMin t)) s
def execVMax (m : MReg) (o : VBin) (t : Ty) (s : State) : Host.Outcome State Fault Refusal :=
  gate (.vMax m o t) noCheck (fun s => vecBin s m o (iMax t)) s
def execVAbs (m : MReg) (o : VUn) (t : Ty) (s : State) : Host.Outcome State Fault Refusal :=
  gate (.vAbs m o t) noCheck (fun s => vecUn s m o (fun a => iRes t (intOf t a).natAbs)) s
def execVNeg (m : MReg) (o : VUn) (t : Ty) (s : State) : Host.Outcome State Fault Refusal :=
  gate (.vNeg m o t) noCheck (fun s => vecUn s m o (fun a => iRes t (0 - intOf t a))) s
def execVAnd (m : MReg) (o : VBin) (t : Ty) (s : State) : Host.Outcome State Fault Refusal :=
  gate (.vAnd m o t) noCheck (fun s => vecBin s m o (iAnd t)) s
def execVOr (m : MReg) (o : VBin) (t : Ty) (s : State) : Host.Outcome State Fault Refusal :=
  gate (.vOr m o t) noCheck (fun s => vecBin s m o (iOr t)) s
def execVXor (m : MReg) (o : VBin) (t : Ty) (s : State) : Host.Outcome State Fault Refusal :=
  gate (.vXor m o t) noCheck (fun s => vecBin s m o (iXor t)) s
def execVNot (m : MReg) (o : VUn) (t : Ty) (s : State) : Host.Outcome State Fault Refusal :=
  gate (.vNot m o t) noCheck (fun s => vecUn s m o (zUn t (fun a => 2 ^ t.width - 1 - a))) s
def execVShl (m : MReg) (o : VBin) (t : Ty) (s : State) : Host.Outcome State Fault Refusal :=
  gate (.vShl m o t) noCheck (fun s => vecBin s m o (byReg t iShl)) s
def execVShr (m : MReg) (o : VBin) (t : Ty) (s : State) : Host.Outcome State Fault Refusal :=
  gate (.vShr m o t) noCheck (fun s => vecBin s m o (byReg t iShr)) s
def execVSra (m : MReg) (o : VBin) (t : Ty) (s : State) : Host.Outcome State Fault Refusal :=
  gate (.vSra m o t) noCheck (fun s => vecBin s m o (byReg t iSra)) s
def execVClz (m : MReg) (o : VUn) (t : Ty) (s : State) : Host.Outcome State Fault Refusal :=
  gate (.vClz m o t) noCheck (fun s => vecUn s m o (zUn t (clzOf t.width))) s
def execVPopc (m : MReg) (o : VUn) (t : Ty) (s : State) : Host.Outcome State Fault Refusal :=
  gate (.vPopc m o t) noCheck (fun s => vecUn s m o (zUn t (popcOf t.width))) s

/-! ## Immediate forms (R151, R152) -/

def execVAddImm (m : MReg) (o : VImm) (t : Ty) (s : State) : Host.Outcome State Fault Refusal :=
  gate (.vAddImm m o t) noCheck (fun s => vecImm s m o t (iAdd t)) s
def execVSubImm (m : MReg) (o : VImm) (t : Ty) (s : State) : Host.Outcome State Fault Refusal :=
  gate (.vSubImm m o t) noCheck (fun s => vecImm s m o t (iSub t)) s
def execVMulImm (m : MReg) (o : VImm) (t : Ty) (s : State) : Host.Outcome State Fault Refusal :=
  gate (.vMulImm m o t) noCheck (fun s => vecImm s m o t (iMul t)) s
def execVMinImm (m : MReg) (o : VImm) (t : Ty) (s : State) : Host.Outcome State Fault Refusal :=
  gate (.vMinImm m o t) noCheck (fun s => vecImm s m o t (iMin t)) s
def execVMaxImm (m : MReg) (o : VImm) (t : Ty) (s : State) : Host.Outcome State Fault Refusal :=
  gate (.vMaxImm m o t) noCheck (fun s => vecImm s m o t (iMax t)) s
def execVAndImm (m : MReg) (o : VImm) (t : Ty) (s : State) : Host.Outcome State Fault Refusal :=
  gate (.vAndImm m o t) noCheck (fun s => vecImm s m o t (iAnd t)) s
def execVOrImm (m : MReg) (o : VImm) (t : Ty) (s : State) : Host.Outcome State Fault Refusal :=
  gate (.vOrImm m o t) noCheck (fun s => vecImm s m o t (iOr t)) s
def execVXorImm (m : MReg) (o : VImm) (t : Ty) (s : State) : Host.Outcome State Fault Refusal :=
  gate (.vXorImm m o t) noCheck (fun s => vecImm s m o t (iXor t)) s
def execVShlImm (m : MReg) (o : VImm) (t : Ty) (s : State) : Host.Outcome State Fault Refusal :=
  gate (.vShlImm m o t) noCheck (fun s => vecImm s m o t (iShl t)) s
def execVShrImm (m : MReg) (o : VImm) (t : Ty) (s : State) : Host.Outcome State Fault Refusal :=
  gate (.vShrImm m o t) noCheck (fun s => vecImm s m o t (iShr t)) s
def execVSraImm (m : MReg) (o : VImm) (t : Ty) (s : State) : Host.Outcome State Fault Refusal :=
  gate (.vSraImm m o t) noCheck (fun s => vecImm s m o t (iSra t)) s

/-! ## Bit field, selection (R153, R154) -/

/-- Bits pos + len − 1 … pos, extended as the type says (R153). -/
def vBfxOf (t : Ty) (len pos a : Nat) : Lane × Nat :=
  iRes t (if t.signed then signedBits len (bits a pos len) else (bits a pos len : Nat))

def execVBfx (m : MReg) (fq : FQ) (vd va : VReg) (t : Ty) (len : BitVec 6) (pos : BitVec 5) (s : State) :
    Host.Outcome State Fault Refusal :=
  gate (.vBfx m fq vd va t len pos) noCheck
    (fun s => perLane s m fq (fun _ _ => vd) (fun g l => vBfxOf t len.toNat pos.toNat (readV g va l).toNat)) s

def execVSel (m : MReg) (fq : FQ) (vd va vb : VReg) (k : MReg) (s : State) : Host.Outcome State Fault Refusal :=
  gate (.vSel m fq vd va vb k) noCheck
    (fun s => perLane s m fq (fun _ _ => vd)
      (fun g l => (if bit (readM g k) l then readV g va l else readV g vb l, 0))) s

/-! ## Moves (R156) -/

def execVMov (m : MReg) (o : VUn) (s : State) : Host.Outcome State Fault Refusal :=
  gate (.vMov m o) noCheck (fun s => vecUn s m o (fun a => (BitVec.ofNat 32 a, 0))) s
def execVMovi (m : MReg) (fq : FQ) (vd : VReg) (t : Ty) (imm : BitVec 16) (s : State) : Host.Outcome State Fault Refusal :=
  gate (.vMovi m fq vd t imm) noCheck
    (fun s => perLane s m fq (fun _ _ => vd) (fun _ _ => iRes t (intOf t (immVal t imm)))) s
def execVMovs (m : MReg) (fq : FQ) (vd : VReg) (r : SReg) (hi : Bool) (s : State) : Host.Outcome State Fault Refusal :=
  gate (.vMovs m fq vd r hi) noCheck
    (fun s => perLane s m fq (fun _ _ => vd) (fun _ _ => (field 32 (rs s r).toNat (if hi then 32 else 0), 0))) s

/-- The per-thread value that SEL names (R156, R185). -/
def laneValue (s : State) (sel : BitVec 3) (g : Group) (t : Nat) : Nat :=
  match sel.toNat with
  | 0 => t
  | 1 => t % 16
  | 2 => t / 16
  | 3 => if faceB g t then 1 else 0
  | _ => s.iss.gid.grp

def execVLane (m : MReg) (fq : FQ) (vd : VReg) (sel : BitVec 3) (s : State) : Host.Outcome State Fault Refusal :=
  gate (.vLane m fq vd sel) noCheck
    (fun s => perLane s m fq (fun _ _ => vd) (fun g t => (BitVec.ofNat 32 (laneValue s sel g t), 0))) s

/-! ## Compares (R155) -/

/-- A compare of two registers under a type. -/
def cmpReg (c : Cond) (t : Ty) (va vb : VReg) (g : Group) (l : Nat) : Bool × Nat :=
  (condHolds c (intOf t (readV g va l).toNat) (intOf t (readV g vb l).toNat), 0)
/-- A compare with an immediate. -/
def cmpImm (c : Cond) (t : Ty) (va : VReg) (imm : BitVec 16) (g : Group) (l : Nat) : Bool × Nat :=
  (condHolds c (intOf t (readV g va l).toNat) (intOf t (immVal t imm)), 0)

def execVCmpEq (m : MReg) (fq : FQ) (k : MReg) (va vb : VReg) (t : Ty) (s : State) : Host.Outcome State Fault Refusal :=
  gate (.vCmpEq m fq k va vb t) noCheck (fun s => vecCmp s m fq k (cmpReg .eq t va vb)) s
def execVCmpNe (m : MReg) (fq : FQ) (k : MReg) (va vb : VReg) (t : Ty) (s : State) : Host.Outcome State Fault Refusal :=
  gate (.vCmpNe m fq k va vb t) noCheck (fun s => vecCmp s m fq k (cmpReg .ne t va vb)) s
def execVCmpLt (m : MReg) (fq : FQ) (k : MReg) (va vb : VReg) (t : Ty) (s : State) : Host.Outcome State Fault Refusal :=
  gate (.vCmpLt m fq k va vb t) noCheck (fun s => vecCmp s m fq k (cmpReg .lt t va vb)) s
def execVCmpLe (m : MReg) (fq : FQ) (k : MReg) (va vb : VReg) (t : Ty) (s : State) : Host.Outcome State Fault Refusal :=
  gate (.vCmpLe m fq k va vb t) noCheck (fun s => vecCmp s m fq k (cmpReg .le t va vb)) s
def execVCmpGt (m : MReg) (fq : FQ) (k : MReg) (va vb : VReg) (t : Ty) (s : State) : Host.Outcome State Fault Refusal :=
  gate (.vCmpGt m fq k va vb t) noCheck (fun s => vecCmp s m fq k (cmpReg .gt t va vb)) s
def execVCmpGe (m : MReg) (fq : FQ) (k : MReg) (va vb : VReg) (t : Ty) (s : State) : Host.Outcome State Fault Refusal :=
  gate (.vCmpGe m fq k va vb t) noCheck (fun s => vecCmp s m fq k (cmpReg .ge t va vb)) s
def execVCmpEqImm (m : MReg) (fq : FQ) (k : MReg) (va : VReg) (t : Ty) (imm : BitVec 16) (s : State) :
    Host.Outcome State Fault Refusal :=
  gate (.vCmpEqImm m fq k va t imm) noCheck (fun s => vecCmp s m fq k (cmpImm .eq t va imm)) s
def execVCmpNeImm (m : MReg) (fq : FQ) (k : MReg) (va : VReg) (t : Ty) (imm : BitVec 16) (s : State) :
    Host.Outcome State Fault Refusal :=
  gate (.vCmpNeImm m fq k va t imm) noCheck (fun s => vecCmp s m fq k (cmpImm .ne t va imm)) s
def execVCmpLtImm (m : MReg) (fq : FQ) (k : MReg) (va : VReg) (t : Ty) (imm : BitVec 16) (s : State) :
    Host.Outcome State Fault Refusal :=
  gate (.vCmpLtImm m fq k va t imm) noCheck (fun s => vecCmp s m fq k (cmpImm .lt t va imm)) s
def execVCmpLeImm (m : MReg) (fq : FQ) (k : MReg) (va : VReg) (t : Ty) (imm : BitVec 16) (s : State) :
    Host.Outcome State Fault Refusal :=
  gate (.vCmpLeImm m fq k va t imm) noCheck (fun s => vecCmp s m fq k (cmpImm .le t va imm)) s
def execVCmpGtImm (m : MReg) (fq : FQ) (k : MReg) (va : VReg) (t : Ty) (imm : BitVec 16) (s : State) :
    Host.Outcome State Fault Refusal :=
  gate (.vCmpGtImm m fq k va t imm) noCheck (fun s => vecCmp s m fq k (cmpImm .gt t va imm)) s
def execVCmpGeImm (m : MReg) (fq : FQ) (k : MReg) (va : VReg) (t : Ty) (imm : BitVec 16) (s : State) :
    Host.Outcome State Fault Refusal :=
  gate (.vCmpGeImm m fq k va t imm) noCheck (fun s => vecCmp s m fq k (cmpImm .ge t va imm)) s

end Sys2Proof.Machine
end

