-- ==== Sys2Proof/Machine/Cross.lean ====
section
/-!
DEFINITION. The cross-lane and mask instructions (R167 to R172).
-/

namespace Sys2Proof.Machine

/-! ## v.shfl and v.bcast (R167, R168) -/

/-- The second operand of thread t. -/
def shVal (g : Group) (src : ShSrc) (t : Nat) : Nat :=
  match src with
  | .reg b => (readV g b t).toNat
  | .imm n => n.toNat

/-- The thread that v.shfl reads, as an unbounded integer (R167). -/
def shflFrom (mode : BitVec 2) (t b : Nat) : Int :=
  match mode.toNat with
  | 0 => b
  | 1 => (t : Int) - b
  | 2 => (t : Int) + b
  | _ => (t ^^^ b : Nat)

def execVShfl (m : MReg) (fq : FQ) (vd va : VReg) (src : ShSrc) (mode : BitVec 2) (s : State) :
    Host.Outcome State Fault Refusal :=
  gate (.vShfl m fq vd va src mode) noCheck
    (fun s => perLane s m fq (fun _ _ => vd) (fun g t => (laneVal g (shflFrom mode t (shVal g src t)) va t, 0))) s

def execVBcast (m : MReg) (fq : FQ) (vd va : VReg) (src : ShSrc) (s : State) : Host.Outcome State Fault Refusal :=
  gate (.vBcast m fq vd va src) noCheck
    (fun s =>
      let j := shVal (cg s) src (lowest (effMask s m fq))
      perLane s m fq (fun _ _ => vd) (fun g t => (laneVal g j va t, 0))) s

/-! ## v.redx and v.scan (R169, R170) -/

/-- COMBINE of an OP (R169). -/
def redCombine (op : Nat) (t : Ty) (mode a b : Nat) : Lane × Nat :=
  match op with
  | 0 => iAdd t a b
  | 1 => iMin t a b
  | 2 => iMax t a b
  | 3 => iAnd t a b
  | 4 => iOr t a b
  | 5 => iXor t a b
  | 8 => fRes (fAdd fp32 mode a b)
  | 9 => fRes (fMinMax fp32 false a b)
  | _ => fRes (fMinMax fp32 true a b)

/-- A value taken without a combine: a NaN becomes the canonical NaN (R169, R170). -/
def redFirst (op : Nat) (t : Ty) (a : Nat) : Lane × Nat :=
  if op < 8 then iRes t (intOf t a)
  else
    match unpack fp32 a with
    | .nan sig => (BitVec.ofNat 32 fp32.nan, if sig then fNV else 0)
    | _ => (BitVec.ofNat 32 a, 0)

/-- The combine in ascending order over a non-empty list; a lane alone is delivered without one (R169). -/
def redFold (op : Nat) (t : Ty) (mode : Nat) : List Nat → Lane × Nat
  | [] => (0, 0)
  | [a] => redFirst op t a
  | a :: r => r.foldl (fun x b => let y := redCombine op t mode x.1.toNat b; (y.1, x.2 ||| y.2))
      (if op < 8 then iRes t (intOf t a) else (BitVec.ofNat 32 a, 0))

/-- One addition of FADDTREE: an addend of −0 leaves a partner that is no NaN as it is, in every rounding mode (R169). -/
def treeAdd (mode a b : Nat) : Nat × Nat :=
  if b == 0x80000000 && !(unpack fp32 a).isNan then (a, 0)
  else if a == 0x80000000 && !(unpack fp32 b).isNan then (b, 0)
  else fAdd fp32 mode a b

/-- One level of FADDTREE: neighbours are added pairwise. -/
def addPairs (mode : Nat) : List Nat → List Nat × Nat
  | a :: b :: r =>
    let s := treeAdd mode a b
    let q := addPairs mode r
    (s.1 :: q.1, s.2 ||| q.2)
  | x => (x, 0)

/-- FADDTREE (R169) over 64 values: six levels. -/
def faddTree (mode : Nat) : Nat → List Nat → Nat × Nat
  | 0, xs => (xs.headD 0, 0)
  | n + 1, xs =>
    let p := addPairs mode xs
    let q := faddTree mode n p.1
    (q.1, p.2 ||| q.2)

/-- The result of v.redx over the lanes of E. -/
def redxValue (s : State) (g : Group) (e : Word) (va : VReg) (op : Nat) (t : Ty) : Lane × Nat :=
  let mode := fmtRnd (fmtNow s)
  if op == 8 then
    fRes (faddTree mode 6 (lanes.map (fun i => if bit e i then (readV g va i).toNat else 0x80000000)))
  else redFold op t mode ((lanesOf e).map (fun i => (readV g va i).toNat))

def execVRedx (m : MReg) (fq : FQ) (vd va : VReg) (op : BitVec 4) (t : Ty) (s : State) : Host.Outcome State Fault Refusal :=
  gate (.vRedx m fq vd va op t) noCheck
    (fun s =>
      let r := redxValue s (cg s) (effMask s m fq) va op.toNat t
      perLane s m fq (fun _ _ => vd) (fun _ _ => r)) s

/-- IDENT (R170). -/
def scanIdent (op : Nat) (t : Ty) : Lane :=
  match op with
  | 1 => laneOf t (tyMax t)
  | 2 => laneOf t (tyMin t)
  | 3 => laneOf t (-1)
  | 9 => BitVec.ofNat 32 fp32.top
  | 10 => BitVec.ofNat 32 (fp32.top + 2 ^ 31)
  | _ => 0

/-- The scan over the lanes of E, ascending: pairs of a lane and its result, and the flags. -/
def scanGo (x : Bool) (op : Nat) (t : Ty) (mode : Nat) (g : Group) (va : VReg) :
    List Nat → Option Lane → List (Nat × Lane) × Nat
  | [], _ => ([], 0)
  | i :: r, acc =>
    let a := (readV g va i).toNat
    let new := match acc with
      | none => redFirst op t a
      | some b => redCombine op t mode b.toNat a
    let here := if x then acc.getD (scanIdent op t) else new.1
    let q := scanGo x op t mode g va r (some new.1)
    ((i, here) :: q.1, new.2 ||| q.2)

def execVScan (m : MReg) (fq : FQ) (vd va : VReg) (x : Bool) (op : BitVec 4) (t : Ty) (s : State) :
    Host.Outcome State Fault Refusal :=
  gate (.vScan m fq vd va x op t) noCheck
    (fun s =>
      let r := scanGo x op.toNat t (fmtRnd (fmtNow s)) (cg s) va (lanesOf (effMask s m fq)) none
      updCg s (fun g => orFlags (writeLanes g (fun _ => vd) r.1) r.2)) s

/-! ## v.ballot (R171) -/

def execVBallot (m : MReg) (fq : FQ) (k : MReg) (va : VReg) (t : Ty) (s : State) : Host.Outcome State Fault Refusal :=
  gate (.vBallot m fq k va t) noCheck
    (fun s =>
      let e := effMask s m fq
      updCg s (fun g => writeM g k (maskOf (fun i => bit e i && bits (readV g va i).toNat 0 t.width != 0)))) s

/-! ## Mask instructions (R172) -/

/-- The bits of mD in E take those of `f`; the others keep their values. -/
def maskOp (s : State) (m : MReg) (fq : FQ) (d : MReg) (f : Group → Word) : State :=
  let e := effMask s m fq
  updCg s (fun g => writeM g d (mergeMask (readM g d) e (f g)))

def execKAnd (m : MReg) (fq : FQ) (d a b : MReg) (s : State) : Host.Outcome State Fault Refusal :=
  gate (.kAnd m fq d a b) noCheck (fun s => maskOp s m fq d (fun g => readM g a &&& readM g b)) s
def execKOr (m : MReg) (fq : FQ) (d a b : MReg) (s : State) : Host.Outcome State Fault Refusal :=
  gate (.kOr m fq d a b) noCheck (fun s => maskOp s m fq d (fun g => readM g a ||| readM g b)) s
def execKXor (m : MReg) (fq : FQ) (d a b : MReg) (s : State) : Host.Outcome State Fault Refusal :=
  gate (.kXor m fq d a b) noCheck (fun s => maskOp s m fq d (fun g => readM g a ^^^ readM g b)) s
def execKNot (m : MReg) (fq : FQ) (d a : MReg) (s : State) : Host.Outcome State Fault Refusal :=
  gate (.kNot m fq d a) noCheck (fun s => maskOp s m fq d (fun g => ~~~readM g a)) s
def execKMov (m : MReg) (fq : FQ) (d a : MReg) (s : State) : Host.Outcome State Fault Refusal :=
  gate (.kMov m fq d a) noCheck (fun s => maskOp s m fq d (fun g => readM g a)) s
def execKPopc (m : MReg) (fq : FQ) (vd : VReg) (a : MReg) (s : State) : Host.Outcome State Fault Refusal :=
  gate (.kPopc m fq vd a) noCheck
    (fun s => perLane s m fq (fun _ _ => vd) (fun g _ => (BitVec.ofNat 32 (popcOf 64 (readM g a).toNat), 0))) s

/-- The lowest lane of a mask, as a mask. -/
def firstOf (x : Word) : Word :=
  match lanesOf x with
  | t :: _ => maskOf (fun i => i == t)
  | [] => 0

def execKFirst (m : MReg) (fq : FQ) (d a : MReg) (s : State) : Host.Outcome State Fault Refusal :=
  gate (.kFirst m fq d a) noCheck
    (fun s => let e := effMask s m fq; maskOp s m fq d (fun g => firstOf (readM g a &&& e))) s

end Sys2Proof.Machine
end

