-- ==== Sys2Proof/Machine/EngineEvents.lean ====
section
/-!
DEFINITION. The events of the matrix unit and the Skidder (R287 to R299): one K step or row, the end of a tile operation, the
performance of a copy-queue command. An event that is not enabled changes nothing.
-/

namespace Sys2Proof.Machine

/-! ## Accumulators -/

def accAt (w : Workgroup) (a i j : Nat) : Nat := (sget 0 w.acc (4096 * a + 64 * i + j)).toNat

/-- Row i of tile a. -/
def accRow (w : Workgroup) (a i : Nat) : List Nat := lanes.map (accAt w a i)

def putAccRow (w : Workgroup) (a i : Nat) (vs : List Nat) : Workgroup :=
  { w with acc := (lanes.zip vs).foldl (fun m p => sput 0 m (4096 * a + 64 * i + p.1) (BitVec.ofNat 32 p.2)) w.acc }

/-- Rows with their new contents. -/
def putAccRows (w : Workgroup) (a : Nat) (rs : List (Nat × List Nat)) : Workgroup :=
  rs.foldl (fun w r => putAccRow w a r.1 r.2) w

/-! ## Operand values -/

/-- Sixteen values of an operand: a QB block (exponent, mantissas) or sixteen BF16 words. -/
inductive MVec
  | qb (w ex : Nat) (ms : List Int)
  | bf (ws : List Nat)
  deriving DecidableEq, Repr

/-- The mantissas of a block's bytes (R73). -/
def mantissas (w n : Nat) (b : List Byte) : List Int :=
  let v := ofBytes b
  (List.range n).map (fun e => signedBits w (bits v (w * e) w))

/-- Little-endian halfwords. -/
def halves (b : List Byte) : List Nat := (List.range (b.length / 2)).map (fun i => bits (ofBytes b) (16 * i) 16)
def words32 (b : List Byte) : List Nat := (List.range (b.length / 4)).map (fun i => bits (ofBytes b) (32 * i) 32)

/-- The exact values of sixteen elements (R72). -/
def MVec.values : MVec → List FV
  | .qb w ex ms => ms.map (qbValue w ex)
  | .bf ws => ws.map (unpack bf16)

/-! ## One K step (R82 to R84, R287, R288) -/

/-- The block step of R82 on accumulator c with block partial P: the new c and its flags. -/
def qbStep (mode c ea eb wa wb : Nat) (p : Int) : Nat × Nat :=
  let x := unpack fp32 c
  if x.isSig then (fp32.nan, fNV)
  else if ea == 0xFF || eb == 0xFF || x.isNan then (fp32.nan, 0)
  else
    let v : FV := if p == 0 then .fin false 0 0
      else .fin (decide (p < 0)) p.natAbs ((ea : Int) + eb - 254 - ((wa : Int) - 1) - ((wb : Int) - 1))
    sumFV fp32 mode [x, v]

/-- The exact sum T of some terms is added to c in one rounding; infinite terms of both signs are invalid, whatever c and the other terms
are (R84). DEDUCED (notes/assumptions/26.md). -/
def chunkSum (mode c : Nat) (ts : List FV) : Nat × Nat :=
  let r := sumFV fp32 mode (unpack fp32 c :: ts)
  (r.1, r.2 ||| (if ts.any (FV.isInf true) && ts.any (FV.isInf false) then fNV else 0))

/-- One chunk of R84: eight products. -/
def chunkStep (mode c : Nat) (a b : List FV) : Nat × Nat :=
  let ps := (a.zip b).map (fun p => prodFV p.1 p.2)
  let r := chunkSum mode c (ps.map (fun p => p.1))
  (r.1, r.2 ||| flagsOf (ps.map (fun p => ((), p.2))))

def dot (a b : List Int) : Int := (a.zip b).foldl (fun s p => s + p.1 * p.2) 0

/-- A step on one element. `pos` lists the positions of a sparse block of B (R288). -/
def elemStep (mode c : Nat) (a b : MVec) (pos : Option (List Nat)) : Nat × Nat :=
  match a, b with
  | .qb wa ea ma, .qb wb eb mb =>
    let p := match pos with
      | some ps => dot (ps.map (fun k => ma.getD k 0)) mb
      | none => dot ma mb
    qbStep mode c ea eb wa wb p
  | _, _ =>
    let r := chunkStep mode c (a.values.take 8) (b.values.take 8)
    let q := chunkStep mode r.1 (a.values.drop 8) (b.values.drop 8)
    (q.1, r.2 ||| q.2)

/-- Row i of A for step ks. -/
def readARow (s : State) (e : EngBy) (o : TileOp) (i ks : Nat) : State × Except (Nat × Nat) MVec :=
  let f := mfmtOf (fmtAf o.fmt)
  match engReads e s ((rowPieces f o.da i (16 * ks) 16).map (fun p => (o.da.loc, p))) with
  | (s, .error x) => (s, .error x)
  | (s, .ok bs) =>
    (s, .ok (match f with
      | .qb w => .qb w (ofBytes (bs.getD 1 [])) (mantissas w 16 (bs.headD []))
      | _ => .bf (halves (bs.headD []))))

/-- The rows of A. -/
def readARows (e : EngBy) (o : TileOp) (ks : Nat) : State → List Nat → State × Except (Nat × Nat) (List (Nat × MVec))
  | s, [] => (s, .ok [])
  | s, i :: r =>
    match readARow s e o i ks with
    | (s, .error x) => (s, .error x)
    | (s, .ok x) =>
      match readARows e o ks s r with
      | (s, .error x) => (s, .error x)
      | (s, .ok xs) => (s, .ok ((i, x) :: xs))

/-- N of a sparse product. -/
def sparseOf (o : TileOp) : Option Nat :=
  match o.op with
  | .mMmas _ _ _ _ _ _ _ nc => some (sparseN nc)
  | _ => none

/-- A column of B with the positions of a sparse block. -/
abbrev BCol := MVec × Option (List Nat)

/-- A QB column from its bytes. -/
def bColOf (w : Nat) (n : Option Nat) (bs : List (List Byte)) : BCol :=
  let k := n.getD 16
  (.qb w (ofBytes (bs.getD 1 [])) (mantissas w k (bs.headD [])),
   n.map (fun k => (List.range k).map (fun e => bits (ofBytes (bs.getD 2 [])) (4 * e) 4)))

/-- The 64 QB columns of step ks, from column j on. -/
def readBCols (e : EngBy) (o : TileOp) (w ks : Nat) : State → List Nat → State × Except (Nat × Nat) (List BCol)
  | s, [] => (s, .ok [])
  | s, j :: r =>
    match engReads e s ((bBlock { w := w, n := sparseOf o } o.db o.ival (64 * ks + j)).map (fun p => (o.db.loc, p))) with
    | (s, .error x) => (s, .error x)
    | (s, .ok bs) =>
      match readBCols e o w ks s r with
      | (s, .error x) => (s, .error x)
      | (s, .ok xs) => (s, .ok (bColOf w (sparseOf o) bs :: xs))

/-- All 64 columns of B for step ks. -/
def readB (s : State) (e : EngBy) (o : TileOp) (ks : Nat) : State × Except (Nat × Nat) (List BCol) :=
  match mfmtOf (fmtBf o.fmt) with
  | .qb w => readBCols e o w ks s lanes
  | _ =>
    match engReads e s ((List.range 16).map (fun k => (o.db.loc, (rowAt o.db (16 * ks + k), 128)))) with
    | (s, .error x) => (s, .error x)
    | (s, .ok bs) =>
      let rows := bs.map halves
      (s, .ok (lanes.map (fun j => (.bf (rows.map (fun r => r.getD j 0)), none))))

/-- The product step on one row of the accumulator. -/
def rowStep (mode : Nat) (old : List Nat) (a : MVec) (bs : List BCol) : List (Nat × Nat) :=
  (old.zip bs).map (fun p => elemStep mode p.1 a p.2.1 p.2.2)

/-! ## A tile operation's progress -/

/-- The destination tile of an operation. -/
def dstTile (o : TileOp) : Nat := (rprOp o.op).2
/-- The source tile of a constant-matrix operation. -/
def srcTile : Instr → Nat
  | .mXpose _ a | .mPerm _ a _ | .mRsum _ a | .mScale _ a _ => a.toNat
  | _ => 0

def viaMatrix (l : Launch) (c : Nat) : Via := { die := dieOf c, ident := idMatrix c, ctx := l.ctx, tag := l.tag }
/-- The accesses of a tile operation. -/
def byMatrix (l : Launch) (c : Nat) (o : TileOp) : EngBy := { v := viaMatrix l c, core := c, grp := o.grp, id := o.id }

/-- The first operation of a core's tile-operation queue. -/
def headTile (s : State) (c : Nat) : Option TileOp := if wgOnCore s c then (coreWg s c).tileq.head? else none

/-- Rewrite the operation at the head. -/
def updHeadTile (s : State) (c : Nat) (f : TileOp → TileOp) : State :=
  s.updWg (s.core c).tag c (fun w => { w with tileq := w.tileq.modify 0 f })

/-- Rows that a transfer still has to move, ascending. -/
def rowsLeft (o : TileOp) : List Nat := (lanesOf o.rows).filter (fun i => decide (o.next ≤ i))

/-- K steps or rows that are left. -/
def stepsLeft (o : TileOp) : Bool :=
  match o.op with
  | .mMma _ _ _ _ _ _ | .mMmas _ _ _ _ _ _ _ _ => decide (o.next < o.kval / 16)
  | .mLd _ _ _ _ _ | .mSt _ _ _ _ _ => !(rowsLeft o).isEmpty
  | _ => false

/-- A command may run: unbound, or bound to a slot that resolved so that the guard holds (R65). -/
def bindRuns (b : Option Bind) : Bool :=
  match b with
  | none => true
  | some x => x.fate == some true
def bindDiscards (b : Option Bind) : Bool :=
  match b with
  | none => false
  | some x => x.fate == some false

/-- Busy cycles of a step: R6's peak rate, and what the spec leaves open (notes/assumptions/17.md). -/
def stepCycles (o : TileOp) : Nat :=
  let peak := match o.op with
    | .mMma _ _ _ _ _ _ | .mMmas _ _ _ _ _ _ _ _ =>
      let wa := qbWidth (mfmtOf (fmtAf o.fmt))
      let wb := qbWidth (mfmtOf (fmtBf o.fmt))
      if wa == 0 || wb == 0 then 64 else 2 * max wa wb * (sparseOf o).getD 16 / 16
    | _ => 1
  peak + Config.busyCycles (o.id * 2 ^ 20 + o.next)

/-- An operation stops at a fault; it is reported to the group (R291, R336). DEDUCED (notes/assumptions/25.md). -/
def tileFault (s : State) (c : Nat) (o : TileOp) (e : Nat × Nat) : State :=
  let addr := BitVec.ofNat 64 e.2
  let s := updHeadTile s c (fun o => { o with fault := some (e.1, addr) })
  holdEvent s { tag := (s.core c).tag, core := c, grp := o.grp } { code := e.1, arg := 0, addr := addr }

/-- Rows of S of the destination set to +0 (R287). -/
def zeroRows (s : State) (c : Nat) (o : TileOp) : State :=
  s.updWg (s.core c).tag c (fun w => putAccRows w (dstTile o) ((lanesOf o.rows).map (fun i => (i, lanes.map (fun _ => 0)))))

/-- One K step of a product. Its writes land together; a fault leaves the step undone (R287, R291). -/
def mmaStep (s : State) (c : Nat) (o : TileOp) : State :=
  let l := coreLaunch s c
  let by_ := byMatrix l c o
  let s := updHeadTile s c (fun o => { o with begun := true })
  let s := if fmtAcc o.fmt == 1 && o.next == 0 then zeroRows s c o else s
  match readARows by_ o o.next s (lanesOf o.rows) with
  | (s, .error e) => tileFault s c o e
  | (s, .ok as) =>
    match readB s by_ o o.next with
    | (s, .error e) => tileFault s c o e
    | (s, .ok bs) =>
      let w := coreWg s c
      let rs := as.map (fun a => (a.1, rowStep (fmtRnd o.fmt) (accRow w (dstTile o) a.1) a.2 bs))
      let fl := flagsOf (rs.map (fun r => ((), flagsOf r.2)))
      let s := s.updWg (s.core c).tag c (fun w => putAccRows w (dstTile o) (rs.map (fun r => (r.1, r.2.map (fun x => x.1)))))
      updHeadTile s c (fun o => { o with next := o.next + 1, flags := o.flags ||| BitVec.ofNat 64 fl })

/-- One row of `m.ld` widened to FP32 (R289). -/
def ldRow (f : MFmt) (bs : List (List Byte)) : List (Nat × Nat) :=
  match f with
  | .f32 => (words32 (bs.headD [])).map (fun x => (x, 0))
  | .f16 => (halves (bs.headD [])).map (widen .f16)
  | .bf16 => (halves (bs.headD [])).map (widen .bf16)
  | .qb w =>
    (List.range 4).flatMap (fun b =>
      let ex := (bs.getD 1 []).getD b 0
      (mantissas w 16 (((bs.headD []).drop (2 * w * b)).take (2 * w))).map (fun m =>
        (if ex.toNat == 0xFF then fp32.nan else qbToFp32 w ex.toNat m, 0)))

/-- The type of a transfer. -/
def transferFmt : Instr → MFmt
  | .mLd _ _ ty w _ | .mSt _ _ ty w _ => mfmtTy ty w.toNat
  | _ => .f32

/-- The next row of `m.ld`. -/
def mldStep (s : State) (c : Nat) (o : TileOp) (i : Nat) : State :=
  let f := transferFmt o.op
  let s := updHeadTile s c (fun o => { o with begun := true })
  match engReads (byMatrix (coreLaunch s c) c o) s ((rowPieces f o.da i 0 64).map (fun p => (o.da.loc, p))) with
  | (s, .error e) => tileFault s c o e
  | (s, .ok bs) =>
    let r := ldRow f bs
    let s := s.updWg (s.core c).tag c (fun w => putAccRow w (dstTile o) i (r.map (fun x => x.1)))
    updHeadTile s c (fun o => { o with next := i + 1, flags := o.flags ||| BitVec.ofNat 64 (flagsOf r) })

/-- Mantissas packed little-endian (R73). -/
def packMantissas (w : Nat) (ms : List Int) : List Byte :=
  toBytes (2 * w) (ms.foldr (fun m a => a * 2 ^ w + lowBits w m) 0)

/-- One row of `m.st`: the runs of bytes it writes, and its flags (R289). -/
def stRow (f : MFmt) (fmt : BitVec 32) (row : List Nat) : List (List Byte) × Nat :=
  let cvt := fun (x : Fmt) =>
    let r := row.map (fun a => toFp x (fmtRnd fmt) (fmtSat fmt) (unpack fp32 a))
    ([r.flatMap (fun p => toBytes 2 p.1)], flagsOf r)
  match f with
  | .f32 => ([row.flatMap (toBytes 4)], 0)
  | .f16 => cvt fp16
  | .bf16 => cvt bf16
  | .qb w =>
    let qs := (List.range 4).map (fun b => quant w (((row.drop (16 * b)).take 16).map (unpack fp32)))
    ([qs.flatMap (fun q => packMantissas w q.2.1), qs.map (fun q => BitVec.ofNat 8 q.1)],
     flagsOf (qs.map (fun q => ((), q.2.2))))

/-- The next row of `m.st`: written only for a LIVE thread, whole or not at all (R63, R289, R291). -/
def mstStep (s : State) (c : Nat) (o : TileOp) (i : Nat) : State :=
  let f := transferFmt o.op
  let s := updHeadTile s c (fun o => { o with begun := true })
  let r := stRow f o.fmt (accRow (coreWg s c) (dstTile o) i)
  let go := fun (s : State) => updHeadTile s c (fun o => { o with next := i + 1, flags := o.flags ||| BitVec.ofNat 64 r.2 })
  if !bit o.live i then go s
  else
    let ps := (rowPieces f o.da i 0 64).zip r.1
    match engStore (byMatrix (coreLaunch s c) c o) s (ps.map (fun p => (o.da.loc, p.1.1, p.2))) with
    | (s, .error e) => tileFault s c o e
    | (s, .ok _) => go s

/-- MATRIX_K_STEP: the operation at the queue's head makes one K step or moves one row, and is charged for it (R287, R289,
R328). -/
def matrixKStep (s : State) (c : Nat) : State :=
  match headTile s c with
  | none => s
  | some o =>
    if !bindRuns o.bind || o.fault.isSome || !stepsLeft o then s
    else
      let s := chargeBudget s (s.core c).tag 1 (stepCycles o)
      match o.op with
      | .mLd _ _ _ _ _ => mldStep s c o ((rowsLeft o).headD 0)
      | .mSt _ _ _ _ _ => mstStep s c o ((rowsLeft o).headD 0)
      | _ => mmaStep s c o

def execMatrixKStep (core : Nat) (s : State) : Host.Outcome State Fault Refusal := .next (matrixKStep s core)

/-! ## The end of a tile operation (R290, R291) -/

/-- σ of `m.perm` (R290). -/
def permOf (p : Word) (j : Nat) : Nat :=
  let amt := bits p.toNat 0 6
  match bits p.toNat 8 2 with
  | 0 => (j + amt) % 64
  | 1 => j ^^^ amt
  | _ => 63 - j

/-- The sum of a row in eight chunks (R290). -/
def rsumRow (mode : Nat) (row : List Nat) : Nat × Nat :=
  (List.range 8).foldl (fun s ch =>
    let r := chunkSum mode s.1 (((row.drop (8 * ch)).take 8).map (unpack fp32))
    (r.1, s.2 ||| r.2)) (0, 0)

/-- One row of a constant-matrix operation, from the workgroup before it. -/
def constRow (w : Workgroup) (o : TileOp) (i : Nat) : List (Nat × Nat) :=
  let a := srcTile o.op
  match o.op with
  | .mZero _ => lanes.map (fun _ => (0, 0))
  | .mXpose _ _ => lanes.map (fun j => (accAt w a j i, 0))
  | .mPerm _ _ _ => lanes.map (fun j => (accAt w a i (permOf o.ival j), 0))
  | .mRsum _ _ => let r := rsumRow (fmtRnd o.fmt) (accRow w a i); lanes.map (fun _ => r)
  | .mScale _ _ _ =>
    let v := (o.vals.getD i 0).toNat
    (accRow w a i).map (fun x => fMul fp32 (fmtRnd o.fmt) x v)
  | _ => []

def isConst : Instr → Bool
  | .mZero _ | .mXpose _ _ | .mPerm _ _ _ | .mRsum _ _ | .mScale _ _ _ => true
  | _ => false

/-- A constant-matrix operation performed whole: the workgroup after it, and its flags. -/
def constOp (w : Workgroup) (o : TileOp) : Workgroup × Nat :=
  let rs := (lanesOf o.rows).map (fun i => (i, constRow w o i))
  (putAccRows w (dstTile o) (rs.map (fun r => (r.1, r.2.map (fun x => x.1)))), flagsOf (rs.map (fun r => ((), flagsOf r.2))))

/-- The head leaves the queue: its locks are freed and it completes for TC (R116, R220). -/
def tileEnd (s : State) (c : Nat) (o : TileOp) : State :=
  let tag := (s.core c).tag
  let s := freeLocks (s.updWg tag c (fun w => { w with tileq := w.tileq.tail })) tag [o.id]
  let s := s.updGroup { tag := tag, core := c, grp := o.grp } (fun g => { g with tc := g.tc - 1 })
  retireWg (retireEngines s tag c) tag c

/-- An operation that stopped at a fault and will not resume leaves its RPR in the partial-work table (R291, R338). -/
def tileAbandon (s : State) (c : Nat) (o : TileOp) (f : Nat × Word) : State :=
  let tag := (s.core c).tag
  let gid : GId := { tag := tag, core := c, grp := o.grp }
  let s := noteFault (raiseFor s gid o.flags.toNat) gid o.id
  let e : PwEntry := { kind := 4, grp := o.grp, core := c, word := o.word, done := rprOf o, where_ := f.2 }
  tileEnd (s.updLaunch tag (fun l => { l with pwt := l.pwt ++ [e] })) c o

/-- TILE_OPERATION_COMPLETE: the head completes once its steps are done; a discarded one completes without effect, and
one stopped for a group that issues nothing more is abandoned. -/
def tileComplete (s : State) (c : Nat) : State :=
  match headTile s c with
  | none => s
  | some o =>
    let tag := (s.core c).tag
    let gid : GId := { tag := tag, core := c, grp := o.grp }
    if bindDiscards o.bind then tileEnd s c o
    else if !bindRuns o.bind then s
    else
      match o.fault with
      | some f => if groupDone (s.group gid) then tileAbandon s c o f else s
      | none =>
        if stepsLeft o then s
        else if isConst o.op then
          let s := chargeBudget s tag 1 (stepCycles o)
          let r := constOp (coreWg s c) o
          let s := s.updWg tag c (fun _ => r.1)
          tileEnd (raiseFor s gid r.2) c o
        else tileEnd (raiseFor s gid o.flags.toNat) c o

def execTileOperationComplete (core : Nat) (s : State) : Host.Outcome State Fault Refusal := .next (tileComplete s core)

/-! ## The Skidder (R295 to R299) -/

/-- The source and destination of the element with linear number n, x0 fastest (R296). -/
def elemAt (src dst : Word) : Nat → List Nat → List Word → List Word → Word × Word
  | n, e :: es, a :: as, b :: bs =>
    let x := BitVec.ofNat 64 (n % e)
    elemAt (src + x * a) (dst + x * b) (n / e) es as bs
  | _, _, _, _ => (src, dst)

def elemCount (o : CopyOp) : Nat := o.ext.foldl (fun a e => a * e) 1

/-- One element moved: read, bounds at the receiver of a `c.send`, written. The error names code and address. -/
def copyElem (s : State) (l : Launch) (c : Nat) (o : CopyOp) (n : Nat) : State × Except (Nat × Nat) Unit :=
  let p := elemAt o.src o.dst n o.ext o.srcs o.dsts
  let k := 2 ^ o.elog
  match engRead s (bySkidder l c o) o.lsrc p.1 k with
  | (s, .error x) => (s, .error x)
  | (s, .ok b) =>
    if o.ldst && !spOk l p.2 k then (s, .error (0x0F, p.2.toNat))
    else engWrite s (bySkidder l c o) o.target o.ldst p.2 b

/-- `n` elements from number `i` on: the bytes done, and the fault that stops the copy. -/
def copyGo (l : Launch) (c : Nat) (o : CopyOp) : Nat → Nat → State → State × Nat × Option (Nat × Nat)
  | 0, i, s => (s, i * 2 ^ o.elog, none)
  | n + 1, i, s =>
    match copyElem s l c o i with
    | (s, .error e) => (s, i * 2 ^ o.elog, some e)
    | (s, .ok _) => copyGo l c o n (i + 1) s

/-- A fill in ascending order. -/
def fillGo (s : State) (l : Launch) (c : Nat) (o : CopyOp) (v : Byte) : State × Nat × Option (Nat × Nat) :=
  let n := o.ext.headD 0
  match engWrite s (bySkidder l c o) c o.ldst o.dst (List.replicate n v) with
  | (s, .error e) => (s, (BitVec.ofNat 64 e.2 - o.dst).toNat, some e)
  | (s, .ok _) => (s, n, none)

/-- The completion word or signal of a command whose payload is done (R219, R296, R299). -/
def copySignal (s : State) (l : Launch) (c : Nat) (o : CopyOp) : State × Except (Nat × Nat) Unit :=
  let dec := virtRmw (viaSkidder l c) (noteSignal (bySkidder l c o) s o.caddr) o.caddr.toNat (fun x => x - 1)
  match o.op with
  | .cSig _ => dec
  | _ =>
    if o.ckind == 1 then
      if !spOk l o.caddr 8 then (s, .error (0x0F, o.caddr.toNat))
      else engWrite s (bySkidder l c o) o.target true o.caddr (toBytes 8 o.cval.toNat)
    else if o.ckind == 2 then dec
    else (s, .ok ())

/-- The payload of a command. -/
def copyPayload (s : State) (l : Launch) (c : Nat) (o : CopyOp) : State × Nat × Option (Nat × Nat) :=
  match o.op, o.fill with
  | .cSig _, _ => (s, 0, none)
  | _, some v => fillGo s l c o v
  | _, none => copyGo l c o (elemCount o) 0 s

/-- The head leaves the queue and completes for CC. -/
def copyEnd (s : State) (c : Nat) (o : CopyOp) : State :=
  let tag := (s.core c).tag
  let s := freeLocks (s.updWg tag c (fun w => { w with copyq := w.copyq.tail })) tag [o.id]
  let s := s.updGroup { tag := tag, core := c, grp := o.grp } (fun g => { g with cc := g.cc - 1 })
  retireEngines s tag c

/-- A command that a fault stopped: its signal takes the negated code, the partial-work table its bytes, and the fault goes
to the group (R219, R295, R338). -/
def copyFault (s : State) (l : Launch) (c : Nat) (o : CopyOp) (done : Nat) (e : Nat × Nat) (signal : Bool) : State :=
  let tag := (s.core c).tag
  let s := if signal then copyFailSignal s l c o e.1 else s
  let addr := BitVec.ofNat 64 e.2
  let w : PwEntry := { kind := 3, grp := o.grp, core := c, word := o.word, done := BitVec.ofNat 64 done, where_ := addr }
  let s := copyEnd (s.updLaunch tag (fun l => { l with pwt := l.pwt ++ [w] })) c o
  let gid : GId := { tag := tag, core := c, grp := o.grp }
  retireWg (holdEvent (noteFault s gid o.id) gid { code := e.1, arg := 0, addr := addr }) tag c

/-- The head of a core's copy queue. -/
def headCopy (s : State) (c : Nat) : Option CopyOp := if wgOnCore s c then (coreWg s c).copyq.head? else none

/-- A `c.send` to another core whose write lock does not stand in the receiver's table yet (R298). -/
def lacksLock (s : State) (c : Nat) (o : CopyOp) : Bool :=
  o.target != c && (dstSpan o).isSome && (s.wg (s.core c).tag o.target).locks.all (fun k => k.id != o.id)

/-- The receiver registers the write lock before the first payload byte is written; it waits while its table is full (R298). -/
def receiverLock (s : State) (c : Nat) (o : CopyOp) : State :=
  s.updWg (s.core c).tag o.target (fun w =>
    if 32 ≤ w.locks.length then w else { w with locks := w.locks ++ locksOf o.id (spanLock true true (dstSpan o)) })

/-- SKIDDER_COMPLETION: the command at the head of the core's copy queue is performed and completes; for a `c.send` to another core the
receiver's lock is registered in an event of its own before. The payload is charged to the Skidder budget (R294, R328). DEDUCED
(notes/assumptions/16.md). -/
def skidderCompletion (s : State) (c : Nat) : State :=
  match headCopy s c with
  | none => s
  | some o =>
    let tag := (s.core c).tag
    if bindDiscards o.bind then retireWg (copyEnd s c o) tag c
    else if !bindRuns o.bind then s
    else if lacksLock s c o then receiverLock s c o
    else
      let l := coreLaunch s c
      match copyPayload s l c o with
      | (s, n, some e) => copyFault (chargeBudget s tag 2 n) l c o n e true
      | (s, n, none) =>
        let s := chargeBudget s tag 2 n
        match copySignal s l c o with
        | (s, .error e) => copyFault s l c o n e false
        | (s, .ok _) => retireWg (copyEnd s c o) tag c

def execSkidderCompletion (core : Nat) (s : State) : Host.Outcome State Fault Refusal := .next (skidderCompletion s core)

end Sys2Proof.Machine
end

