-- ==== Sys2Proof/Machine/Highlead.lean ====
section
/-!
DEFINITION. Highlead (R385): requests that arrive and their responses, responses to the device's own requests, the stop flit, and
replay in both directions.
-/

namespace Sys2Proof.Machine

/-- A request arrives in order: what a bad CRC discarded has been replayed. -/
def portArrive (s : State) (die : Nat) : State :=
  let p := sget .zero s.ports die
  { s with ports := sput .zero s.ports die { p with discarding := false, replayAsked := false } }

/-- A request that R385 lets be performed: reserved bits and STATUS 0, within one 256-byte block, naturally aligned where it is of
1, 2, 4 or 8 bytes. -/
def reqOk (r : HlReq) : Bool :=
  let n := r.len.toNat + 1
  let a := r.addr.toNat
  r.resv == 0 && r.status == 0 && decide (n ≤ 256) && a / 256 == (a + n - 1) / 256
  && (!(n == 1 || n == 2 || n == 4 || n == 8) || a % n == 0)

/-- The response of a request: OPC 0x03 for a read, 0x04 otherwise, with the data of a read that was done; its sender is the package
(R375). DEDUCED (notes/assumptions/31.md). -/
def respond (s : State) (r : HlReq) (status : Nat) (d : List Byte) : State :=
  let opc := if r.opc == 0x01 then 3 else 4
  sendFlits s r.die (headerFlit opc (idPeer s.part.package) r.tag.toNat (d.length - 1) status :: dataFlits d)

/-- A master of Highlead: a host node or a fabric peer, which carries no context. -/
def hlMaster (r : HlReq) : Master := { ident := r.srcid.toNat, ctx := none }

/-- HIGHLEAD_READ: a request of OPC 0x01. A read that meets poison is answered as denied (notes/assumptions/20.md). -/
def highleadRead (s : State) (r : HlReq) : State :=
  if r.opc != 0x01 || decide (diesOf s.part ≤ r.die) then s
  else
    let s := portArrive s r.die
    if !reqOk r then respond s r 0x03 []
    else
      match physRead s (hlMaster r) 0 r.addr.toNat (r.len.toNat + 1) with
      | (s, .ok b) => respond s r 0 b
      | (s, .error _) => respond s r 0x0C []

def execHighleadRead (r : HlReq) (s : State) : Host.Outcome State Fault Refusal := .next (highleadRead s r)

/-- An OPC that is no request of this form: a read, a response, a stop flit or a Boom message. -/
def hlOther (opc : Byte) : Bool := opc == 0x01 || opc == 0x03 || opc == 0x04 || opc == 0x05 || opc == 0x10

/-- A write that touches NOTIFY, ABORT or QUERY in another way than by the one 64-byte write that each takes (R310, R385). -/
def notifyMisused (p : Part) (a n : Nat) : Bool :=
  match regAt p a with
  | .notify _ o => decide (o < 0xC0) && !(o % 64 == 0 && n == 64)
  | _ => false

/-- HIGHLEAD_WRITE: a request of OPC 0x02, or of a reserved OPC, which is answered as malformed. A write that NOTIFY, ABORT or QUERY does
not take is counted (R310) and answered so too. -/
def highleadWrite (s : State) (r : HlReq) : State :=
  if hlOther r.opc || decide (diesOf s.part ≤ r.die) then s
  else
    let s := portArrive s r.die
    if r.opc != 0x02 || !reqOk r || r.data.length != r.len.toNat + 1 then respond s r 0x03 []
    else if notifyMisused s.part r.addr.toNat r.data.length then respond (devWrite s (hlMaster r) r.addr.toNat r.data).1 r 0x03 []
    else
      match devWrite s (hlMaster r) r.addr.toNat r.data with
      | (s, .ok _) => respond s r 0 []
      | (s, .error _) => respond s r 0x0C []

def execHighleadWrite (r : HlReq) (s : State) : Host.Outcome State Fault Refusal := .next (highleadWrite s r)

/-- A response to an outstanding request of the device; one with no such tag, or at a die that the part lacks, has no effect. -/
def hlResponse (t : State) (die : Nat) (tag : Nat) (d : List Byte) : State :=
  let s := portArrive t die
  let p := sget .zero s.ports die
  if diesOf t.part ≤ die then t
  else if p.outstanding.any (fun x => x.1 == tag) then
    let p' : Port := { p with outstanding := p.outstanding.filter (fun x => x.1 != tag), answers := p.answers ++ [(tag, d)] }
    { s with ports := sput .zero s.ports die p' }
  else s

def execHighleadReadResponse (die : Nat) (tag : BitVec 16) (status : Byte) (data : List Byte) (s : State) :
    Host.Outcome State Fault Refusal := .next (hlResponse s die tag.toNat (status :: data))
def execHighleadWriteResponse (die : Nat) (tag : BitVec 16) (status : Byte) (s : State) :
    Host.Outcome State Fault Refusal := .next (hlResponse s die tag.toNat [status])

/-- A port of a die of the part changes (R4). -/
def updPort (s : State) (die : Nat) (f : Port → Port) : State :=
  if diesOf s.part ≤ die then s else { s with ports := sput .zero s.ports die (f (sget .zero s.ports die)) }

/-- HIGHLEAD_STOP: the far side has stopped. -/
def execHighleadStop (die : Nat) (s : State) : Host.Outcome State Fault Refusal :=
  .next (updPort s die (fun p => { p with stopped := true }))

/-- HIGHLEAD_REPLAY: a flit with a bad CRC is discarded with all that follow it, and replay from it is asked for. -/
def execHighleadReplay (die : Nat) (s : State) : Host.Outcome State Fault Refusal :=
  .next (updPort s die (fun p => { p with discarding := true, replayAsked := true }))

/-- SENDER_REPLAY: the kept flits from the n-th on go onto the link again. -/
def execSenderReplay (die n : Nat) (s : State) : Host.Outcome State Fault Refusal :=
  .next (updPort s die (fun p => { p with wire := p.wire ++ p.sent.drop n }))

end Sys2Proof.Machine
end

