-- ==== Sys2Proof/Machine/MemEvents.lean ====
section
/-!
DEFINITION. The memory side's events (R116, R194, R203, R208 to R218, R222, R230 to R240, R245, R336, R338, R340): a global
access at its home slice, fetches and evictions, completions of loads and stores, fills and discards, and the ends of `waitw` and
of elided regions; with the delivery of held events (R335).
-/

namespace Sys2Proof.Machine

/-! ## What may be performed next -/

/-- The operation is one that a tile log may take (R209). -/
def mayLog (o : QOp) : Bool :=
  match o.kind with
  | .logStore | .fadd | .faddc => true
  | .rmw op false => o.counted && decide (op < 6)
  | _ => false

/-- An earlier access of the same operation must be performed first: one to the same bytes (R228); for an operation that may be logged,
one that has still to reach the same tile, since entries are appended in ascending thread order (R209). -/
def earlierOverlap (o : QOp) (j : Nat) (a : Acc) : Bool :=
  (o.accs.take j).any (fun b => (!settledAcc b && overlaps a.pa a.size b.pa b.size)
    || (mayLog o && b.st == .pending && b.pa / 4096 == a.pa / 4096))

/-- A load or a returning atomic, whose access is `a`, must follow the earlier store `x` of its group: an atomic every one; a load one that
an earlier load has read (R277); a scratchpad load every scratchpad store (R231); another load one to its bytes whose value is known only once it is
performed, a reduction or a store to a device window (R205, R230). -/
def mustFollow (o : QOp) (a : Acc) (x : QOp) : Bool :=
  (match o.kind with | .rmw _ _ => true | _ => false) || wasRead o.id x
  || (if o.loc then x.loc else !x.loc && meets a x && (isRmwStore x.kind || isWindow a.pa))

/-- What the word's scalar slot waits for comes before the access (R272); a group that issues nothing more waits for nothing. -/
def leadOver (s : State) (gid : GId) (o : QOp) : Bool :=
  groupDone (s.group gid) || (match o.after with
    | some w => waitDone s gid w
    | none => true)

/-- The group's operations that precede `o` have been performed far enough for an access of `o` (notes/assumptions/6.md): a load
or a returning atomic follows earlier loads and the earlier stores that it must; a store follows earlier stores in queue order
and earlier loads. Loads of a region's members pass over what waits for its commit (notes/assumptions/15.md). -/
def inOrder (g : Group) (o : QOp) (a : Acc) : Bool :=
  let mem := inOpenRegion g o
  let loads := loadsDone g o.id mem
  if fenceHolds g o.id mem then false
  else if isLc o.kind then
    loads && g.storeq.all (fun x => decide (o.id ≤ x.id) || settled x || (mem && passedOver g x) || !mustFollow o a x)
  else
    !o.held && loads && (g.storeq.takeWhile (fun x => x.id != o.id)).all settled

/-! ## Memory levels (R358) -/

/-- The sampler's level of a fetch, and of an access of a resident tile (R358). DEDUCED (notes/assumptions/27.md). -/
def fetchLevel (gid : GId) (h pa : Nat) : Nat := if 0x100000000000 ≤ pa then 7 else if h / 6 == dieOf gid.core then 5 else 6
def residentLevel (gid : GId) (h : Nat) : Nat := if h / 6 == dieOf gid.core then 3 else 6

/-! ## Log entries (R209, R211) -/

/-- The log's operation code of a reduction (R211). -/
def redOpCode (op : Nat) (t : Ty) : Option Nat :=
  match op with
  | 0 => some 0x08
  | 1 => some (if t.signed then 0x09 else 0x0A)
  | 2 => some (if t.signed then 0x0B else 0x0C)
  | 3 => some 0x0D
  | 4 => some 0x0E
  | 5 => some 0x0F
  | _ => none

def entryOf (tag pa size op : Nat) (v : Nat) : LogEntry :=
  { opnd := BitVec.ofNat 64 v, tag := tag, seq := 0, size := Nat.log2 size, op := op, word := pa % 4096 / 4, order := 0 }

/-- The entries that a loggable access appends; none for an operation that is not logged. The held write half of an atomic is no
such operation. -/
def entriesOf (tag : Nat) (o : QOp) (a : Acc) : Option (List LogEntry) :=
  let d := bits a.data.toNat 0 (8 * a.size)
  match o.kind with
  | .logStore =>
    if a.size == 16 then some [entryOf tag a.pa 8 4 a.data.toNat, entryOf tag (a.pa + 8) 8 4 a.data2.toNat]
    else some [entryOf tag a.pa a.size (4 + (if a.size < 4 then a.pa % 4 else 0)) d]
  | .rmw op false => if o.counted then (redOpCode op o.ty).map (fun c => [entryOf tag a.pa a.size c d]) else none
  | .fadd => some [entryOf tag a.pa 4 0x10 (bits d 0 32)]
  | .faddc => some [entryOf tag a.pa 8 0x11 (bits d 0 32 * 2 ^ 32)]
  | _ => none

/-- Chunks in use in a slice's log store (R214). -/
def sliceChunks (s : State) (h : Nat) : Nat :=
  s.tiles.foldl (fun n p => if homeOf s p.1 == h then n + chunks p.2.log else n) 0

/-- The age of a log: that of its first entry (R214). -/
def logAge (t : Tile) : Option Nat := t.log.head?.map LogEntry.order

/-- The tile of a slice whose log's first entry is oldest. -/
def oldestLog (s : State) (h : Nat) : Option Nat :=
  let ts := s.tiles.filter (fun p => homeOf s p.1 == h && !p.2.log.isEmpty)
  match (ts.filterMap (fun p => logAge p.2)).min? with
  | some m => (ts.find? (fun p => logAge p.2 == some m)).map (fun p => p.1)
  | none => none

/-! ## An access at its home slice -/

def coreMaster (s : State) (gid : GId) : Master := { ident := idCore gid.core, ctx := some (s.launch gid.tag).ctx }

/-- What the access table of the target grants (R207, R203). -/
def accPermitted (s : State) (gid : GId) (o : QOp) (pa : Nat) : Bool :=
  let m := coreMaster s gid
  match o.kind with
  | .load | .gld | .rdc | .tlogLen => permitted s m pa .r
  | .rmw _ true => permitted s m pa .r && permitted s m pa .w
  | _ => permitted s m pa (writePerm s.part pa)

def updAcc (s : State) (gid : GId) (id j : Nat) (f : Acc → Acc) : State :=
  s.updGroup gid (fun g => updOp g id (fun o => setAcc o j f))
def noteOp (s : State) (gid : GId) (id n : Nat) : State := s.updGroup gid (fun g => updOp g id (fun o => raiseLevel o n))

/-- The access waits behind the fetch of its tile (R215). -/
def queueBehind (s : State) (gid : GId) (id j h : Nat) (a : Acc) : State :=
  let s := s.updTile (a.pa / 4096) (fun t => { t with fetching := true, queue := t.queue ++ [{ gid := gid, id := id, acc := j, began := !t.fetching }] })
  noteOp (updAcc s gid id j (fun a => { a with st := .queued })) gid id (fetchLevel gid h a.pa)

/-- Entries appended: the access is performed (R209, R216). A reduction that is appended is not placed, and moves no contention counter (R217).
DESIGN CHOICE (notes/assumptions/27.md). -/
def putEntries (s : State) (gid : GId) (id j h : Nat) (a : Acc) (log : List LogEntry) (seq : Nat) : State :=
  let k := a.pa / 4096
  let s := { s.updTile k (fun t => { t with log := log, seq := seq }) with nextOrder := s.nextOrder + 1 }
  let s := conflict s (some gid) a.pa a.size
  let s := updAcc s gid id j (fun a => { a with st := .done })
  let lv := if h / 6 == dieOf gid.core then 4 else 6
  s.updGroup gid (fun g => updOp g id (fun o => { raiseLevel o lv with appended := some (seq, 4096 * k) }))

/-- A loggable access of a non-resident tile that no fetch has begun for: appended; a fetch is begun when it would overflow; the
oldest log of the slice is applied first when the log store has no free chunk (R214). DEDUCED (notes/assumptions/27.md). Where that fetch of another
tile meets an uncorrectable error, the append is made and traps nothing: R216 does not say whether it counts as the access that began the fetch.
DESIGN CHOICE (notes/assumptions/27.md). -/
def appendAccess (s : State) (gid : GId) (id j h : Nat) (a : Acc) (es : List LogEntry) : State :=
  let k := a.pa / 4096
  let t := s.tile k
  match appendAll t.log t.seq (es.map (fun e => { e with order := s.nextOrder })) with
  | none => queueBehind s gid id j h a
  | some (log, seq) =>
    if sliceChunks s h + chunks log ≤ 8192 + chunks t.log then putEntries s gid id j h a log seq
    else
      let s := match oldestLog s h with
        | some x => fetchNow s (some gid) x gid.tag
        | none => s
      if (s.tile k).resident then performAt s gid id j h (residentLevel gid h) true
      else if (s.tile k).poisoned then failAcc s gid id j 0x28
      else putEntries s gid id j h a log seq

/-- An access of a slice's memory, permitted and not poisoned. For `tlog.len` too a tile counts as resident, and its log as applied, from
the moment its fetch begins (R215, R238). -/
def sliceAccess (s : State) (gid : GId) (id j h : Nat) (o : QOp) (a : Acc) : State :=
  let t := s.tile (a.pa / 4096)
  let s := if o.kind == .tlogLen then updAcc s gid id j (fun a => { a with data := BitVec.ofNat 64 (if t.fetching then 0 else t.log.length) }) else s
  if t.resident then performAt s gid id j h (residentLevel gid h) true
  else
    match t.fetching, entriesOf gid.tag o a with
    | false, some es => appendAccess s gid id j h a es
    | _, _ => queueBehind s gid id j h a

/-- An access of the device windows (R205). A read sees over the register the stores of its group that it has passed: for a region's member those
that wait for its commit (R242). -/
def windowAccess (s : State) (gid : GId) (id j : Nat) (o : QOp) (a : Acc) : State :=
  let old := if isLc o.kind || isRmwStore o.kind then ofBytes (winRead s a.pa a.size) else 0
  let g := s.group gid
  let seen := match o.kind with
    | .load | .gld => lowerThreads g o j a (groupValue g o.id false a old)
    | .rdc => rdcOf (groupValue g o.id false a old)
    | .tlogLen => 0
    | _ => old
  let s := if isWrite o.kind && !casFails o a old then
      conflict (winWrite s a.pa (toBytes a.size (newValue o a old))) (some gid) a.pa a.size
    else s
  let s := s.updGroup gid (fun g => if isLc o.kind then markRead g o.id false a else g)
  let s := updAcc s gid id j (fun a => { a with st := .done, data := BitVec.ofNat 64 seen })
  if isWrite o.kind then s else readSetLine s gid o a.pa

/-- An access at its target (R205, R207, R216). -/
def targetAccess (s : State) (gid : GId) (id j : Nat) (o : QOp) (a : Acc) : State :=
  if !accPermitted s gid o a.pa then failAcc (if isWrite o.kind then denied s a.pa else s) gid id j 0x0C
  else
    match locate s.part a.pa with
    | .slice h _ => if (s.tile (a.pa / 4096)).poisoned then failAcc s gid id j 0x28 else sliceAccess s gid id j h o a
    | .empty => failAcc s gid id j 0x0C
    | _ => windowAccess s gid id j o a

/-- HOME_SLICE_ACCESS: access `j` of operation `id` reaches its target, when the group's order lets it. -/
def homeSliceAccess (s : State) (gid : GId) (id j : Nat) : State :=
  let g := s.group gid
  match findOp g id with
  | none => s
  | some o =>
    match o.accs[j]? with
    | none => s
    | some a => if o.loc || a.st != .pending || earlierOverlap o j a || !inOrder g o a || !leadOver s gid o then s else targetAccess s gid id j o a

def execHomeSliceAccess (g : GId) (op acc : Nat) (s : State) : Host.Outcome State Fault Refusal := .next (homeSliceAccess s g op acc)

/-! ## Fetches and evictions (R208, R212, R215, R216, R340) -/

/-- A notice of kind 4 for each 13 tags (R340). -/
def lostNotices (die ctx pa lo hi : Nat) : Nat → List Nat → State → State
  | 0, _, s => s
  | n + 1, tags, s =>
    if tags.isEmpty then s
    else
      let now := tags.take 13
      let rest := pa + lo * 2 ^ 64 + hi * 2 ^ 80 + now.length * 2 ^ 96 + ofBytes (now.flatMap (fun t => toBytes 2 t)) * 2 ^ 112
      lostNotices die ctx pa lo hi n (tags.drop 13) (notice s die ctx { kind := 4, tag := 0, status := 0x29, base := 0, rest := rest })

/-- The context of a tag: that of its launch, or of the launch that last carried it. -/
def ctxOfTag (s : State) (tag : Nat) : Nat :=
  let l := s.launch tag
  if l.tag != 0 then l.ctx else sget 0 s.tagCtx tag

/-- A running launch gets the event 0x29; without a handler it runs on. A SAVED launch counts as running, one that is being placed or restored
does not. DESIGN CHOICE (notes/assumptions/13.md). -/
def lostEvent (s : State) (tag : Nat) : State :=
  let l := s.launch tag
  if l.tag != 0 && (l.state == .running || l.state == .saved) && l.handler.isSome then
    (launchGroups l).foldl (fun s g => holdEvent s g { code := 0x29, arg := 0, addr := 0 }) s
  else s

/-- A LOG_LOST record goes to the launches and the contexts of its tags (R216, R340). -/
def deliverLost (s : State) (r : LostRec) : State :=
  let s := r.tags.foldl lostEvent s
  ((r.tags.map (ctxOfTag s)).eraseDups).foldl (fun s c => lostNotices (homeOf s r.tile / 6) c (4096 * r.tile) r.lo r.hi 3 r.tags s) s

/-- The records of lost logs of tile k are delivered. -/
def deliverLostOf (s : State) (k : Nat) : State :=
  let rs := s.lost.filter (fun r => r.tile == k)
  rs.foldl deliverLost { s with lost := s.lost.filter (fun r => r.tile != k) }

/-- TILE_FETCH: a fetch ends; `bad` says that it met an uncorrectable error. The records of the tile's lost logs are delivered, also those
that an access without a fetch of its own has left. -/
def tileFetch (s : State) (k : Nat) (bad : Bool) : State :=
  let s := if !(s.tile k).fetching then s else if bad then loseLog s k else fetchNow s none k 0
  deliverLostOf s k

def execTileFetch (tile : Nat) (bad : Bool) (s : State) : Host.Outcome State Fault Refusal := .next (tileFetch s tile bad)

/-- TILE_EVICTION: a resident tile is written back. -/
def tileEviction (s : State) (k : Nat) : State := if !(s.tile k).resident then s else evictTile s k

def execTileEviction (tile : Nat) (s : State) : Host.Outcome State Fault Refusal := .next (tileEviction s tile)

/-- LINE_BUFFER_WRITE_BACK: a core's line buffer gives up a line (R218). -/
def execLineBufferWriteBack (core line : Nat) (s : State) : Host.Outcome State Fault Refusal :=
  .next (s.updCore core (fun c => { c with lineBuf := c.lineBuf.filter (fun x => x.1 != line) }))

/-- TRANSLATION_WALK: a walk of a die for a context ends; a translation is kept (R203, R204). -/
def translationWalk (s : State) (die ctx : Nat) (va : Word) : State :=
  if !canonical va || diesOf s.part ≤ die || (lookupTlb s die ctx va.toNat).isSome then s
  else
    match walk s { die := die, ctx := ctx, tag := 0, va := va.toNat } with
    | (s, .ok t) => keepTlb s t
    | (s, .error _) => s

def execTranslationWalk (die ctx : Nat) (va : Word) (s : State) : Host.Outcome State Fault Refusal :=
  .next (translationWalk s die ctx va)

/-! ## Instruction cache (R194, R222) -/

/-- CHUTE_FILL: a fill that `ipf` requested arrives; one that faults is dropped. -/
def chuteFill (s : State) (core line : Nat) : State :=
  match (s.core core).fills.find? (fun f => f.2 == line) with
  | none => s
  | some f =>
    let s := s.updCore core (fun c => { c with fills := c.fills.erase f })
    let l := coreLaunch s core
    (fillLine s core f.1 (if l.ctx == f.1 then l.tag else 0) line).1

def execChuteFill (core : Nat) (line : Nat) (s : State) : Host.Outcome State Fault Refusal := .next (chuteFill s core line)

/-- A line holds a byte of [a, a + n). -/
def lineInRange (a n : Word) (line : Nat) : Bool := overlaps (line * 128) 128 a.toNat n.toNat

/-- IFENCE_DISCARD: once the stores before it have retired, the lines of the range leave the core's cache, fills of them that were
requested before are dropped, and the path goes on. -/
def ifenceDiscard (s : State) (gid : GId) (k : Nat) : State :=
  let g := s.group gid
  match (pathOf g k).waits.find? (fun w => match w with | .ifence _ _ _ => true | _ => false) with
  | some (.ifence a len n) =>
    if !storesBelow g n || g.status != .active then s
    else
      let all := decide (65536 < len.toNat)
      let s := s.updCore gid.core (fun c =>
        { c with icache := c.icache.filter (fun x => !(all || lineInRange a len x.line))
                 fills := c.fills.filter (fun f => !(all || lineInRange a len f.2)) })
      dropWait s gid k (.ifence a len n)
  | _ => s

def execIfenceDiscard (g : GId) (path : Nat) (s : State) : Host.Outcome State Fault Refusal := .next (ifenceDiscard s g path)

/-! ## Completion of loads and stores (R116, R148, R227, R336, R338) -/

/-- The value read as a lane holds it, and as a scalar register does. -/
def loadLane (o : QOp) (v : Word) : Lane :=
  match o.kind with
  | .rdc => v.setWidth 32
  | _ => match o.ty with
    | .f32 => v.setWidth 32
    | .f16 | .bf16 => BitVec.ofNat 32 (bits v.toNat 0 16)
    | t => laneOf t v.toNat

def loadWord (o : QOp) (v : Word) : Word :=
  match o.kind with
  | .rdc | .tlogLen => v
  | _ => if o.ty.signed then BitVec.ofInt 64 (signedBits o.ty.width (bits v.toNat 0 o.ty.width)) else BitVec.ofNat 64 (bits v.toNat 0 o.ty.width)

/-- The code of a failed access. -/
def accCode (a : Acc) : Option Nat :=
  match a.st with
  | .failed c => some c
  | _ => none

/-- The destinations of a load-class operation: those of the accesses that were performed (R336). -/
def deliverLoad (s : State) (gid : GId) (o : QOp) : State :=
  let good := o.accs.filter (fun a => a.st == .done)
  match o.dest with
  | .none => s
  | .vreg d => s.updGroup gid (fun g => good.foldl (fun g a => writeV g d a.thread (loadLane o a.data)) g)
  | .sreg d => s.updGroup gid (fun g => good.foldl (fun g a => writeS g d (loadWord o a.data)) g)
  | .guard k code v => good.foldl (fun s a => resolveGuard s gid k (compare code a.data v)) s

/-- An access failed at its target: a class A fault of the group, the lowest code at the lowest thread that raised it; none where it has
aborted a region instead (R243). -/
def reportAccess (s : State) (gid : GId) (o : QOp) : State :=
  if o.quiet then s
  else match (o.accs.filterMap accCode).min? with
  | none => s
  | some c =>
    let addr := match o.accs.find? (fun a => accCode a == some c) with
      | some a => a.va
      | none => 0
    holdEvent s gid { code := c, arg := 0, addr := addr }

/-- The partial-work entry of an operation that a fault stopped, or that was outstanding when its launch ended (R338). -/
def opEntry (gid : GId) (o : QOp) : PwEntry :=
  let done := (o.accs.filter (fun a => a.st == .done)).length
  let bad := match o.accs.find? (fun a => (accCode a).isSome) with
    | some a => a.va
    | none => 0
  match o.appended with
  | some (seq, tile) => { kind := 5, grp := gid.grp, core := gid.core, word := o.word, done := BitVec.ofNat 64 seq, where_ := BitVec.ofNat 64 tile }
  | none => { kind := if isLc o.kind then 1 else 2, grp := gid.grp, core := gid.core, word := o.word, done := BitVec.ofNat 64 done, where_ := bad }

def noteEntry (s : State) (gid : GId) (o : QOp) : State :=
  let s := if o.accs.any (fun a => (accCode a).isSome) then noteFault s gid o.id else s
  if (s.launch gid.tag).state == .completing || o.accs.any (fun a => (accCode a).isSome) then
    s.updLaunch gid.tag (fun l => { l with pwt := l.pwt ++ [opEntry gid o] })
  else s

/-! ## Scratchpad accesses (R231) -/

def writeScratch (s : State) (tag core a : Nat) (d : List Byte) : State :=
  s.updWg tag core (fun w => { w with scratch := writeBytes w.scratch a d })

/-- A scratchpad load: the value of each access, the group's own held stores laid over it (R242). -/
def scratchLoad (s : State) (gid : GId) (o : QOp) : QOp :=
  let w := s.wg gid.tag gid.core
  { o with accs := o.accs.map (fun a =>
      { a with st := .done, data := BitVec.ofNat 64 (groupValue (s.group gid) o.id true a (readLE w.scratch a.pa a.size)) }) }

/-- A scratchpad store of a group, performed in ascending thread order. -/
def scratchStore (s : State) (gid : GId) (o : QOp) : State :=
  o.accs.foldl (fun s a => writeScratch s gid.tag gid.core a.pa (toBytes a.size a.data.toNat)) s

def doneAccs (o : QOp) : QOp := { o with accs := o.accs.map (fun a => { a with st := .done }) }

/-- A scratchpad operation at the head of its queue is performed when its turn has come, all of its accesses at once. DESIGN CHOICE
(notes/assumptions/6.md). -/
def performScratch (s : State) (gid : GId) (o : QOp) : State :=
  if !o.loc || settled o || !leadOver s gid o || o.accs.any (fun a => !inOrder (s.group gid) o a) then s
  else if isLc o.kind then s.updGroup gid (fun g => updOp g o.id (fun _ => scratchLoad s gid o))
  else (scratchStore s gid o).updGroup gid (fun g => updOp g o.id doneAccs)

/-! ## Completion -/

def performHead (s : State) (gid : GId) : List QOp → State
  | [] => s
  | o :: _ => performScratch s gid o

/-- LOAD_COMPLETION: the oldest load-class operation, all of whose accesses have been performed, writes and retires. -/
def loadCompletion (s : State) (gid : GId) : State :=
  let s := performHead s gid (s.group gid).loadq
  match (s.group gid).loadq with
  | [] => s
  | o :: r =>
    if !settled o then s
    else
      let s := s.updGroup gid (fun g => retireEmpty { g with loadq := r, lc := g.lc - 1 })
      let s := noteEntry (noteLevel (deliverLoad s gid o) gid o.id o.level) gid o
      retireWg (reportAccess s gid o) gid.tag gid.core

def execLoadCompletion (g : GId) (s : State) : Host.Outcome State Fault Refusal := .next (loadCompletion s g)

/-- STORE_COMPLETION: the oldest store-class operation, performed, retires; a retired workgroup may follow. -/
def storeCompletion (s : State) (gid : GId) : State :=
  let s := performHead s gid (s.group gid).storeq
  match (s.group gid).storeq with
  | [] => s
  | o :: r =>
    if !settled o || o.held then s
    else
      let s := s.updGroup gid (fun g => retireEmpty { g with storeq := r, sc := if o.counted then g.sc - 1 else g.sc })
      let s := noteEntry (noteLevel s gid o.id o.level) gid o
      retireWg (reportAccess s gid o) gid.tag gid.core

def execStoreCompletion (g : GId) (s : State) : Host.Outcome State Fault Refusal := .next (storeCompletion s g)

/-! ## waitw (R240) -/

/-- The watched word as the group sees it, whose queued stores it may read (R230): the value, or a fault. -/
def watched (s : State) (gid : GId) (a : Word) (w : Nat) (l : Bool) (n : Nat) : State × Res Nat :=
  let acc := fun (pa : Nat) => ({ thread := 0, va := a, pa := pa, size := w, data := 0, data2 := 0, st := .pending } : Acc)
  let see := fun (s : State) (pa v : Nat) =>
    (s.updGroup gid (fun g => markRead g s.nextId l (acc pa)), Except.ok (groupValue (s.group gid) s.nextId l (acc pa) v))
  if l then see (noteLevel s gid n 1) a.toNat (readLE (s.wg gid.tag gid.core).scratch a.toNat w)
  else
    let m := coreMaster s gid
    match translate s { die := dieOf gid.core, ctx := (s.launch gid.tag).ctx, tag := gid.tag, va := a.toNat } .r with
    | (s, .error c) => (s, .error c)
    | (s, .ok pa) =>
      let q := match locate s.part pa with
        | .slice _ q => q
        | _ => pa
      match physReadAs (some gid) .r (noteLevel s gid n (levelAt s (dieOf gid.core) pa)) m gid.tag q w with
      | (s, .error c) => (s, .error c)
      | (s, .ok b) => see s q (ofBytes b)

/-- The read of a `waitw` follows the group's earlier loads, the reductions it might see, earlier scratchpad stores, those that an earlier load
has read or that wait for a region's commit, and what a fence before it waits for (R275, R277). -/
def watchTurn (g : Group) (n : Nat) : Bool :=
  loadsDone g n false && !fenceHolds g n false
  && g.storeq.all (fun o => decide (n ≤ o.id) || settled o || (!isRmwStore o.kind && !o.loc && !wasRead n o && !behindHeld g o))

/-- The word's scalar slot has ended whatever it waits for, which comes before the read of its vector slot (R272). -/
def leadEnded (s : State) (gid : GId) (p : Path) : Bool :=
  p.waits.all (fun w => match w with
    | .barrier _ _ _ | .xwait _ _ => waitDone s gid w
    | _ => true)

/-- WAITW_WAKE: the word is read again once the group's earlier loads are performed; the path goes on when it differs. A fault of
the read is one of class A, and ends the wait. Words that other paths have issued since come before this read, whose place in the order of
events is its wake. DESIGN CHOICE (notes/assumptions/6.md). -/
def waitwWake (s : State) (gid : GId) (k : Nat) : State :=
  let g := s.group gid
  match (pathOf g k).waits.find? (fun w => match w with | .waitw _ _ _ _ _ => true | _ => false) with
  | some (.waitw a w l v n) =>
    if g.status != .active || !watchTurn g n || !leadEnded s gid (pathOf g k) then s
    else
      match watched s gid a w l n with
      | (s, .error c) => dropWait (holdEvent (noteFault s gid n) gid { code := c, arg := 0, addr := a }) gid k (.waitw a w l v n)
      | (s, .ok x) => if BitVec.ofNat 64 x == v then s else dropWait s gid k (.waitw a w l v n)
  | _ => s

def execWaitwWake (g : GId) (path : Nat) (s : State) : Host.Outcome State Fault Refusal := .next (waitwWake s g path)

/-! ## Commit of an elided region (R245) -/

/-- One access performed at commit: logged, or on the tile, which is made resident; one that waits behind a fetch sees it end. -/
def commitAccess (gid : GId) (id : Nat) (s : State) (j : Nat) : State :=
  match (findOp (s.group gid) id).bind (fun o => (o.accs[j]?).map (fun a => (o, a))) with
  | none => s
  | some (o, a) =>
    if settledAcc a then s
    else
      let s := if a.st == .pending then targetAccess s gid id j o a else s
      match (findOp (s.group gid) id).bind (fun o => o.accs[j]?) with
      | some b => if b.st == .queued then fetchNow s (some gid) (a.pa / 4096) gid.tag else s
      | none => s

/-- One operation of the group performed at commit. -/
def commitOp (gid : GId) (s : State) (o : QOp) : State :=
  let s := if settled o then s
    else if !o.loc then (List.range o.accs.length).foldl (commitAccess gid o.id) s
    else if isLc o.kind then s.updGroup gid (fun g => updOp g o.id (fun _ => scratchLoad s gid o))
    else (scratchStore s gid o).updGroup gid (fun g => updOp g o.id doneAccs)
  s.updGroup gid (fun g => updOp g o.id (fun o => { o with held := false }))

/-- The number after the region's last held store. -/
def heldEnd (g : Group) : Nat := ((g.storeq.filter (fun o => o.held)).map (fun o => o.id + 1)).foldl max 0

/-- What the commit performs, in issue order: the held stores, and with them what other paths have issued before the last of them and not yet
performed, which their queue order and the values they must see bind to the held stores (R241, R245, R279). DEDUCED (notes/assumptions/15.md). A load
beside a barrier's wait or an `x.wait` that has not ended is left for later: it stands in the order of events where that wait ends, as the read of
a `waitw` does. DESIGN CHOICE (notes/assumptions/6.md). -/
def commitOps (s : State) (gid : GId) : List QOp :=
  let g := s.group gid
  let ops := sortBy (fun a b => decide (a.id ≤ b.id)) (g.loadq ++ g.storeq)
  ops.filter (fun o => decide (o.id < heldEnd g) && leadOver s gid o)

/-- The accesses of the held stores, operation by operation. -/
def heldAccs (g : Group) : List (QOp × Acc) :=
  (g.storeq.filter (fun o => o.held && !o.loc)).flatMap (fun o => o.accs.map (fun a => (o, a)))

/-- The tiles that the held stores need resident are fetched before any is performed. -/
def commitFetch (gid : GId) (s : State) : State :=
  (heldAccs (s.group gid)).foldl (fun s x =>
    match locate s.part x.2.pa, (entriesOf gid.tag x.1 x.2).isSome && !(s.tile (x.2.pa / 4096)).fetching with
    | .slice _ _, false => fetchNow s (some gid) (x.2.pa / 4096) gid.tag
    | _, _ => s) s

/-- The code of the first held access that its target would turn away. -/
def commitFault (s : State) (gid : GId) : Option Nat :=
  (heldAccs (s.group gid)).findSome? (fun x =>
    if !accPermitted s gid x.1 x.2.pa then some 0x0C
    else match locate s.part x.2.pa with
      | .slice _ _ => if (s.tile (x.2.pa / 4096)).poisoned then some 0x28 else none
      | .empty => some 0x0C
      | _ => none)

/-- The stores that stand before the first held one have been performed, and so have the members' loads. -/
def commitReady (g : Group) : Bool :=
  (g.storeq.takeWhile (fun o => !o.held)).all settled && g.loadq.all (fun o => !inOpenRegion g o || settled o)

/-- Nothing that stands between held stores waits behind an event of its word's scalar slot. -/
def commitLeads (s : State) (gid : GId) : Bool :=
  let g := s.group gid
  g.storeq.all (fun o => decide (heldEnd g ≤ o.id) || leadOver s gid o)

/-- The commit's operations performed, with the region closed. -/
def commitRun (s : State) (gid : GId) : State := (commitOps s gid).foldl (commitOp gid) s

/-- The tiles at which the fetches that the commit itself begins, by an overflow or for want of a chunk (R214), would make a held store of it fail;
`t` is what performing it would leave. -/
def lostAtCommit (s t : State) (gid : GId) : List Nat :=
  (heldAccs (s.group gid)).filterMap (fun x =>
    if ((findOp (t.group gid) x.1.id).any (fun o => o.accs.any (fun a => a.va == x.2.va && (accCode a).isSome))) then some (x.2.pa / 4096) else none)

/-- ELISION_COMMIT: the sole member waits in `elidend`: its lines are acquired, other regions that read them abort, and its held
stores are performed in queue order, with what its group has otherwise issued, all in one step. A held store that its target would turn away, or
whose log's fetch meets an error, aborts the region instead (R243), as does a line of the read set that the fetches of its tiles lose; ELSTAT.CODE,
which R245 does not name, is 0 after the commit. DESIGN CHOICE (notes/assumptions/15.md). -/
def elisionCommit (s : State) (gid : GId) : State :=
  let g := s.group gid
  match g.region with
  | none => s
  | some r =>
    match r.members with
    | [k] =>
      if !(pathOf g k).waits.contains .elidend || !commitReady g || !commitLeads s gid || g.status != .active then s
      else
        let s := commitFetch gid s
        if !regionOpen (s.group gid) then s
        else match commitFault s gid with
        | some c => abortRegion s gid 7 (BitVec.ofNat 8 c)
        | none =>
          let t := (sortBy (fun a b => decide (a ≤ b)) r.reads).foldl (fun s line => conflict s (some gid) (line * 128) 128) s
          let t := commitRun (t.updGroup gid (fun g => { g with region := none, elcause := 0, elcode := 0 })) gid
          match lostAtCommit s t gid with
          | [] => dropWait t gid k .elidend
          | ks => abortRegion (ks.foldl (fun s x => fetchNow s (some gid) x gid.tag) s) gid 7 0x28
    | _ => s

def execElisionCommit (g : GId) (s : State) : Host.Outcome State Fault Refusal := .next (elisionCommit s g)

/-! ## Delivery of held events (R334, R335) -/

/-- What a path keeps of its waits when an event interrupts them, and the word it would issue next. -/
def interrupted (g : Group) (k : Nat) : Word × List Wait :=
  let p := withdrawn (pathOf g k)
  match standsAt p with
  | some w => ((standGoesTo g p w).2, p.waits)
  | none => (p.pc, p.waits)

/-- EVENT_DELIVERY: the oldest held event reaches the group's lowest-numbered path that has not ended. DEDUCED (notes/assumptions/11.md). -/
def eventDelivery (s : State) (gid : GId) : State :=
  let g := s.group gid
  let l := s.launch gid.tag
  match g.held with
  | [] => s
  | e :: r =>
    if g.status != .active || g.h || g.cutback then s
    else
      let s := abortRegion (s.updGroup gid (fun g => { g with held := r })) gid 8 0
      let g := s.group gid
      let k := ((pathKeys g).find? (fun k => !pathEnded g k)).getD 0
      let (pc, keep) := interrupted g k
      let t : Trap := { code := e.code, arg := e.arg, vs := false, mask := 0, face := 0, addr := e.addr, xpc := pc }
      match l.handler with
      | some ha => enterHandler s gid k t ha keep
      | none =>
        if e.code == 0x20 || e.code == 0x21 || e.code == 0x29 then s
        else terminate (s.updGroup gid (fun g => setFault g t)) gid.tag e.code (some gid) 0

def execEventDelivery (g : GId) (s : State) : Host.Outcome State Fault Refusal := .next (eventDelivery s g)

end Sys2Proof.Machine
end

