-- ==== Sys2Proof/Machine/Sets.lean ====
section
/-!
DEFINITION. The active and pending sets (R49 to R52): which words could issue now, the swap of groups, yield and spin demotion.
-/

namespace Sys2Proof.Machine

/-! ## Before the word (R110) -/

/-- The latch of a word: what both slots read before either writes. -/
def latch (s : State) (gid : GId) (k : Nat) (w : Word) (f : Fetched) : State :=
  let g := s.group gid
  let p := pathOf g k
  let z : Issue := { Issue.zero with
    gid := gid, path := k, w := w, mask := p.mask, flags := g.flags, fmt := p.fmt, elstat := elstatOf g, face := faceBMask g
    first := s.nextId }
  let iss := match f with
    | .pair _ gen gneg slot _ _ => { z with gen := gen, gneg := gneg, gslot := slot }
    | .solo u _ _ _ => { z with solo := true, uniform := u }
    | .badFormat => z
  { s with iss := iss }

/-- The guard of the latched word (R65): true where the word is not governed. -/
def guardNow (s : State) : Guard :=
  if !s.iss.gen then .isTrue
  else match readGuard (cg s) s.iss.gslot with
    | .unres => .unres
    | g => Guard.ofBool ((g == .isTrue) != s.iss.gneg)

/-- The slots that act under a guard that has resolved (R65): none where it does not hold; a command already enqueued is not issued
again. -/
def acting (s : State) (x : Slots) (g : Guard) : Slots :=
  if g == .isFalse then { sc := .nop, ve := .vNop }
  else if (cp s).bound then { x with sc := .nop } else x

/-- The engine command of a word with an unresolved guard is still to be enqueued (R65). -/
def mayBind (s : State) (x : Slots) : Bool := isEngine x.sc && !(cp s).bound

/-- The checks of an engine command that is enqueued ahead of its vector slot. -/
def bindCheck (s : State) (x : Slots) : Chk :=
  match generalFault s { x with ve := .vNop } with
  | some (c, vs) => generalChk (if vs then .vNop else x.sc) s c vs
  | none => (checkOf x.sc s).join (holdOf x.sc s)

/-! ## Readiness (R49) -/

/-- What keeps a path's next word from issuing: nothing; a dependence for which the group may be swapped (R50); another one. -/
inductive Hold
  | free | long | short
  deriving DecidableEq, Repr

def Chk.hold : Chk → Hold
  | .wait => .short
  | _ => .free

/-- The hold of a decoded word: an unresolved guard that no engine command escapes; what makes the acting slots wait at issue. -/
def slotsHold (s : State) (x : Slots) : Hold :=
  match guardNow s with
  | .unres => if !mayBind s x then .long else if x.ve == .vNop then (wordCheck s x).hold else (bindCheck s x).hold
  | g => (wordCheck s (acting s x g)).hold

/-- The hold of a path's next word (R49). A word that will fault or halt is held by nothing. -/
def wordHold (s : State) (gid : GId) (k : Nat) : Hold :=
  if !pathReady s gid k then .long
  else
    let s := passWaits s gid k
    let w := (pathOf (s.group gid) k).pc
    match fetchWord s gid w with
    | (_, .error _) => .free
    | (s, .ok f) =>
      if (haltBefore s gid k (stopBit f) w).2 then .free
      else
        let s := latch s gid k w f
        match decodeFault s f, slotsOf f with
        | none, (.ok sc, .ok ve) => slotsHold s { sc := sc, ve := ve }
        | _, _ => .free

/-- A group is ready when a path of it has a word that could issue, once the paths that may fuse or pass have done so. -/
def groupReady (s : State) (gid : GId) : Bool :=
  let s := settle s gid
  (readyPaths s gid).any (fun k => wordHold s gid k == .free)

/-- A group that has met a long-latency dependence and is not ready (R50): a path waits, or reads an unresolved guard. A group that
issues nothing at all counts with them. DESIGN CHOICE (notes/assumptions/8.md). -/
def groupBlocked (s : State) (gid : GId) : Bool :=
  !groupReady s gid && ((readyPaths s gid).isEmpty
    || (pathKeys (s.group gid)).any (fun k => !pathEnded (s.group gid) k && wordHold s gid k == .long))

/-! ## Swaps (R50, R51) -/

/-- How many further swaps may pass a pending group over (R51), the one that takes it in included. -/
def swapsLeft (x : Core) (p : Nat) : Nat := 8 - sget 0 x.passed p

/-- Of the ready pending groups, the one that has waited longest, unless that would keep another one waiting beyond its eighth swap:
then the longest-waiting of those that must enter first. DEDUCED (notes/assumptions/8.md). -/
def chooseIn (x : Core) (ready : List Nat) : Option Nat :=
  let due := fun (t : Nat) => ready.filter (fun p => decide (swapsLeft x p ≤ t))
  match (List.range 9).find? (fun t => decide (0 < t) && decide (t ≤ (due t).length)) with
  | some t => (due t).head?
  | none => ready.head?

/-- The swaps that have passed over each pending group while it was ready, after the one that takes in `p`. -/
def passOn (x : Core) (ready : List Nat) (p : Nat) : Sparse Nat :=
  ready.foldl (fun m q => if q == p then m else sput 0 m q (min 7 (sget 0 x.passed q + 1))) []

/-- Group `a` leaves the active set for a ready pending group, if there is one (R50). -/
def swapOut (s : State) (tag c a : Nat) : State :=
  let x := s.core c
  let ready := x.pending.filter (fun p => groupReady s { tag := tag, core := c, grp := p })
  match (if x.active.contains a then chooseIn x ready else none) with
  | some p => s.updCore c (fun x =>
      { x with active := x.active.erase a ++ [p], pending := x.pending.erase p ++ [a], passed := passOn x ready p })
  | none => s

/-- Blocked groups of the active set are swapped while ready groups are pending (R50). -/
def swapBlocked (s : State) (c : Nat) : State :=
  let x := s.core c
  if x.pending.isEmpty then s
  else x.active.foldl (fun s a => if groupBlocked s { tag := x.tag, core := c, grp := a } then swapOut s x.tag c a else s) s

/-- Standing paths of a core's groups fuse and pass where they may, and blocked groups are swapped. -/
def refresh (s : State) (c : Nat) : State :=
  let x := s.core c
  swapBlocked ((x.active ++ x.pending).foldl (fun s a => settle s { tag := x.tag, core := c, grp := a }) s) c

/-! ## s.yield (R145) and SPIN_DEMOTION (R52) -/

def execSYield (s : State) : Host.Outcome State Fault Refusal :=
  gate .sYield noCheck (fun s => swapOut s s.iss.gid.tag s.iss.gid.core s.iss.gid.grp) s

/-- SPIN_DEMOTION: the count has reached 64; the group leaves the active set as if swapped, and the count restarts. With no ready
pending group it stays. DESIGN CHOICE (notes/assumptions/8.md). -/
def spinDemotion (s : State) (gid : GId) : State :=
  if (s.group gid).spin < 64 then s
  else swapOut (s.updGroup gid (fun g => { g with spin := 0 })) gid.tag gid.core gid.grp

def execSpinDemotion (g : GId) (s : State) : Host.Outcome State Fault Refusal := .next (spinDemotion s g)

end Sys2Proof.Machine
end

