-- ==== Sys2Proof/Machine/YarderCore.lean ====
section
/-!
DEFINITION. The Yarders (R378, R380): the custom-0 instructions, machine traps and the machine external interrupt. What RISC-V
itself fixes is notes/assumptions/2.md.
-/

namespace Sys2Proof.Machine

/-- The Yarder that executes: the one the agent `cur` names. -/
def yNow (s : State) : Nat :=
  match s.cur with
  | .yarder y => y
  | _ => 0

/-- x[r]; x0 reads 0. -/
def readX (y : Yarder) (r : BitVec 5) : Word := if r = 0 then 0 else sget 0 y.x r.toNat
/-- A write of x[r]; one to x0 is discarded. -/
def writeX (y : Yarder) (r : BitVec 5) (v : Word) : Yarder :=
  if r = 0 then y else { y with x := sput 0 y.x r.toNat v }

/-- Where a machine trap goes; an interrupt of a vectored `mtvec` goes to its own entry. -/
def trapTarget (y : Yarder) (irq : Option Nat) : Word :=
  let base := y.mtvec &&& ~~~3
  match irq with
  | some n => if y.mtvec &&& 3 == 1 then base + BitVec.ofNat 64 (4 * n) else base
  | none => base

/-- TAKING A MACHINE TRAP: mcause, mepc and mtval are written, MPIE keeps MIE, MIE is cleared, the pc goes to the handler. -/
def yTrap (y : Yarder) (cause tval : Word) (irq : Option Nat) : Yarder :=
  { y with mepc := y.pc, mcause := cause, mtval := tval, mpie := y.mie, mie := false, pc := trapTarget y irq, swait := none }

/-- A custom fault (R378): rd is unchanged. -/
def yFault (s : State) (code : Nat) (operand : Word) : State :=
  s.updYarder (yNow s) (fun y => yTrap y (BitVec.ofNat 64 code) operand none)

/-- rd takes a value and the pc passes the instruction. -/
def yDone (y : Yarder) (d : BitVec 5) (v : Word) : Yarder :=
  { writeX y d v with pc := y.pc + 4, minstret := y.minstret + 1, swait := none }

def yFinish (s : State) (d : BitVec 5) (v : Word) : State := s.updYarder (yNow s) (fun y => yDone y d v)

/-- A register of the executing Yarder. -/
def rx (s : State) (r : BitVec 5) : Word := readX (s.yarder (yNow s)) r

/-! ## y.bfx -/

/-- The bits that rs2's fields name: POS 5:0, LEN 12:6, SX 13. -/
def yField (v f : Word) : Word :=
  let pos := bits f.toNat 0 6
  let len := bits f.toNat 6 7
  let x := bits v.toNat pos len
  if bits f.toNat 13 1 == 1 then BitVec.ofInt 64 (signedBits len x) else BitVec.ofNat 64 x

/-- YF_FIELD. -/
def yFieldBad (f : Word) : Bool :=
  let len := bits f.toNat 6 7
  len == 0 || decide (64 < len) || decide (64 < bits f.toNat 0 6 + len) || bits f.toNat 14 50 != 0

def execYBfx (d a b : BitVec 5) (s : State) : Host.Outcome State Fault Refusal :=
  .next (if yFieldBad (rx s b) then yFault s 26 (rx s b) else yFinish s d (yField (rx s a) (rx s b)))

/-! ## y.rfetch -/

/-- Slots written to local SRAM from `at_` on. -/
def sramPut (y : Yarder) (at_ : Nat) : List (List Byte) → Yarder
  | [] => y
  | b :: r => sramPut { y with sram := writeBytes y.sram (sramAddr at_) b } (at_ + 64) r

/-- The slots of the packet at the head of a queue, whatever the notifies cover. -/
def headPacket (s : State) (v : Via) (q : Queue) : State × Except (Nat × Nat) (List (List Byte)) :=
  match readSlots v q 1 s q.ri with
  | (s, .error e) => (s, .error e)
  | (s, .ok h) => readSlots v q (hdrSlots (at_ (h.headD []) 0 2)) s q.ri

/-- Y_RFETCH. A packet that cannot be read leaves the SRAM as it is and rd a free value (notes/assumptions/22.md). -/
def yRfetch (s : State) (d a b : BitVec 5) : State :=
  let y := yNow s
  let e := (rx s a).toNat
  let k := y / 2 * 256 + e
  if (rx s b).toNat % 64 != 0 then yFault s 24 (rx s b)
  else if 255 < e || !s.queues.any (fun q => q.1 == k) then yFault s 25 (rx s a)
  else
    let q := queueAt s k
    if q.state == .idle then yFinish s d 0
    else
      match headPacket s { viaPacket (y / 2) q.owner with ident := idYarder y } q with
      | (s, .error _) => yFinish { s with nextId := s.nextId + 1 } d (Config.rfetchLost s.nextId)
      | (s, .ok bs) =>
        let at_ := (rx s b).toNat
        yFinish (s.updYarder y (fun x => sramPut x at_ bs)) d (BitVec.ofNat 64 bs.length)

def execYRfetch (d a b : BitVec 5) (s : State) : Host.Outcome State Fault Refusal := .next (yRfetch s d a b)

/-! ## y.swait -/

/-- The read of y.swait: done when the word differs; else the Yarder waits at the instruction. A read that is refused or meets
poison finds no differing word (notes/assumptions/22.md). -/
def swaitTry (s : State) (d : BitVec 5) (a v : Word) : State :=
  match physRead s (yarderMaster (yNow s)) 0 a.toNat 8 with
  | (s, .ok b) =>
    let x : Word := BitVec.ofNat 64 (ofBytes b)
    if x != v then yFinish s d x else s.updYarder (yNow s) (fun y => { y with swait := some (d, a, v) })
  | (s, .error _) => s.updYarder (yNow s) (fun y => { y with swait := some (d, a, v) })

def execYSwait (d a b : BitVec 5) (s : State) : Host.Outcome State Fault Refusal :=
  .next (if (rx s a).toNat % 8 != 0 then yFault s 24 (rx s a) else swaitTry s d (rx s a) (rx s b))

/-- Y_SWAIT_WAKE: a waiting Yarder reads its word again. -/
def swaitWake (s : State) (y : Nat) : State :=
  match (s.yarder y).swait with
  | none => s
  | some (d, a, v) => { swaitTry { s with cur := .yarder y } d a v with cur := s.cur }

def execYSwaitWake (y : Nat) (s : State) : Host.Outcome State Fault Refusal := .next (swaitWake s y)

/-! ## y.disp (R380) -/

/-- A core that holds no launch and no save image, that is kept for no waiting launch (R327), and that has power. -/
def svcCoreFree (s : State) (c : Nat) : Bool :=
  coreFree s c && (savedOn s c (fun _ => true)).isEmpty && s.launches.all (fun l => !l.reserved.contains c) && !clusterOff s (clusterOf c)

/-- R320 for a service-mode image: partition, deadline and budgets are passed over, no admission test is made. -/
def svcChecks (s : State) (v : Via) (k : LaunchPkt) (c : Nat) : State × Res Passed :=
  if bits (rootsEntry s 0) 0 1 == 0 then (s, .error 0x8A)
  else if !launchFormOk k then (s, .error 0x89)
  else if !svcCoreFree s c || at_ k.b0 2 2 != 1 then (s, .error 0x84)
  else
    match selectKernel s v (BitVec.ofNat 64 (at_ k.b0 8 8)) (at_ k.b0 6 2) (at_ k.b0 4 1) with
    | (s, .error e) => (s, .error e)
    | (s, .ok x) =>
      if 1 < x.kernel.stages then (s, .error 0x84)
      else if !poolOk x.kernel then (s, .error 0x85)
      else (s, .ok { sel := x, stages := x.kernel.stages })

/-- The launch that an image starts: context 0, service mode, no deadline, no enforced budget. -/
def svcLaunch (s : State) (k : LaunchPkt) (x : Passed) (y : Nat) : Launch :=
  let l := launchOf s 0 0 k x
  { l with svc := true, svcDie := y / 2, svcBy := y, part := 0, deadline := 0, budget := [0, 0, 0, 0], enforced := false }

def yDisp (s : State) (d a b : BitVec 5) : State :=
  let y := yNow s
  let at_ := rx s a
  let c := (rx s b).toNat
  if at_.toNat % 64 != 0 then yFault s 24 at_
  else if coresOf s.part ≤ c then yFault s 27 (rx s b)
  else
    let img := readBytes (s.yarder y).sram (sramAddr at_.toNat) 64
    let k : LaunchPkt := { hdr := Sys2Proof.Machine.at_ img 0 2, b0 := img, b1 := [] }
    let v : Via := { die := y / 2, ident := idYarder y, ctx := 0, tag := 0 }
    match svcChecks s v k c with
    | (s, .error e) => yFinish s d (BitVec.ofInt 64 (-(e : Int)))
    | (s, .ok x) =>
      let l := svcLaunch s k x y
      yFinish (loadLaunch (placeNew (addLaunch s l) l [c]) l.tag) d (BitVec.ofNat 64 l.tag)

def execYDisp (d a b : BitVec 5) (s : State) : Host.Outcome State Fault Refusal := .next (yDisp s d a b)

/-! ## Issue -/

/-- The illegal-instruction exception of a custom-0 word (R378): mcause 2, mtval the word. -/
def yIllegal (s : State) (w : Nat) : State := yFault s 2 (BitVec.ofNat 64 w)

/-- The machine external interrupt is pending and enabled (R379). -/
def yInterrupted (y : Yarder) : Bool := y.meip && y.meie && y.mie

/-- The interrupt is taken, and is pending no longer; one taken in `y.swait` keeps that instruction's address. -/
def takeInterrupt (s : State) : State :=
  s.updYarder (yNow s) (fun y => { yTrap y (BitVec.ofNat 64 (2 ^ 63 + 11)) 0 (some 11) with meip := false })

/-- The 32-bit word at the pc, from local SRAM; a compressed instruction takes its low half. -/
def yWord (y : Yarder) : Nat := readLE y.sram (sramAddr y.pc.toNat) 2 + 2 ^ 16 * readLE y.sram (sramAddr (y.pc.toNat + 2)) 2

end Sys2Proof.Machine
end

