-- ==== Sys2Proof/Machine/Dispatch.lean ====
section
/-!
DEFINITION. `exec`: one arm per instruction and event, each a direct call of its meaning.
-/

namespace Sys2Proof.Machine

def exec (i : Instr) (s : State) : Host.Outcome State Fault Refusal :=
  match i with
  | .nop => Sys2Proof.Machine.execNop s
  | .sAdd d a b => Sys2Proof.Machine.execSAdd d a b s
  | .sSub d a b => Sys2Proof.Machine.execSSub d a b s
  | .sAddi d a imm => Sys2Proof.Machine.execSAddi d a imm s
  | .sMul d a b => Sys2Proof.Machine.execSMul d a b s
  | .sMulh d a b => Sys2Proof.Machine.execSMulh d a b s
  | .sMulhz d a b => Sys2Proof.Machine.execSMulhz d a b s
  | .sDiv d a b => Sys2Proof.Machine.execSDiv d a b s
  | .sDivz d a b => Sys2Proof.Machine.execSDivz d a b s
  | .sRem d a b => Sys2Proof.Machine.execSRem d a b s
  | .sRemz d a b => Sys2Proof.Machine.execSRemz d a b s
  | .sAnd d a b => Sys2Proof.Machine.execSAnd d a b s
  | .sOr d a b => Sys2Proof.Machine.execSOr d a b s
  | .sXor d a b => Sys2Proof.Machine.execSXor d a b s
  | .sAndi d a imm => Sys2Proof.Machine.execSAndi d a imm s
  | .sOri d a imm => Sys2Proof.Machine.execSOri d a imm s
  | .sXori d a imm => Sys2Proof.Machine.execSXori d a imm s
  | .sNot d a => Sys2Proof.Machine.execSNot d a s
  | .sShl d a n => Sys2Proof.Machine.execSShl d a n s
  | .sShr d a n => Sys2Proof.Machine.execSShr d a n s
  | .sSra d a n => Sys2Proof.Machine.execSSra d a n s
  | .sRot d a n => Sys2Proof.Machine.execSRot d a n s
  | .sClz d a => Sys2Proof.Machine.execSClz d a s
  | .sPopc d a => Sys2Proof.Machine.execSPopc d a s
  | .sBfx d a sx len pos => Sys2Proof.Machine.execSBfx d a sx len pos s
  | .sBfi d a len pos => Sys2Proof.Machine.execSBfi d a len pos s
  | .sMin d a b => Sys2Proof.Machine.execSMin d a b s
  | .sMax d a b => Sys2Proof.Machine.execSMax d a b s
  | .sMinz d a b => Sys2Proof.Machine.execSMinz d a b s
  | .sMaxz d a b => Sys2Proof.Machine.execSMaxz d a b s
  | .sSel d a b c => Sys2Proof.Machine.execSSel d a b c s
  | .sCmp d a b code => Sys2Proof.Machine.execSCmp d a b code s
  | .sMovi d imm => Sys2Proof.Machine.execSMovi d imm s
  | .sMovhi d a imm => Sys2Proof.Machine.execSMovhi d a imm s
  | .sLea d imm => Sys2Proof.Machine.execSLea d imm s
  | .sSetfmtImm imm => Sys2Proof.Machine.execSSetfmtImm imm s
  | .sSetfmtReg a => Sys2Proof.Machine.execSSetfmtReg a s
  | .sGetfmt d => Sys2Proof.Machine.execSGetfmt d s
  | .sGset k a b code => Sys2Proof.Machine.execSGset k a b code s
  | .sGclr k => Sys2Proof.Machine.execSGclr k s
  | .br off => Sys2Proof.Machine.execBr off s
  | .bcc a b code off => Sys2Proof.Machine.execBcc a b code off s
  | .jmp a imm => Sys2Proof.Machine.execJmp a imm s
  | .brx a b limit => Sys2Proof.Machine.execBrx a b limit s
  | .call mt off => Sys2Proof.Machine.execCall mt off s
  | .callx mt a => Sys2Proof.Machine.execCallx mt a s
  | .ret a => Sys2Proof.Machine.execRet a s
  | .loopS d off => Sys2Proof.Machine.execLoopS d off s
  | .sYield => Sys2Proof.Machine.execSYield s
  | .sEnd => Sys2Proof.Machine.execSEnd s
  | .barGrp kind => Sys2Proof.Machine.execBarGrp kind s
  | .barBlk kind n => Sys2Proof.Machine.execBarBlk kind n s
  | .barClu kind n => Sys2Proof.Machine.execBarClu kind n s
  | .barGrid kind n => Sys2Proof.Machine.execBarGrid kind n s
  | .wait c => Sys2Proof.Machine.execWait c s
  | .gLd k a b off scope acc code => Sys2Proof.Machine.execGLd k a b off scope acc code s
  | .draw n k => Sys2Proof.Machine.execDraw n k s
  | .deal n => Sys2Proof.Machine.execDeal n s
  | .idem => Sys2Proof.Machine.execIdem s
  | .sGetsr d num => Sys2Proof.Machine.execSGetsr d num s
  | .sSetsr num a => Sys2Proof.Machine.execSSetsr num a s
  | .sSys d sel => Sys2Proof.Machine.execSSys d sel s
  | .trap e => Sys2Proof.Machine.execTrap e s
  | .brk e => Sys2Proof.Machine.execBrk e s
  | .rett mode => Sys2Proof.Machine.execRett mode s
  | .sBudget d sel => Sys2Proof.Machine.execSBudget d sel s
  | .halt => Sys2Proof.Machine.execHalt s
  | .ifence a b => Sys2Proof.Machine.execIfence a b s
  | .mZero d => Sys2Proof.Machine.execMZero d s
  | .mMma d a b k la lb => Sys2Proof.Machine.execMMma d a b k la lb s
  | .mMmas d a b k la lb ri nc => Sys2Proof.Machine.execMMmas d a b k la lb ri nc s
  | .mLd d a ty w l => Sys2Proof.Machine.execMLd d a ty w l s
  | .mSt d a ty w l => Sys2Proof.Machine.execMSt d a ty w l s
  | .mXpose d r => Sys2Proof.Machine.execMXpose d r s
  | .mPerm d r p => Sys2Proof.Machine.execMPerm d r p s
  | .mRsum d r => Sys2Proof.Machine.execMRsum d r s
  | .mScale d r v => Sys2Proof.Machine.execMScale d r v s
  | .cCopy d a b ldst lsrc ord => Sys2Proof.Machine.execCCopy d a b ldst lsrc ord s
  | .cCopyt d a b ldst lsrc ord g => Sys2Proof.Machine.execCCopyt d a b ldst lsrc ord g s
  | .cFill d a byte ldst => Sys2Proof.Machine.execCFill d a byte ldst s
  | .cSend d a b lsrc ord tm treg => Sys2Proof.Machine.execCSend d a b lsrc ord tm treg s
  | .cSig a => Sys2Proof.Machine.execCSig a s
  | .xAllred a op ty w => Sys2Proof.Machine.execXAllred a op ty w s
  | .xAllmax a ty => Sys2Proof.Machine.execXAllmax a ty s
  | .xBcast a ty => Sys2Proof.Machine.execXBcast a ty s
  | .xGather a ty => Sys2Proof.Machine.execXGather a ty s
  | .xWait d => Sys2Proof.Machine.execXWait d s
  | .vNop => Sys2Proof.Machine.execVNop s
  | .vAdd m o t => Sys2Proof.Machine.execVAdd m o t s
  | .vSub m o t => Sys2Proof.Machine.execVSub m o t s
  | .vMul m o t => Sys2Proof.Machine.execVMul m o t s
  | .vMad m o t => Sys2Proof.Machine.execVMad m o t s
  | .vMulhi m o t => Sys2Proof.Machine.execVMulhi m o t s
  | .vMin m o t => Sys2Proof.Machine.execVMin m o t s
  | .vMax m o t => Sys2Proof.Machine.execVMax m o t s
  | .vAbs m o t => Sys2Proof.Machine.execVAbs m o t s
  | .vNeg m o t => Sys2Proof.Machine.execVNeg m o t s
  | .vAnd m o t => Sys2Proof.Machine.execVAnd m o t s
  | .vOr m o t => Sys2Proof.Machine.execVOr m o t s
  | .vXor m o t => Sys2Proof.Machine.execVXor m o t s
  | .vNot m o t => Sys2Proof.Machine.execVNot m o t s
  | .vShl m o t => Sys2Proof.Machine.execVShl m o t s
  | .vShr m o t => Sys2Proof.Machine.execVShr m o t s
  | .vSra m o t => Sys2Proof.Machine.execVSra m o t s
  | .vClz m o t => Sys2Proof.Machine.execVClz m o t s
  | .vPopc m o t => Sys2Proof.Machine.execVPopc m o t s
  | .vAddImm m o t => Sys2Proof.Machine.execVAddImm m o t s
  | .vSubImm m o t => Sys2Proof.Machine.execVSubImm m o t s
  | .vMulImm m o t => Sys2Proof.Machine.execVMulImm m o t s
  | .vMinImm m o t => Sys2Proof.Machine.execVMinImm m o t s
  | .vMaxImm m o t => Sys2Proof.Machine.execVMaxImm m o t s
  | .vAndImm m o t => Sys2Proof.Machine.execVAndImm m o t s
  | .vOrImm m o t => Sys2Proof.Machine.execVOrImm m o t s
  | .vXorImm m o t => Sys2Proof.Machine.execVXorImm m o t s
  | .vShlImm m o t => Sys2Proof.Machine.execVShlImm m o t s
  | .vShrImm m o t => Sys2Proof.Machine.execVShrImm m o t s
  | .vSraImm m o t => Sys2Proof.Machine.execVSraImm m o t s
  | .vBfx m fq vd va t len pos => Sys2Proof.Machine.execVBfx m fq vd va t len pos s
  | .vSel m fq vd va vb k => Sys2Proof.Machine.execVSel m fq vd va vb k s
  | .vMov m o => Sys2Proof.Machine.execVMov m o s
  | .vMovi m fq vd t imm => Sys2Proof.Machine.execVMovi m fq vd t imm s
  | .vMovs m fq vd r hi => Sys2Proof.Machine.execVMovs m fq vd r hi s
  | .vLane m fq vd sel => Sys2Proof.Machine.execVLane m fq vd sel s
  | .vCmpEq m fq k va vb t => Sys2Proof.Machine.execVCmpEq m fq k va vb t s
  | .vCmpNe m fq k va vb t => Sys2Proof.Machine.execVCmpNe m fq k va vb t s
  | .vCmpLt m fq k va vb t => Sys2Proof.Machine.execVCmpLt m fq k va vb t s
  | .vCmpLe m fq k va vb t => Sys2Proof.Machine.execVCmpLe m fq k va vb t s
  | .vCmpGt m fq k va vb t => Sys2Proof.Machine.execVCmpGt m fq k va vb t s
  | .vCmpGe m fq k va vb t => Sys2Proof.Machine.execVCmpGe m fq k va vb t s
  | .vCmpEqImm m fq k va t imm => Sys2Proof.Machine.execVCmpEqImm m fq k va t imm s
  | .vCmpNeImm m fq k va t imm => Sys2Proof.Machine.execVCmpNeImm m fq k va t imm s
  | .vCmpLtImm m fq k va t imm => Sys2Proof.Machine.execVCmpLtImm m fq k va t imm s
  | .vCmpLeImm m fq k va t imm => Sys2Proof.Machine.execVCmpLeImm m fq k va t imm s
  | .vCmpGtImm m fq k va t imm => Sys2Proof.Machine.execVCmpGtImm m fq k va t imm s
  | .vCmpGeImm m fq k va t imm => Sys2Proof.Machine.execVCmpGeImm m fq k va t imm s
  | .vFadd m o t => Sys2Proof.Machine.execVFadd m o t s
  | .vFsub m o t => Sys2Proof.Machine.execVFsub m o t s
  | .vFmul m o t => Sys2Proof.Machine.execVFmul m o t s
  | .vFma m o t => Sys2Proof.Machine.execVFma m o t s
  | .vFmin m o t => Sys2Proof.Machine.execVFmin m o t s
  | .vFmax m o t => Sys2Proof.Machine.execVFmax m o t s
  | .vFclass m fq vd va t => Sys2Proof.Machine.execVFclass m fq vd va t s
  | .vTwosum m fq vd va vb vc => Sys2Proof.Machine.execVTwosum m fq vd va vb vc s
  | .vFcmpEq m fq k va vb t => Sys2Proof.Machine.execVFcmpEq m fq k va vb t s
  | .vFcmpNe m fq k va vb t => Sys2Proof.Machine.execVFcmpNe m fq k va vb t s
  | .vFcmpLt m fq k va vb t => Sys2Proof.Machine.execVFcmpLt m fq k va vb t s
  | .vFcmpLe m fq k va vb t => Sys2Proof.Machine.execVFcmpLe m fq k va vb t s
  | .vFcmpGt m fq k va vb t => Sys2Proof.Machine.execVFcmpGt m fq k va vb t s
  | .vFcmpGe m fq k va vb t => Sys2Proof.Machine.execVFcmpGe m fq k va vb t s
  | .vCvt m fq vd va src dst => Sys2Proof.Machine.execVCvt m fq vd va src dst s
  | .vPack m fq vd va vb t => Sys2Proof.Machine.execVPack m fq vd va vb t s
  | .vUnpack m fq vd va hi t => Sys2Proof.Machine.execVUnpack m fq vd va hi t s
  | .vQpack m fq vd va vc w => Sys2Proof.Machine.execVQpack m fq vd va vc w s
  | .vQunpack m fq vd va vb w => Sys2Proof.Machine.execVQunpack m fq vd va vb w s
  | .vRcp m o t => Sys2Proof.Machine.execVRcp m o t s
  | .vRsqrt m o t => Sys2Proof.Machine.execVRsqrt m o t s
  | .vSqrt m o t => Sys2Proof.Machine.execVSqrt m o t s
  | .vExp2 m o t => Sys2Proof.Machine.execVExp2 m o t s
  | .vLog2 m o t => Sys2Proof.Machine.execVLog2 m o t s
  | .vSinpi m o t => Sys2Proof.Machine.execVSinpi m o t s
  | .vCospi m o t => Sys2Proof.Machine.execVCospi m o t s
  | .vShfl m fq vd va src mode => Sys2Proof.Machine.execVShfl m fq vd va src mode s
  | .vBcast m fq vd va src => Sys2Proof.Machine.execVBcast m fq vd va src s
  | .vRedx m fq vd va op t => Sys2Proof.Machine.execVRedx m fq vd va op t s
  | .vScan m fq vd va x op t => Sys2Proof.Machine.execVScan m fq vd va x op t s
  | .vBallot m fq k va t => Sys2Proof.Machine.execVBallot m fq k va t s
  | .kAnd m fq d a b => Sys2Proof.Machine.execKAnd m fq d a b s
  | .kOr m fq d a b => Sys2Proof.Machine.execKOr m fq d a b s
  | .kXor m fq d a b => Sys2Proof.Machine.execKXor m fq d a b s
  | .kNot m fq d a => Sys2Proof.Machine.execKNot m fq d a s
  | .kMov m fq d a => Sys2Proof.Machine.execKMov m fq d a s
  | .kPopc m fq vd a => Sys2Proof.Machine.execKPopc m fq vd a s
  | .kFirst m fq d a => Sys2Proof.Machine.execKFirst m fq d a s
  | .ld o => Sys2Proof.Machine.execLd o s
  | .st o => Sys2Proof.Machine.execSt o s
  | .ldv o => Sys2Proof.Machine.execLdv o s
  | .stv o => Sys2Proof.Machine.execStv o s
  | .lds o => Sys2Proof.Machine.execLds o s
  | .sts o => Sys2Proof.Machine.execSts o s
  | .ldsv o => Sys2Proof.Machine.execLdsv o s
  | .stsv o => Sys2Proof.Machine.execStsv o s
  | .rdc o => Sys2Proof.Machine.execRdc o s
  | .stLog o => Sys2Proof.Machine.execStLog o s
  | .tlogFlush o => Sys2Proof.Machine.execTlogFlush o s
  | .tlogLen o => Sys2Proof.Machine.execTlogLen o s
  | .fence o => Sys2Proof.Machine.execFence o s
  | .waitw o => Sys2Proof.Machine.execWaitw o s
  | .pf o => Sys2Proof.Machine.execPf o s
  | .ipf o => Sys2Proof.Machine.execIpf o s
  | .atomAdd o => Sys2Proof.Machine.execAtomAdd o s
  | .atomMin o => Sys2Proof.Machine.execAtomMin o s
  | .atomMax o => Sys2Proof.Machine.execAtomMax o s
  | .atomAnd o => Sys2Proof.Machine.execAtomAnd o s
  | .atomOr o => Sys2Proof.Machine.execAtomOr o s
  | .atomXor o => Sys2Proof.Machine.execAtomXor o s
  | .atomXchg o => Sys2Proof.Machine.execAtomXchg o s
  | .atomCas o => Sys2Proof.Machine.execAtomCas o s
  | .redAdd o => Sys2Proof.Machine.execRedAdd o s
  | .redMin o => Sys2Proof.Machine.execRedMin o s
  | .redMax o => Sys2Proof.Machine.execRedMax o s
  | .redAnd o => Sys2Proof.Machine.execRedAnd o s
  | .redOr o => Sys2Proof.Machine.execRedOr o s
  | .redXor o => Sys2Proof.Machine.execRedXor o s
  | .redFadd o => Sys2Proof.Machine.execRedFadd o s
  | .redFaddc o => Sys2Proof.Machine.execRedFaddc o s
  | .elide o => Sys2Proof.Machine.execElide o s
  | .elidend o => Sys2Proof.Machine.execElidend o s
  | .eliabort o => Sys2Proof.Machine.execEliabort o s
  | .brv k off => Sys2Proof.Machine.execBrv k off s
  | .join => Sys2Proof.Machine.execJoin s
  | .meld k off => Sys2Proof.Machine.execMeld k off s
  | .meldend => Sys2Proof.Machine.execMeldend s
  | .demote fq k => Sys2Proof.Machine.execDemote fq k s
  | .exit fq k => Sys2Proof.Machine.execExit fq k s
  | .loopv v off => Sys2Proof.Machine.execLoopv v off s
  | .loopvEnd => Sys2Proof.Machine.execLoopvEnd s
  | .bany k off => Sys2Proof.Machine.execBany k off s
  | .ball k off => Sys2Proof.Machine.execBall k off s
  | .yRfetch d a b => Sys2Proof.Machine.execYRfetch d a b s
  | .yBfx d a b => Sys2Proof.Machine.execYBfx d a b s
  | .ySwait d a b => Sys2Proof.Machine.execYSwait d a b s
  | .yDisp d a b => Sys2Proof.Machine.execYDisp d a b s
  | .ySwaitWake y => Sys2Proof.Machine.execYSwaitWake y s
  | .spinDemotion g => Sys2Proof.Machine.execSpinDemotion g s
  | .loadCompletion g => Sys2Proof.Machine.execLoadCompletion g s
  | .storeCompletion g => Sys2Proof.Machine.execStoreCompletion g s
  | .homeSliceAccess g op acc => Sys2Proof.Machine.execHomeSliceAccess g op acc s
  | .tileFetch tile bad => Sys2Proof.Machine.execTileFetch tile bad s
  | .tileEviction tile => Sys2Proof.Machine.execTileEviction tile s
  | .lineBufferWriteBack core line => Sys2Proof.Machine.execLineBufferWriteBack core line s
  | .translationWalk die ctx va => Sys2Proof.Machine.execTranslationWalk die ctx va s
  | .chuteFill core line => Sys2Proof.Machine.execChuteFill core line s
  | .ifenceDiscard g path => Sys2Proof.Machine.execIfenceDiscard g path s
  | .skidderCompletion core => Sys2Proof.Machine.execSkidderCompletion core s
  | .matrixKStep core => Sys2Proof.Machine.execMatrixKStep core s
  | .tileOperationComplete core => Sys2Proof.Machine.execTileOperationComplete core s
  | .boomOperationComplete g id => Sys2Proof.Machine.execBoomOperationComplete g id s
  | .barrierArrivalSignal g level n => Sys2Proof.Machine.execBarrierArrivalSignal g level n s
  | .waitwWake g path => Sys2Proof.Machine.execWaitwWake g path s
  | .drawWake g path => Sys2Proof.Machine.execDrawWake g path s
  | .dealEntry g path => Sys2Proof.Machine.execDealEntry g path s
  | .elisionCommit g => Sys2Proof.Machine.execElisionCommit g s
  | .eventDelivery g => Sys2Proof.Machine.execEventDelivery g s
  | .launchCompletion tag => Sys2Proof.Machine.execLaunchCompletion tag s
  | .notify w => Sys2Proof.Machine.execNotify w s
  | .notifyForward die => Sys2Proof.Machine.execNotifyForward die s
  | .queueTakeUp die => Sys2Proof.Machine.execQueueTakeUp die s
  | .abort w => Sys2Proof.Machine.execAbort w s
  | .rearm w => Sys2Proof.Machine.execRearm w s
  | .query w => Sys2Proof.Machine.execQuery w s
  | .nrefusedClear die m v => Sys2Proof.Machine.execNrefusedClear die m v s
  | .packetDispatch q => Sys2Proof.Machine.execPacketDispatch q s
  | .barrierSignalRead q pkt idx => Sys2Proof.Machine.execBarrierSignalRead q pkt idx s
  | .launchPlacement part => Sys2Proof.Machine.execLaunchPlacement part s
  | .politeWindowExpiry tag => Sys2Proof.Machine.execPoliteWindowExpiry tag s
  | .shadowSwap tag core => Sys2Proof.Machine.execShadowSwap tag core s
  | .budgetOverrun tag => Sys2Proof.Machine.execBudgetOverrun tag s
  | .budgetReport tag => Sys2Proof.Machine.execBudgetReport tag s
  | .clklockWrite m v => Sys2Proof.Machine.execClklockWrite m v s
  | .clockChange => Sys2Proof.Machine.execClockChange s
  | .pwrgateWrite m die v => Sys2Proof.Machine.execPwrgateWrite m die v s
  | .partitionWrite m p v => Sys2Proof.Machine.execPartitionWrite m p v s
  | .accessWindowWrite m die group win v => Sys2Proof.Machine.execAccessWindowWrite m die group win v s
  | .registerWrite m addr data => Sys2Proof.Machine.execRegisterWrite m addr data s
  | .shootdownRequest m data => Sys2Proof.Machine.execShootdownRequest m data s
  | .shootdownCompletion => Sys2Proof.Machine.execShootdownCompletion s
  | .attestationRequest m data => Sys2Proof.Machine.execAttestationRequest m data s
  | .mintreq m die data => Sys2Proof.Machine.execMintreq m die data s
  | .svcResume m die v => Sys2Proof.Machine.execSvcResume m die v s
  | .svcEnd m die v => Sys2Proof.Machine.execSvcEnd m die v s
  | .debugHaltLaunch m ctx v => Sys2Proof.Machine.execDebugHaltLaunch m ctx v s
  | .debugResumeLaunch m ctx v => Sys2Proof.Machine.execDebugResumeLaunch m ctx v s
  | .debugResumeGroup m ctx v => Sys2Proof.Machine.execDebugResumeGroup m ctx v s
  | .gstateWrite m ctx off data => Sys2Proof.Machine.execGstateWrite m ctx off data s
  | .gpoolWrite m ctx off data => Sys2Proof.Machine.execGpoolWrite m ctx off data s
  | .safePointHalt g path => Sys2Proof.Machine.execSafePointHalt g path s
  | .samplerTag g path => Sys2Proof.Machine.execSamplerTag g path s
  | .sampleRecord core t => Sys2Proof.Machine.execSampleRecord core t s
  | .thermalTrip die => Sys2Proof.Machine.execThermalTrip die s
  | .packageReset => Sys2Proof.Machine.execPackageReset s
  | .firmwareCheck image => Sys2Proof.Machine.execFirmwareCheck image s
  | .memoryTraining => Sys2Proof.Machine.execMemoryTraining s
  | .linkUp => Sys2Proof.Machine.execLinkUp s
  | .highleadRead r => Sys2Proof.Machine.execHighleadRead r s
  | .highleadWrite r => Sys2Proof.Machine.execHighleadWrite r s
  | .highleadReadResponse die tag status data => Sys2Proof.Machine.execHighleadReadResponse die tag status data s
  | .highleadWriteResponse die tag status => Sys2Proof.Machine.execHighleadWriteResponse die tag status s
  | .highleadStop die => Sys2Proof.Machine.execHighleadStop die s
  | .highleadReplay die => Sys2Proof.Machine.execHighleadReplay die s
  | .boomData b => Sys2Proof.Machine.execBoomData b s
  | .boomAcknowledgement b => Sys2Proof.Machine.execBoomAcknowledgement b s
  | .boomHaltNotice b => Sys2Proof.Machine.execBoomHaltNotice b s
  | .boomResumeNotice b => Sys2Proof.Machine.execBoomResumeNotice b s
  | .boomFailure b => Sys2Proof.Machine.execBoomFailure b s
  | .boomResend b => Sys2Proof.Machine.execBoomResend b s
  | .collectiveTimeout g id => Sys2Proof.Machine.execCollectiveTimeout g id s
  | .senderReplay die n => Sys2Proof.Machine.execSenderReplay die n s

end Sys2Proof.Machine
end

