-- ==== Sys2Proof/Machine/Riscv.lean ====
section
/-!
DEFINITION. The base instructions of a Yarder: RV64IMAC at machine level (R378), which the spec names and does not describe. What stands
here is the RISC-V family's; where a Yarder's addresses lead, and what the family leaves open, is the model's. PRESUMED
(notes/assumptions/2.md), DESIGN CHOICE (notes/assumptions/21.md).
-/

namespace Sys2Proof.Machine

/-- Operations of two register values. -/
inductive Alu
  | add | sub | sll | slt | sltu | xor | srl | sra | or | and
  | mul | mulh | mulhsu | mulhu | div | divu | rem | remu
  deriving DecidableEq, Repr

/-- What an atomic stores, of the old value and rs2. -/
inductive Amo
  | swap | add | xor | and | or | min | max | minu | maxu
  deriving DecidableEq, Repr

/-- A base instruction. `half` names the operations of 32 bits, whose result is sign-extended. -/
inductive Rv
  | lui (d : BitVec 5) (v : Word)
  | auipc (d : BitVec 5) (v : Word)
  | jal (d : BitVec 5) (v : Word)
  | jalr (d a : BitVec 5) (v : Word)
  | branch (f3 : Nat) (a b : BitVec 5) (v : Word)
  | load (size : Nat) (sx : Bool) (d a : BitVec 5) (v : Word)
  | store (size : Nat) (a b : BitVec 5) (v : Word)
  | alu (half : Bool) (o : Alu) (d a b : BitVec 5)
  | aluImm (half : Bool) (o : Alu) (d a : BitVec 5) (v : Word)
  | fence
  | lr (size : Nat) (d a : BitVec 5)
  | sc (size : Nat) (d a b : BitVec 5)
  | amo (size : Nat) (o : Amo) (d a b : BitVec 5)
  | csr (f3 : Nat) (d a : BitVec 5) (n : Nat)
  | ecall
  | ebreak
  | mret
  | wfi
  deriving DecidableEq, Repr

/-! ## Decoding -/

/-- The low `n` bits of a number, sign-extended. -/
def sx (n v : Nat) : Word := BitVec.ofInt 64 (signedBits n v)

/-- Fields of a word, each (lowest bit, length, its place), gathered. -/
def gather (w : Nat) (fs : List (Nat × Nat × Nat)) : Nat := (fs.map (fun f => bits w f.1 f.2.1 * 2 ^ f.2.2)).sum

/-- The operation that funct3 names; `alt` is bit 30. -/
def aluBase (f3 : Nat) (alt : Bool) : Option Alu :=
  match f3, alt with
  | 0, false => some .add
  | 0, true => some .sub
  | 1, false => some .sll
  | 2, false => some .slt
  | 3, false => some .sltu
  | 4, false => some .xor
  | 5, false => some .srl
  | 5, true => some .sra
  | 6, false => some .or
  | 7, false => some .and
  | _, _ => none

/-- The operation of the M extension that funct3 names. -/
def aluMul (f3 : Nat) : Alu :=
  match f3 with
  | 0 => .mul
  | 1 => .mulh
  | 2 => .mulhsu
  | 3 => .mulhu
  | 4 => .div
  | 5 => .divu
  | 6 => .rem
  | _ => .remu

/-- Whether an operation has a form of 32 bits. -/
def hasHalf : Alu → Bool
  | .add | .sub | .sll | .srl | .sra | .mul | .div | .divu | .rem | .remu => true
  | _ => false

/-- Register-register operations. -/
def decodeOp (w : Nat) (half : Bool) : Option Rv :=
  let f3 := bits w 12 3
  let o := match bits w 25 7 with
    | 0 => aluBase f3 false
    | 0x20 => aluBase f3 true
    | 1 => some (aluMul f3)
    | _ => none
  match o with
  | some o => if half && !hasHalf o then none else some (.alu half o (field 5 w 7) (field 5 w 15) (field 5 w 20))
  | none => none

/-- Register-immediate operations; a shift's amount has 5 bits in the form of 32 bits, and 6 otherwise. -/
def decodeOpImm (w : Nat) (half : Bool) : Option Rv :=
  let f3 := bits w 12 3
  let n := if half then 5 else 6
  let o := if f3 == 1 || f3 == 5 then (if bits w (20 + n) (12 - n) == 0 then aluBase f3 false
      else if f3 == 5 && bits w (20 + n) (12 - n) == 2 ^ (10 - n) then aluBase f3 true else none)
    else aluBase f3 false
  let v := if f3 == 1 || f3 == 5 then BitVec.ofNat 64 (bits w 20 n) else sx 12 (bits w 20 12)
  match o with
  | some o => if half && !hasHalf o then none else some (.aluImm half o (field 5 w 7) (field 5 w 15) v)
  | none => none

/-- What bits 31:27 of an atomic name. -/
def decodeAmo (w : Nat) : Option Rv :=
  let size := 2 ^ bits w 12 3
  let d : BitVec 5 := field 5 w 7
  let a : BitVec 5 := field 5 w 15
  let b : BitVec 5 := field 5 w 20
  if size != 4 && size != 8 then none
  else match bits w 27 5 with
    | 0x02 => if b == 0 then some (.lr size d a) else none
    | 0x03 => some (.sc size d a b)
    | 0x01 => some (.amo size .swap d a b)
    | 0x00 => some (.amo size .add d a b)
    | 0x04 => some (.amo size .xor d a b)
    | 0x0C => some (.amo size .and d a b)
    | 0x08 => some (.amo size .or d a b)
    | 0x10 => some (.amo size .min d a b)
    | 0x14 => some (.amo size .max d a b)
    | 0x18 => some (.amo size .minu d a b)
    | 0x1C => some (.amo size .maxu d a b)
    | _ => none

/-- ECALL, EBREAK, MRET, WFI and the accesses to control and status registers. -/
def decodeSystem (w : Nat) : Option Rv :=
  if w == 0x73 then some .ecall
  else if w == 0x100073 then some .ebreak
  else if w == 0x30200073 then some .mret
  else if w == 0x10500073 then some .wfi
  else if bits w 12 2 == 0 then none
  else some (.csr (bits w 12 3) (field 5 w 7) (field 5 w 15) (bits w 20 12))

/-- A 32-bit base word. -/
def decode32 (w : Nat) : Option Rv :=
  let d : BitVec 5 := field 5 w 7
  let a : BitVec 5 := field 5 w 15
  let b : BitVec 5 := field 5 w 20
  let f3 := bits w 12 3
  match bits w 0 7 with
  | 0x37 => some (.lui d (sx 32 (gather w [(12, 20, 12)])))
  | 0x17 => some (.auipc d (sx 32 (gather w [(12, 20, 12)])))
  | 0x6F => some (.jal d (sx 21 (gather w [(21, 10, 1), (20, 1, 11), (12, 8, 12), (31, 1, 20)])))
  | 0x67 => if f3 == 0 then some (.jalr d a (sx 12 (bits w 20 12))) else none
  | 0x63 =>
    if f3 == 2 || f3 == 3 then none
    else some (.branch f3 a b (sx 13 (gather w [(8, 4, 1), (25, 6, 5), (7, 1, 11), (31, 1, 12)])))
  | 0x03 => if f3 == 7 then none else some (.load (2 ^ (f3 % 4)) (decide (f3 < 4)) d a (sx 12 (bits w 20 12)))
  | 0x23 => if 3 < f3 then none else some (.store (2 ^ f3) a b (sx 12 (gather w [(7, 5, 0), (25, 7, 5)])))
  | 0x13 => decodeOpImm w false
  | 0x1B => decodeOpImm w true
  | 0x33 => decodeOp w false
  | 0x3B => decodeOp w true
  | 0x0F => if 1 < f3 then none else some .fence
  | 0x2F => decodeAmo w
  | 0x73 => decodeSystem w
  | _ => none

/-- x8 to x15, which three bits of a compressed word name. -/
def shortReg (w lo : Nat) : BitVec 5 := BitVec.ofNat 5 (8 + bits w lo 3)

/-- Compressed words of quadrant 0. -/
def decodeC0 (w : Nat) : Option Rv :=
  let word := BitVec.ofNat 64 (gather w [(10, 3, 3), (6, 1, 2), (5, 1, 6)])
  let long := BitVec.ofNat 64 (gather w [(10, 3, 3), (5, 2, 6)])
  match bits w 13 3 with
  | 0 =>
    let v := gather w [(11, 2, 4), (7, 4, 6), (6, 1, 2), (5, 1, 3)]
    if v == 0 then none else some (.aluImm false .add (shortReg w 2) 2 (BitVec.ofNat 64 v))
  | 2 => some (.load 4 true (shortReg w 2) (shortReg w 7) word)
  | 3 => some (.load 8 true (shortReg w 2) (shortReg w 7) long)
  | 6 => some (.store 4 (shortReg w 7) (shortReg w 2) word)
  | 7 => some (.store 8 (shortReg w 7) (shortReg w 2) long)
  | _ => none

/-- The arithmetic of quadrant 1. -/
def decodeC1Alu (w : Nat) : Option Rv :=
  let d := shortReg w 7
  let b := shortReg w 2
  let v := gather w [(2, 5, 0), (12, 1, 5)]
  match bits w 10 2 with
  | 0 => some (.aluImm false .srl d d (BitVec.ofNat 64 v))
  | 1 => some (.aluImm false .sra d d (BitVec.ofNat 64 v))
  | 2 => some (.aluImm false .and d d (sx 6 v))
  | _ =>
    match bits w 12 1, bits w 5 2 with
    | 0, 0 => some (.alu false .sub d d b)
    | 0, 1 => some (.alu false .xor d d b)
    | 0, 2 => some (.alu false .or d d b)
    | 0, 3 => some (.alu false .and d d b)
    | 1, 0 => some (.alu true .sub d d b)
    | 1, 1 => some (.alu true .add d d b)
    | _, _ => none

/-- Compressed words of quadrant 1. -/
def decodeC1 (w : Nat) : Option Rv :=
  let d : BitVec 5 := field 5 w 7
  let v := gather w [(2, 5, 0), (12, 1, 5)]
  let near := sx 9 (gather w [(12, 1, 8), (10, 2, 3), (5, 2, 6), (3, 2, 1), (2, 1, 5)])
  match bits w 13 3 with
  | 0 => some (.aluImm false .add d d (sx 6 v))
  | 1 => if d == 0 then none else some (.aluImm true .add d d (sx 6 v))
  | 2 => some (.aluImm false .add d 0 (sx 6 v))
  | 3 =>
    if v == 0 then none
    else if d == 2 then some (.aluImm false .add 2 2 (sx 10 (gather w [(12, 1, 9), (6, 1, 4), (5, 1, 6), (3, 2, 7), (2, 1, 5)])))
    else some (.lui d (sx 18 (v * 2 ^ 12)))
  | 4 => decodeC1Alu w
  | 5 => some (.jal 0 (sx 12 (gather w
      [(12, 1, 11), (11, 1, 4), (9, 2, 8), (8, 1, 10), (7, 1, 6), (6, 1, 7), (3, 3, 1), (2, 1, 5)])))
  | 6 => some (.branch 0 (shortReg w 7) 0 near)
  | _ => some (.branch 1 (shortReg w 7) 0 near)

/-- Compressed words of quadrant 2. -/
def decodeC2 (w : Nat) : Option Rv :=
  let d : BitVec 5 := field 5 w 7
  let b : BitVec 5 := field 5 w 2
  match bits w 13 3 with
  | 0 => some (.aluImm false .sll d d (BitVec.ofNat 64 (gather w [(2, 5, 0), (12, 1, 5)])))
  | 2 => if d == 0 then none else some (.load 4 true d 2 (BitVec.ofNat 64 (gather w [(12, 1, 5), (4, 3, 2), (2, 2, 6)])))
  | 3 => if d == 0 then none else some (.load 8 true d 2 (BitVec.ofNat 64 (gather w [(12, 1, 5), (5, 2, 3), (2, 3, 6)])))
  | 4 =>
    if b != 0 then some (if bits w 12 1 == 0 then .alu false .add d 0 b else .alu false .add d d b)
    else if bits w 12 1 == 0 then (if d == 0 then none else some (.jalr 0 d 0))
    else if d == 0 then some .ebreak else some (.jalr 1 d 0)
  | 6 => some (.store 4 2 b (BitVec.ofNat 64 (gather w [(9, 4, 2), (7, 2, 6)])))
  | 7 => some (.store 8 2 b (BitVec.ofNat 64 (gather w [(10, 3, 3), (7, 3, 6)])))
  | _ => none

/-- Bytes of the instruction whose low bits a word holds. -/
def rvLen (w : Nat) : Nat := if bits w 0 2 == 3 then 4 else 2

/-- The base instruction in the low bits of a word. -/
def decodeRv (w : Nat) : Option Rv :=
  match bits w 0 2 with
  | 0 => decodeC0 w
  | 1 => decodeC1 w
  | 2 => decodeC2 w
  | _ => decode32 w

/-! ## Values -/

/-- The value of an operation at either width. A division by zero and the overflow of a signed division have the results the family
gives them. -/
def aluVal {n : Nat} (o : Alu) (a b : BitVec n) : BitVec n :=
  match o with
  | .add => a + b
  | .sub => a - b
  | .sll => a <<< (b.toNat % n)
  | .slt => if a.slt b then 1 else 0
  | .sltu => if a.ult b then 1 else 0
  | .xor => a ^^^ b
  | .srl => a >>> (b.toNat % n)
  | .sra => a.sshiftRight (b.toNat % n)
  | .or => a ||| b
  | .and => a &&& b
  | .mul => a * b
  | .mulh => BitVec.ofInt n (a.toInt * b.toInt / 2 ^ n)
  | .mulhsu => BitVec.ofInt n (a.toInt * b.toNat / 2 ^ n)
  | .mulhu => BitVec.ofNat n (a.toNat * b.toNat / 2 ^ n)
  | .div => if b = 0 then BitVec.allOnes n else a.sdiv b
  | .divu => if b = 0 then BitVec.allOnes n else a / b
  | .rem => if b = 0 then a else a.srem b
  | .remu => if b = 0 then a else a % b

def amoVal {n : Nat} (o : Amo) (a b : BitVec n) : BitVec n :=
  match o with
  | .swap => b
  | .add => a + b
  | .xor => a ^^^ b
  | .and => a &&& b
  | .or => a ||| b
  | .min => if a.slt b then a else b
  | .max => if a.slt b then b else a
  | .minu => if a.ult b then a else b
  | .maxu => if a.ult b then b else a

/-- The operation on whole registers or on their low halves. -/
def aluAt (half : Bool) (o : Alu) (a b : Word) : Word :=
  if half then (aluVal o (a.setWidth 32) (b.setWidth 32)).signExtend 64 else aluVal o a b

def branchTaken (f3 : Nat) (a b : Word) : Bool :=
  match f3 with
  | 0 => a == b
  | 1 => a != b
  | 4 => a.slt b
  | 5 => !a.slt b
  | 6 => a.ult b
  | _ => !a.ult b

/-! ## Control and status registers -/

/-- A register's value; `none` for one a Yarder lacks. mcycle is a free value. -/
def csrRead (s : State) (n : Nat) : Option Word :=
  let y := s.yarder (yNow s)
  let flag := fun (b : Bool) (k : Nat) => if b then 2 ^ k else 0
  match n with
  | 0x300 => some (BitVec.ofNat 64 (3 * 2 ^ 11 + flag y.mpie 7 + flag y.mie 3))
  | 0x301 => some 0x8000000000001105
  | 0x304 => some (BitVec.ofNat 64 (flag y.meie 11))
  | 0x305 => some y.mtvec
  | 0x340 => some y.mscratch
  | 0x341 => some y.mepc
  | 0x342 => some y.mcause
  | 0x343 => some y.mtval
  | 0x344 => some (BitVec.ofNat 64 (flag y.meip 11))
  | 0xB00 => some (Config.yarderCycles s.nextId)
  | 0xB02 => some y.minstret
  | 0xF14 => some (BitVec.ofNat 64 (yNow s))
  | _ =>
    if n == 0x320 || (0xF11 ≤ n && n ≤ 0xF15) || (0xB03 ≤ n && n ≤ 0xB1F) || (0x323 ≤ n && n ≤ 0x33F) then some 0 else none

/-- A write; a register or a bit that cannot be written keeps its value. -/
def csrWrite (y : Yarder) (n : Nat) (v : Word) : Yarder :=
  match n with
  | 0x300 => { y with mie := bit v 3, mpie := bit v 7 }
  | 0x304 => { y with meie := bit v 11 }
  | 0x305 => { y with mtvec := v &&& ~~~2 }
  | 0x340 => { y with mscratch := v }
  | 0x341 => { y with mepc := v &&& ~~~1 }
  | 0x342 => { y with mcause := v }
  | 0x343 => { y with mtval := v }
  | 0xB02 => { y with minstret := v }
  | _ => y

/-- What a CSR instruction writes, of the old value and its operand; `none` where it writes nothing. -/
def csrNew (f3 : Nat) (a : BitVec 5) (old x : Word) : Option Word :=
  match f3 % 4 with
  | 1 => some x
  | 2 => if a = 0 then none else some (old ||| x)
  | _ => if a = 0 then none else some (old &&& ~~~x)

/-! ## Memory -/

/-- An address in local SRAM. -/
def inSram (a : Word) : Bool := decide (a.toNat < 0x40000)

/-- A read; `none` where it is refused or meets poison. -/
def rvRead (s : State) (a : Word) (n : Nat) : State × Option Nat :=
  let y := yNow s
  if inSram a then (s, some (readLE (s.yarder y).sram a.toNat n))
  else match physRead s (yarderMaster y) 0 a.toNat n with
    | (s, .ok b) => (s, some (ofBytes b))
    | (s, .error _) => (s, none)

/-- A write; the answer says whether it was performed. -/
def rvWrite (s : State) (a : Word) (n : Nat) (v : Word) : State × Bool :=
  let y := yNow s
  if inSram a then (s.updYarder y (fun x => { x with sram := writeBytes x.sram a.toNat (toBytes n v.toNat) }), true)
  else match devWrite s (yarderMaster y) a.toNat (toBytes n v.toNat) with
    | (s, .ok _) => (s, true)
    | (s, .error _) => (s, false)

/-- The byte that a reservation of an address names, and whether it is one of SRAM; a register has none. -/
def reserveAt (s : State) (a : Word) : Option (Bool × Nat) :=
  if inSram a then some (true, a.toNat)
  else match locate s.part a.toNat with
    | .slice _ q => some (false, q)
    | _ => none

/-! ## Execution -/

/-- The address of an access that the size divides. -/
def aligned (a : Word) (n : Nat) : Bool := a.toNat % n == 0

/-- The instruction is done: the pc goes on, minstret counts it. -/
def rvDone (s : State) (f : Yarder → Yarder) (pc : Word) : State :=
  s.updYarder (yNow s) (fun y => { f { y with minstret := y.minstret + 1 } with pc := pc, swait := none })

/-- A value of `n` bytes in a register. -/
def extend (sx_ : Bool) (n v : Nat) : Word := if sx_ then sx (8 * n) v else BitVec.ofNat 64 v

def rvLoad (s : State) (n : Nat) (sx_ : Bool) (d : BitVec 5) (a pc : Word) : State :=
  if !aligned a n then yFault s 4 a
  else match rvRead s a n with
    | (s, none) => yFault s 5 a
    | (s, some v) => rvDone s (fun y => writeX y d (extend sx_ n v)) pc

def rvStore (s : State) (n : Nat) (a v pc : Word) : State :=
  if !aligned a n then yFault s 6 a
  else match rvWrite s a n v with
    | (s, false) => yFault s 7 a
    | (s, true) => rvDone s id pc

def rvLr (s : State) (n : Nat) (d : BitVec 5) (a pc : Word) : State :=
  if !aligned a n then yFault s 4 a
  else match rvRead s a n with
    | (s, none) => yFault s 5 a
    | (s, some v) => rvDone s (fun y => { writeX y d (extend true n v) with reserve := (reserveAt s a).map (fun r => (r.1, r.2, n)) }) pc

/-- A store-conditional writes when the reservation still names its bytes; the reservation is gone after it. -/
def rvSc (s : State) (n : Nat) (d : BitVec 5) (a v pc : Word) : State :=
  let done := fun (s : State) (x : Word) => rvDone s (fun y => { writeX y d x with reserve := none }) pc
  if !aligned a n then yFault s 6 a
  else if (s.yarder (yNow s)).reserve.isNone || (s.yarder (yNow s)).reserve != (reserveAt s a).map (fun r => (r.1, r.2, n)) then done s 1
  else match rvWrite s a n v with
    | (s, false) => yFault s 7 a
    | (s, true) => done s 0

def rvAmo (s : State) (n : Nat) (o : Amo) (d : BitVec 5) (a v pc : Word) : State :=
  if !aligned a n then yFault s 6 a
  else match rvRead s a n with
    | (s, none) => yFault s 7 a
    | (s, some old) =>
      let x : Word := if n == 4 then (amoVal o (BitVec.ofNat 32 old) (v.setWidth 32)).setWidth 64 else amoVal o (BitVec.ofNat 64 old) v
      match rvWrite s a n x with
      | (s, false) => yFault s 7 a
      | (s, true) => rvDone s (fun y => writeX y d (extend true n old)) pc

def rvCsr (s : State) (w f3 : Nat) (d a : BitVec 5) (n : Nat) (pc : Word) : State :=
  let x : Word := if f3 < 4 then rx s a else a.setWidth 64
  match csrRead s n with
  | none => yIllegal s w
  | some old =>
    let new := csrNew f3 a old x
    if new.isSome && bits n 10 2 == 3 then yIllegal s w
    else
      let s := if n == 0xB00 then { s with nextId := s.nextId + 1 } else s
      rvDone s (fun y => match new with
        | some v => csrWrite (writeX y d old) n v
        | none => writeX y d old) pc

/-- A base instruction at the pc; `w` is its word and `len` its bytes. -/
def rvExec (s : State) (w len : Nat) (i : Rv) : State :=
  let here := (s.yarder (yNow s)).pc
  let next := here + BitVec.ofNat 64 len
  let put := fun (d : BitVec 5) (v : Word) => rvDone s (fun y => writeX y d v) next
  match i with
  | .lui d v => put d v
  | .auipc d v => put d (here + v)
  | .jal d v => rvDone s (fun y => writeX y d next) (here + v)
  | .jalr d a v => rvDone s (fun y => writeX y d next) ((rx s a + v) &&& ~~~1)
  | .branch f3 a b v => rvDone s id (if branchTaken f3 (rx s a) (rx s b) then here + v else next)
  | .load n x d a v => rvLoad s n x d (rx s a + v) next
  | .store n a b v => rvStore s n (rx s a + v) (rx s b) next
  | .alu half o d a b => put d (aluAt half o (rx s a) (rx s b))
  | .aluImm half o d a v => put d (aluAt half o (rx s a) v)
  | .fence => rvDone s id next
  | .lr n d a => rvLr s n d (rx s a) next
  | .sc n d a b => rvSc s n d (rx s a) (rx s b) next
  | .amo n o d a b => rvAmo s n o d (rx s a) (rx s b) next
  | .csr f3 d a n => rvCsr s w f3 d a n next
  | .ecall => yFault s 11 0
  | .ebreak => yFault s 3 here
  | .mret => rvDone s (fun y => { y with mie := y.mpie, mpie := true }) (s.yarder (yNow s)).mepc
  | .wfi => rvDone s id next

/-- The executing Yarder runs the base instruction in the low bits of the word at its pc. -/
def rvStep (s : State) (w : Nat) : State :=
  let n := rvLen w
  match decodeRv w with
  | some i => rvExec s (bits w 0 (8 * n)) n i
  | none => yIllegal s (bits w 0 (8 * n))

end Sys2Proof.Machine
end

