-- ==== Sys2Proof/Machine/Run.lean ====
section
/-!
DEFINITION. How a word issues (R56, R65, R110, R111, R144), how an agent moves, and how time passes (R328). `Step.lean` only calls
what stands here.
-/

namespace Sys2Proof.Machine

/-- The outcome of a step. -/
abbrev Out := Host.Outcome State Fault Refusal

/-- Go on from a next state; a fault or a refusal stands. -/
def Out.andThen (o : Out) (f : State → Out) : Out :=
  match o with
  | .next s => f s
  | .fault r => .fault r
  | .refused r => .refused r

/-- What an attempt to issue a path's word comes to: the word cannot issue yet, or the step's outcome. -/
inductive Attempt
  | held (s : State)
  | done (o : Out)

/-! ## After the word -/

/-- The path is still one of the group's. -/
def pathLives (g : Group) (k : Nat) : Bool := k == 0 || g.split.any (fun p => p.1 == k)

/-- The path's next pc (R144); a path that has ended has none. -/
def setNextPc (s : State) : State :=
  let k := s.iss.path
  let go := fun (s : State) (t : Word) => updPath s (fun p => { p with pc := t })
  if groupDone (cg s) || !pathLives (cg s) k || pathEnded (cg s) k then s
  else match s.iss.next with
    | .ended => s
    | .goto t => go s t
    | .fall =>
      let s := goNext s (nextWord s)
      match s.iss.next with
      | .goto t => go s t
      | _ => s

/-- `rett.excl` and a bound command concern one word only (R65, R191). -/
def clearOnce (s : State) (keep : Bool) : State :=
  if keep || !pathLives (cg s) s.iss.path then s else updPath s (fun p => { p with excl := 0, bound := false })

/-- The end of a word: the next pc, fusing and passing, and what it lets move on its core: retirement (R48), a save that the
launch has been asked for (R327, R341), the swap of blocked groups (R50). `rett` restores `excl` itself. DEDUCED (notes/assumptions/9.md). -/
def finishWord (s : State) (rett : Bool) : State :=
  let gid := s.iss.gid
  let s := clearOnce (setNextPc s) rett
  let s := settle s gid
  let s := retireWg s gid.tag gid.core
  let s := saveReady s (s.launch gid.tag) gid.core
  swapBlocked s gid.core

/-! ## The word -/

/-- The scalar slot acts first where it is an engine command, `g.ld` or `idem`; otherwise the vector slot does (R110, R138,
R146, R183, R190). -/
def scalarFirst : Instr → Bool
  | .gLd _ _ _ _ _ _ _ | .idem => true
  | i => isEngine i

def setsFmt : Instr → Bool
  | .sSetfmtImm _ | .sSetfmtReg _ => true
  | _ => false

/-- The restore of FMT at `meldend` overwrites what `s.setfmt` writes in its word, so that acts before it (R66, R135). -/
def scalarLeads (x : Slots) : Bool := scalarFirst x.sc || (setsFmt x.sc && x.ve == .meldend)

/-- Both slots act. DEDUCED (notes/assumptions/9.md). -/
def actSlots (s : State) (x : Slots) : Out :=
  if scalarLeads x then Out.andThen (exec x.sc s) (exec x.ve) else Out.andThen (exec x.ve s) (exec x.sc)

/-- The word issues: SPORD and the history take it (R350, R359), the sampler counts it (R356), and a path that resumed at it has done
so (R353). -/
def started (s : State) (f : Fetched) : State :=
  let gid := s.iss.gid
  let k := s.iss.path
  let s := passPoint s gid (stopBit f) s.iss.w
  let s := s.updGroup gid (fun g =>
    { g with hist := (s.iss.w :: g.hist).take 64, skip := g.skip.filter (fun x => !(x.path == k && x.word == s.iss.w)) })
  let s := sampleWord s gid k s.iss.w f
  { s with iss := { s.iss with passed := true } }

def isRett : Instr → Bool
  | .rett _ => true
  | _ => false

/-- A word that passes its checks runs to its end. -/
def issueWord (s : State) (f : Fetched) (x : Slots) : Out :=
  Out.andThen (actSlots (started s f) x) (fun s => .next (finishWord (sampleIssued s s.iss.gid s.iss.path) (isRett x.sc)))

/-- The end of a word that takes a fault. -/
def trapWord (s : State) (t : Trap) : Out := .next (finishWord (takeTrap s t) false)

/-- A word that was tagged just now takes a fault of its own checks (R357). -/
def tagFaults (before s : State) (core : Nat) : State :=
  if (before.core core).due.isNone then
    s.updCore core (fun c => { c with due := c.due.map (fun r => { r with fate := .faulted }) })
  else s

/-- What the issue checks of a word make of it. One that fails them, or aborts its region, has issued, though neither slot acts
(R111, R350, R356, R359); the walks of its checks leave their traces (R214). -/
def afterCheck (s : State) (f : Fetched) (x : Slots) (c : Chk) (run : Out) : Attempt :=
  let gone := sampleIssued (started (wordWalks s x) f) s.iss.gid s.iss.path
  match c with
  | .pass => .done run
  | .trap t => .done (trapWord (tagFaults s gone s.iss.gid.core) t)
  | .abort k e => .done (.next (finishWord (endWord (abortRegion gone s.iss.gid k e)) false))
  | .wait => .held s

/-- What a word waits for before either slot acts: a shoe, where its vector slot changes what the word's second run would change again, since a
draw withdrawn and a deal given up run their word again (R181, R335, R341). DESIGN CHOICE (notes/assumptions/9.md). -/
def wordWaits (s : State) (x : Slots) : Option Wait := if steers x.ve then shoeWait s x.sc else none

/-- A word that passes its checks runs, or its path waits at it. -/
def issueOrWait (s : State) (f : Fetched) (x : Slots) : Out :=
  match wordWaits s x with
  | some w => .next (finishWord (endWord (addWait (takeId s).1 w)) true)
  | none => issueWord s f x

/-- A word whose guard holds, or that is not governed. -/
def runWord (s : State) (f : Fetched) (x : Slots) : Attempt := afterCheck s f x (wordCheck s x) (issueOrWait s f x)

/-- The engine command of a word with an unresolved guard is enqueued at once, bound to the resolution; the path goes on when the
vector slot is the nop, else the word waits (R65). DEDUCED (notes/assumptions/10.md). -/
def bindWord (s : State) (f : Fetched) (x : Slots) : Attempt :=
  if x.ve == .vNop then runWord s f x
  else
    let enqueue := Out.andThen (exec x.sc { s with iss := { s.iss with passed := true } })
      (fun s => .next (updPath s (fun p => { p with bound := true })))
    afterCheck s f { x with ve := .vNop } (bindCheck s x) enqueue

/-- A word with an unresolved guard: its operations wait, and the group may be swapped (R50, R65). DEDUCED (notes/assumptions/10.md). -/
def unresolvedWord (s : State) (f : Fetched) (x : Slots) : Attempt := if mayBind s x then bindWord s f x else .held s

/-- The word of two decoded slots, under its guard. -/
def governed (s : State) (f : Fetched) (x : Slots) : Attempt :=
  match guardNow s with
  | .unres => unresolvedWord s f x
  | g => runWord s f (acting s x g)

/-- A fetched word that does not halt: decoding faults, then the guard. -/
def decoded (s : State) (f : Fetched) : Attempt :=
  match decodeFault s f with
  | some (c, vs) => .done (trapWord s (wordTrap s c vs))
  | none =>
    match slotsOf f with
    | (.ok sc, .ok ve) => governed s f { sc := sc, ve := ve }
    | _ => .held s

/-- A held event or class A fault that the group takes before it issues another word (R184, R335). -/
def deliverable (g : Group) : Bool := !g.held.isEmpty && !g.h && g.status == .active && !g.cutback

/-- Path k of a group issues the word at its pc, once the events held for the group have been delivered. A fault in fetching the word is
taken at it (R138). DEDUCED (notes/assumptions/9.md). -/
def issuePath (s : State) (gid : GId) (k : Nat) : Attempt :=
  if deliverable (s.group gid) then .done (.next (eventDelivery s gid))
  else
  let s := passWaits s gid k
  let w := (pathOf (s.group gid) k).pc
  match fetchWord s gid w with
  | (s, .error c) =>
    let s := latch s gid k w .badFormat
    .done (trapWord s { wordTrap s c false with addr := w })
  | (s, .ok f) =>
    match haltBefore s gid k (stopBit f) w with
    | (s, true) => .done (.next s)
    | (s, false) => decoded (latch s gid k w f) f

/-! ## Agents -/

/-- The first of the paths whose word can issue does. -/
def tryPaths : State → List (GId × Nat) → Out
  | s, [] => .next s
  | s, x :: r =>
    match issuePath s x.1 x.2 with
    | .done o => o
    | .held s => tryPaths s r

/-- A group of its core's active set issues, lowest entry first (R56). A core of a cluster without power stands still (R381). -/
def runGroup (s : State) (gid : GId) : Out :=
  let s := refresh s gid.core
  let c := s.core gid.core
  if clusterOff s (clusterOf gid.core) then .next s else if c.tag == gid.tag && c.active.contains gid.grp then tryPaths s ((readyPaths s gid).map (fun k => (gid, k))) else .next s

/-- A core: of its active set the group that entered earliest issues first (R49); blocked groups are swapped before. -/
def runCore (s : State) (c : Nat) : Out :=
  let s := refresh s c
  let x := s.core c
  let gs : List GId := if clusterOff s (clusterOf c) then [] else x.active.map (fun g => { tag := x.tag, core := c, grp := g })
  tryPaths s (gs.flatMap (fun g => (readyPaths s g).map (fun k => (g, k))))

/-- A Yarder runs once firmware has been accepted (R378, R387): a pending enabled interrupt, else the instruction at its pc; in
`y.swait` it waits for its event. -/
def runYarder (s : State) (y : Nat) : Out :=
  let s := { s with cur := .yarder y }
  if 2 * diesOf s.part ≤ y || !firmwareRuns s then .next s
  else if yInterrupted (s.yarder y) then .next (takeInterrupt s)
  else if (s.yarder y).swait.isSome then .next s
  else
    let w := yWord (s.yarder y)
    match decodeYarder w with
    | .ok i => exec i s
    | .illegal => .next (yIllegal s w)
    | .base => .next (rvStep s w)

def runAgent (s : State) (a : Agent) : Out :=
  match a with
  | .core c => runCore s c
  | .group g => runGroup s g
  | .yarder y => runYarder s y

/-! ## Time (R328, R381, R382) -/

/-- The workgroup of a running launch on a core has been saved, and not yet swapped out. -/
def savedHere (s : State) (l : Launch) (c : Nat) : Bool := l.state == .running && wgSaved s l c && (groupsOf l c).any (fun g => isSaved (s.group g))

/-- A core holds a launch's workgroup, placed and not saved, or is being loaded with it (R326, R328). -/
def holdsWork (s : State) (l : Launch) (c : Nat) : Bool :=
  (s.core c).tag == l.tag && (!groupsMade l || l.state == .placing true || (!(s.wg l.tag c).retired && !savedHere s l c))

/-- The launch that pays for saving launch `x`: the one it was asked for, while that has not come to its end; else the one that waits for cores of
the partition; without one, `x` itself (R326, R328). DESIGN CHOICE (notes/assumptions/14.md). -/
def savePayer (s : State) (x : Launch) : Nat :=
  if s.launches.any (fun l => l.tag == x.askedFor && l.state != .completing) then x.askedFor
  else match (partLaunches s x.part).find? (fun l => !l.reserved.isEmpty) with
    | some l => l.tag
    | none => x.tag

/-- A core has stopped for a launch: it saves the outgoing one, which launch `l` pays for, or is in the set of `l` and has been left for it (R326). -/
def stopsFor (s : State) (l : Launch) (c : Nat) : Bool :=
  (l.reserved.contains c && l.stopped.contains c && coreFree s c)
  || s.launches.any (fun x => (s.core c).tag == x.tag && savedHere s x c && savePayer s x == l.tag)

/-- The cores whose cycles fall on a launch. -/
def chargedCores (s : State) (l : Launch) : Nat := ((List.range (coresOf s.part)).filter (fun c => holdsWork s l c || stopsFor s l c)).length

/-- `ns` nanoseconds pass: DTIME counts them, and each core's whole cycles are charged to the primary budget of one launch, half cycles being
carried on. DESIGN CHOICE (notes/assumptions/8.md). -/
def elapse (s : State) (ns : Nat) : State :=
  let n := clk2 s.clkCur * ns + s.halfCycle
  let s' := s.launches.foldl (fun t l => chargeBudget t l.tag 0 (chargedCores s l * (n / 2))) s
  { s' with dtime := s'.dtime + ns, halfCycle := n % 2 }

/-! ## One turn -/

/-- An event: a row of the opcode table that no word encodes. An instruction of a word runs only through its word. -/
def isEvent (i : Instr) : Bool :=
  (encodeScalar i).isNone && (encodeVector i).isNone && (encodeYarder i).isNone

/-- What one entry of the schedule does. DESIGN CHOICE (notes/assumptions/8.md). -/
def turn (s : State) (t : Turn) : Out :=
  match t with
  | .event i => if isEvent i then exec i s else .next s
  | .run a => runAgent { s with cur := a } a
  | .elapse ns => .next (elapse s ns)

/-- After a thermal trip only a package reset moves the machine (R381). -/
def thermallyHeld (s : State) : Bool := s.stopped && s.sched.head? != some (.event .packageReset)

/-! ## Placing one instruction (notes/assumptions/23.md) -/

/-- The launch of one group that `withFetchWord` runs an instruction in: service mode, every register and tile of the pool. -/
def hostLaunch : Launch :=
  { Launch.zero with
    tag := 1, state := .running, svc := true, cores := [0], code := 0x10000, entry := 0x10000, vregs := 128
    pword := 1 + 47 * 2 ^ 7 + 16 * 2 ^ 14, enforced := false }

def hostGroup : GId := { tag := 1, core := 0, grp := 0 }

/-- The 16-byte unit that holds the instruction: a pair word, or a solo word at offset 8 behind the solo nop. -/
def hostUnit (nbits w : Nat) : List Byte :=
  if nbits ≤ 64 then toBytes 8 0x4000000000000000 ++ toBytes 8 w else toBytes 16 w

/-- A Yarder's word goes to Yarder 0's SRAM at its pc; another word to the instruction cache of core 0, where a group stands. -/
def placeWord (s : State) (nbits w : Nat) : State :=
  if nbits ≤ 32 then
    let s := s.updYarder 0 (fun y =>
      { y with sram := writeBytes y.sram (sramAddr y.pc.toNat) (toBytes 4 w), mie := false, swait := none })
    { s with bringup := 3, cur := .yarder 0, sched := [], stopped := false }
  else
    let pc : Word := if nbits ≤ 64 then 0x10008 else 0x10000
    let s := { s with launches := hostLaunch :: s.launches.filter (fun l => l.tag != 1) }
    let s := s.setGroup hostGroup { newGroup hostLaunch with root := { Path.zero with mask := BitVec.allOnes 64, pc := pc } }
    let s := s.updWg 1 0 (fun _ => { Workgroup.zero with order := s.nextOrder })
    let s := s.updCore 0 (fun c =>
      { putLine c { ctx := 0, line := 0x200, bytes := hostUnit nbits w ++ List.replicate 112 0 } with tag := 1, active := [0], pending := [] })
    { s with bringup := 3, cur := .group hostGroup, sched := [], stopped := false }

end Sys2Proof.Machine
end

