-- ==== Sys2Proof/Machine/Step.lean ====
section
/-!
DEFINITION. One step of the package, and the placing of one instruction where the next step fetches it.
-/

namespace Sys2Proof.Machine

/-- One step: the schedule's first entry, or, with an empty schedule, the current agent. -/
def step (s : State) : Host.Outcome State Fault Refusal :=
  if thermallyHeld s then .fault .thermalStop
  else
    match s.sched with
    | t :: r => turn { s with sched := r } t
    | [] => runAgent s s.cur

/-- `s` with an instruction stored where the next step fetches it, and the agent that fetches it current. -/
def State.withFetchWord (s : State) (nbits w : Nat) : State := placeWord s nbits w

end Sys2Proof.Machine
end

