-- ==== Sys2Proof/Laws/State.lean ====
section
/-!
SUPPORT. What an update of State or of Group leaves alone: one lemma per field per update.
-/

namespace Sys2Proof.Machine

@[simp] theorem setGroup_part (s : State) (g : GId) (v : Group) : (s.setGroup g v).part = s.part := rfl
@[simp] theorem setGroup_sched (s : State) (g : GId) (v : Group) : (s.setGroup g v).sched = s.sched := rfl
@[simp] theorem setGroup_cur (s : State) (g : GId) (v : Group) : (s.setGroup g v).cur = s.cur := rfl
@[simp] theorem setGroup_iss (s : State) (g : GId) (v : Group) : (s.setGroup g v).iss = s.iss := rfl
@[simp] theorem setGroup_wgs (s : State) (g : GId) (v : Group) : (s.setGroup g v).wgs = s.wgs := rfl
@[simp] theorem setGroup_cores (s : State) (g : GId) (v : Group) : (s.setGroup g v).cores = s.cores := rfl
@[simp] theorem setGroup_launches (s : State) (g : GId) (v : Group) : (s.setGroup g v).launches = s.launches := rfl
@[simp] theorem setGroup_queues (s : State) (g : GId) (v : Group) : (s.setGroup g v).queues = s.queues := rfl
@[simp] theorem setGroup_forwarded (s : State) (g : GId) (v : Group) : (s.setGroup g v).forwarded = s.forwarded := rfl
@[simp] theorem setGroup_nrefused (s : State) (g : GId) (v : Group) : (s.setGroup g v).nrefused = s.nrefused := rfl
@[simp] theorem setGroup_yarders (s : State) (g : GId) (v : Group) : (s.setGroup g v).yarders = s.yarders := rfl
@[simp] theorem setGroup_mem (s : State) (g : GId) (v : Group) : (s.setGroup g v).mem = s.mem := rfl
@[simp] theorem setGroup_tiles (s : State) (g : GId) (v : Group) : (s.setGroup g v).tiles = s.tiles := rfl
@[simp] theorem setGroup_tlb (s : State) (g : GId) (v : Group) : (s.setGroup g v).tlb = s.tlb := rfl
@[simp] theorem setGroup_predictor (s : State) (g : GId) (v : Group) : (s.setGroup g v).predictor = s.predictor := rfl
@[simp] theorem setGroup_regs (s : State) (g : GId) (v : Group) : (s.setGroup g v).regs = s.regs := rfl
@[simp] theorem setGroup_atab (s : State) (g : GId) (v : Group) : (s.setGroup g v).atab = s.atab := rfl
@[simp] theorem setGroup_atLow (s : State) (g : GId) (v : Group) : (s.setGroup g v).atLow = s.atLow := rfl
@[simp] theorem setGroup_atsel (s : State) (g : GId) (v : Group) : (s.setGroup g v).atsel = s.atsel := rfl
@[simp] theorem setGroup_dtime (s : State) (g : GId) (v : Group) : (s.setGroup g v).dtime = s.dtime := rfl
@[simp] theorem setGroup_clkCur (s : State) (g : GId) (v : Group) : (s.setGroup g v).clkCur = s.clkCur := rfl
@[simp] theorem setGroup_clkSet (s : State) (g : GId) (v : Group) : (s.setGroup g v).clkSet = s.clkSet := rfl
@[simp] theorem setGroup_clkPend (s : State) (g : GId) (v : Group) : (s.setGroup g v).clkPend = s.clkPend := rfl
@[simp] theorem setGroup_pwrgate (s : State) (g : GId) (v : Group) : (s.setGroup g v).pwrgate = s.pwrgate := rfl
@[simp] theorem setGroup_thermstat (s : State) (g : GId) (v : Group) : (s.setGroup g v).thermstat = s.thermstat := rfl
@[simp] theorem setGroup_stopped (s : State) (g : GId) (v : Group) : (s.setGroup g v).stopped = s.stopped := rfl
@[simp] theorem setGroup_bringup (s : State) (g : GId) (v : Group) : (s.setGroup g v).bringup = s.bringup := rfl
@[simp] theorem setGroup_firmware (s : State) (g : GId) (v : Group) : (s.setGroup g v).firmware = s.firmware := rfl
@[simp] theorem setGroup_sdreqs (s : State) (g : GId) (v : Group) : (s.setGroup g v).sdreqs = s.sdreqs := rfl
@[simp] theorem setGroup_sdstat (s : State) (g : GId) (v : Group) : (s.setGroup g v).sdstat = s.sdstat := rfl
@[simp] theorem setGroup_escidx (s : State) (g : GId) (v : Group) : (s.setGroup g v).escidx = s.escidx := rfl
@[simp] theorem setGroup_ports (s : State) (g : GId) (v : Group) : (s.setGroup g v).ports = s.ports := rfl
@[simp] theorem setGroup_boomOps (s : State) (g : GId) (v : Group) : (s.setGroup g v).boomOps = s.boomOps := rfl
@[simp] theorem setGroup_boomSent (s : State) (g : GId) (v : Group) : (s.setGroup g v).boomSent = s.boomSent := rfl
@[simp] theorem setGroup_boomWaiting (s : State) (g : GId) (v : Group) : (s.setGroup g v).boomWaiting = s.boomWaiting := rfl
@[simp] theorem setGroup_boomSeq (s : State) (g : GId) (v : Group) : (s.setGroup g v).boomSeq = s.boomSeq := rfl
@[simp] theorem setGroup_nextId (s : State) (g : GId) (v : Group) : (s.setGroup g v).nextId = s.nextId := rfl
@[simp] theorem setGroup_bad (s : State) (g : GId) (v : Group) : (s.setGroup g v).bad = s.bad := rfl
@[simp] theorem setGroup_lost (s : State) (g : GId) (v : Group) : (s.setGroup g v).lost = s.lost := rfl
@[simp] theorem setGroup_halfCycle (s : State) (g : GId) (v : Group) : (s.setGroup g v).halfCycle = s.halfCycle := rfl
@[simp] theorem setGroup_datagrams (s : State) (g : GId) (v : Group) : (s.setGroup g v).datagrams = s.datagrams := rfl
@[simp] theorem setGroup_nextOrder (s : State) (g : GId) (v : Group) : (s.setGroup g v).nextOrder = s.nextOrder := rfl
@[simp] theorem setGroup_tagCtx (s : State) (g : GId) (v : Group) : (s.setGroup g v).tagCtx = s.tagCtx := rfl

@[simp] theorem updGroup_part (s : State) (g : GId) (f : Group → Group) : (s.updGroup g f).part = s.part := rfl
@[simp] theorem updGroup_sched (s : State) (g : GId) (f : Group → Group) : (s.updGroup g f).sched = s.sched := rfl
@[simp] theorem updGroup_cur (s : State) (g : GId) (f : Group → Group) : (s.updGroup g f).cur = s.cur := rfl
@[simp] theorem updGroup_iss (s : State) (g : GId) (f : Group → Group) : (s.updGroup g f).iss = s.iss := rfl
@[simp] theorem updGroup_wgs (s : State) (g : GId) (f : Group → Group) : (s.updGroup g f).wgs = s.wgs := rfl
@[simp] theorem updGroup_cores (s : State) (g : GId) (f : Group → Group) : (s.updGroup g f).cores = s.cores := rfl
@[simp] theorem updGroup_launches (s : State) (g : GId) (f : Group → Group) : (s.updGroup g f).launches = s.launches := rfl
@[simp] theorem updGroup_queues (s : State) (g : GId) (f : Group → Group) : (s.updGroup g f).queues = s.queues := rfl
@[simp] theorem updGroup_forwarded (s : State) (g : GId) (f : Group → Group) : (s.updGroup g f).forwarded = s.forwarded := rfl
@[simp] theorem updGroup_nrefused (s : State) (g : GId) (f : Group → Group) : (s.updGroup g f).nrefused = s.nrefused := rfl
@[simp] theorem updGroup_yarders (s : State) (g : GId) (f : Group → Group) : (s.updGroup g f).yarders = s.yarders := rfl
@[simp] theorem updGroup_mem (s : State) (g : GId) (f : Group → Group) : (s.updGroup g f).mem = s.mem := rfl
@[simp] theorem updGroup_tiles (s : State) (g : GId) (f : Group → Group) : (s.updGroup g f).tiles = s.tiles := rfl
@[simp] theorem updGroup_tlb (s : State) (g : GId) (f : Group → Group) : (s.updGroup g f).tlb = s.tlb := rfl
@[simp] theorem updGroup_predictor (s : State) (g : GId) (f : Group → Group) : (s.updGroup g f).predictor = s.predictor := rfl
@[simp] theorem updGroup_regs (s : State) (g : GId) (f : Group → Group) : (s.updGroup g f).regs = s.regs := rfl
@[simp] theorem updGroup_atab (s : State) (g : GId) (f : Group → Group) : (s.updGroup g f).atab = s.atab := rfl
@[simp] theorem updGroup_atLow (s : State) (g : GId) (f : Group → Group) : (s.updGroup g f).atLow = s.atLow := rfl
@[simp] theorem updGroup_atsel (s : State) (g : GId) (f : Group → Group) : (s.updGroup g f).atsel = s.atsel := rfl
@[simp] theorem updGroup_dtime (s : State) (g : GId) (f : Group → Group) : (s.updGroup g f).dtime = s.dtime := rfl
@[simp] theorem updGroup_clkCur (s : State) (g : GId) (f : Group → Group) : (s.updGroup g f).clkCur = s.clkCur := rfl
@[simp] theorem updGroup_clkSet (s : State) (g : GId) (f : Group → Group) : (s.updGroup g f).clkSet = s.clkSet := rfl
@[simp] theorem updGroup_clkPend (s : State) (g : GId) (f : Group → Group) : (s.updGroup g f).clkPend = s.clkPend := rfl
@[simp] theorem updGroup_pwrgate (s : State) (g : GId) (f : Group → Group) : (s.updGroup g f).pwrgate = s.pwrgate := rfl
@[simp] theorem updGroup_thermstat (s : State) (g : GId) (f : Group → Group) : (s.updGroup g f).thermstat = s.thermstat := rfl
@[simp] theorem updGroup_stopped (s : State) (g : GId) (f : Group → Group) : (s.updGroup g f).stopped = s.stopped := rfl
@[simp] theorem updGroup_bringup (s : State) (g : GId) (f : Group → Group) : (s.updGroup g f).bringup = s.bringup := rfl
@[simp] theorem updGroup_firmware (s : State) (g : GId) (f : Group → Group) : (s.updGroup g f).firmware = s.firmware := rfl
@[simp] theorem updGroup_sdreqs (s : State) (g : GId) (f : Group → Group) : (s.updGroup g f).sdreqs = s.sdreqs := rfl
@[simp] theorem updGroup_sdstat (s : State) (g : GId) (f : Group → Group) : (s.updGroup g f).sdstat = s.sdstat := rfl
@[simp] theorem updGroup_escidx (s : State) (g : GId) (f : Group → Group) : (s.updGroup g f).escidx = s.escidx := rfl
@[simp] theorem updGroup_ports (s : State) (g : GId) (f : Group → Group) : (s.updGroup g f).ports = s.ports := rfl
@[simp] theorem updGroup_boomOps (s : State) (g : GId) (f : Group → Group) : (s.updGroup g f).boomOps = s.boomOps := rfl
@[simp] theorem updGroup_boomSent (s : State) (g : GId) (f : Group → Group) : (s.updGroup g f).boomSent = s.boomSent := rfl
@[simp] theorem updGroup_boomWaiting (s : State) (g : GId) (f : Group → Group) : (s.updGroup g f).boomWaiting = s.boomWaiting := rfl
@[simp] theorem updGroup_boomSeq (s : State) (g : GId) (f : Group → Group) : (s.updGroup g f).boomSeq = s.boomSeq := rfl
@[simp] theorem updGroup_nextId (s : State) (g : GId) (f : Group → Group) : (s.updGroup g f).nextId = s.nextId := rfl
@[simp] theorem updGroup_bad (s : State) (g : GId) (f : Group → Group) : (s.updGroup g f).bad = s.bad := rfl
@[simp] theorem updGroup_lost (s : State) (g : GId) (f : Group → Group) : (s.updGroup g f).lost = s.lost := rfl
@[simp] theorem updGroup_halfCycle (s : State) (g : GId) (f : Group → Group) : (s.updGroup g f).halfCycle = s.halfCycle := rfl
@[simp] theorem updGroup_datagrams (s : State) (g : GId) (f : Group → Group) : (s.updGroup g f).datagrams = s.datagrams := rfl
@[simp] theorem updGroup_nextOrder (s : State) (g : GId) (f : Group → Group) : (s.updGroup g f).nextOrder = s.nextOrder := rfl
@[simp] theorem updGroup_tagCtx (s : State) (g : GId) (f : Group → Group) : (s.updGroup g f).tagCtx = s.tagCtx := rfl

@[simp] theorem updWg_part (s : State) (a b : Nat) (f : Workgroup → Workgroup) : (s.updWg a b f).part = s.part := rfl
@[simp] theorem updWg_sched (s : State) (a b : Nat) (f : Workgroup → Workgroup) : (s.updWg a b f).sched = s.sched := rfl
@[simp] theorem updWg_cur (s : State) (a b : Nat) (f : Workgroup → Workgroup) : (s.updWg a b f).cur = s.cur := rfl
@[simp] theorem updWg_iss (s : State) (a b : Nat) (f : Workgroup → Workgroup) : (s.updWg a b f).iss = s.iss := rfl
@[simp] theorem updWg_groups (s : State) (a b : Nat) (f : Workgroup → Workgroup) : (s.updWg a b f).groups = s.groups := rfl
@[simp] theorem updWg_cores (s : State) (a b : Nat) (f : Workgroup → Workgroup) : (s.updWg a b f).cores = s.cores := rfl
@[simp] theorem updWg_launches (s : State) (a b : Nat) (f : Workgroup → Workgroup) : (s.updWg a b f).launches = s.launches := rfl
@[simp] theorem updWg_queues (s : State) (a b : Nat) (f : Workgroup → Workgroup) : (s.updWg a b f).queues = s.queues := rfl
@[simp] theorem updWg_forwarded (s : State) (a b : Nat) (f : Workgroup → Workgroup) : (s.updWg a b f).forwarded = s.forwarded := rfl
@[simp] theorem updWg_nrefused (s : State) (a b : Nat) (f : Workgroup → Workgroup) : (s.updWg a b f).nrefused = s.nrefused := rfl
@[simp] theorem updWg_yarders (s : State) (a b : Nat) (f : Workgroup → Workgroup) : (s.updWg a b f).yarders = s.yarders := rfl
@[simp] theorem updWg_mem (s : State) (a b : Nat) (f : Workgroup → Workgroup) : (s.updWg a b f).mem = s.mem := rfl
@[simp] theorem updWg_tiles (s : State) (a b : Nat) (f : Workgroup → Workgroup) : (s.updWg a b f).tiles = s.tiles := rfl
@[simp] theorem updWg_tlb (s : State) (a b : Nat) (f : Workgroup → Workgroup) : (s.updWg a b f).tlb = s.tlb := rfl
@[simp] theorem updWg_predictor (s : State) (a b : Nat) (f : Workgroup → Workgroup) : (s.updWg a b f).predictor = s.predictor := rfl
@[simp] theorem updWg_regs (s : State) (a b : Nat) (f : Workgroup → Workgroup) : (s.updWg a b f).regs = s.regs := rfl
@[simp] theorem updWg_atab (s : State) (a b : Nat) (f : Workgroup → Workgroup) : (s.updWg a b f).atab = s.atab := rfl
@[simp] theorem updWg_atLow (s : State) (a b : Nat) (f : Workgroup → Workgroup) : (s.updWg a b f).atLow = s.atLow := rfl
@[simp] theorem updWg_atsel (s : State) (a b : Nat) (f : Workgroup → Workgroup) : (s.updWg a b f).atsel = s.atsel := rfl
@[simp] theorem updWg_dtime (s : State) (a b : Nat) (f : Workgroup → Workgroup) : (s.updWg a b f).dtime = s.dtime := rfl
@[simp] theorem updWg_clkCur (s : State) (a b : Nat) (f : Workgroup → Workgroup) : (s.updWg a b f).clkCur = s.clkCur := rfl
@[simp] theorem updWg_clkSet (s : State) (a b : Nat) (f : Workgroup → Workgroup) : (s.updWg a b f).clkSet = s.clkSet := rfl
@[simp] theorem updWg_clkPend (s : State) (a b : Nat) (f : Workgroup → Workgroup) : (s.updWg a b f).clkPend = s.clkPend := rfl
@[simp] theorem updWg_pwrgate (s : State) (a b : Nat) (f : Workgroup → Workgroup) : (s.updWg a b f).pwrgate = s.pwrgate := rfl
@[simp] theorem updWg_thermstat (s : State) (a b : Nat) (f : Workgroup → Workgroup) : (s.updWg a b f).thermstat = s.thermstat := rfl
@[simp] theorem updWg_stopped (s : State) (a b : Nat) (f : Workgroup → Workgroup) : (s.updWg a b f).stopped = s.stopped := rfl
@[simp] theorem updWg_bringup (s : State) (a b : Nat) (f : Workgroup → Workgroup) : (s.updWg a b f).bringup = s.bringup := rfl
@[simp] theorem updWg_firmware (s : State) (a b : Nat) (f : Workgroup → Workgroup) : (s.updWg a b f).firmware = s.firmware := rfl
@[simp] theorem updWg_sdreqs (s : State) (a b : Nat) (f : Workgroup → Workgroup) : (s.updWg a b f).sdreqs = s.sdreqs := rfl
@[simp] theorem updWg_sdstat (s : State) (a b : Nat) (f : Workgroup → Workgroup) : (s.updWg a b f).sdstat = s.sdstat := rfl
@[simp] theorem updWg_escidx (s : State) (a b : Nat) (f : Workgroup → Workgroup) : (s.updWg a b f).escidx = s.escidx := rfl
@[simp] theorem updWg_ports (s : State) (a b : Nat) (f : Workgroup → Workgroup) : (s.updWg a b f).ports = s.ports := rfl
@[simp] theorem updWg_boomOps (s : State) (a b : Nat) (f : Workgroup → Workgroup) : (s.updWg a b f).boomOps = s.boomOps := rfl
@[simp] theorem updWg_boomSent (s : State) (a b : Nat) (f : Workgroup → Workgroup) : (s.updWg a b f).boomSent = s.boomSent := rfl
@[simp] theorem updWg_boomWaiting (s : State) (a b : Nat) (f : Workgroup → Workgroup) : (s.updWg a b f).boomWaiting = s.boomWaiting := rfl
@[simp] theorem updWg_boomSeq (s : State) (a b : Nat) (f : Workgroup → Workgroup) : (s.updWg a b f).boomSeq = s.boomSeq := rfl
@[simp] theorem updWg_nextId (s : State) (a b : Nat) (f : Workgroup → Workgroup) : (s.updWg a b f).nextId = s.nextId := rfl
@[simp] theorem updWg_bad (s : State) (a b : Nat) (f : Workgroup → Workgroup) : (s.updWg a b f).bad = s.bad := rfl
@[simp] theorem updWg_lost (s : State) (a b : Nat) (f : Workgroup → Workgroup) : (s.updWg a b f).lost = s.lost := rfl
@[simp] theorem updWg_halfCycle (s : State) (a b : Nat) (f : Workgroup → Workgroup) : (s.updWg a b f).halfCycle = s.halfCycle := rfl
@[simp] theorem updWg_datagrams (s : State) (a b : Nat) (f : Workgroup → Workgroup) : (s.updWg a b f).datagrams = s.datagrams := rfl
@[simp] theorem updWg_nextOrder (s : State) (a b : Nat) (f : Workgroup → Workgroup) : (s.updWg a b f).nextOrder = s.nextOrder := rfl
@[simp] theorem updWg_tagCtx (s : State) (a b : Nat) (f : Workgroup → Workgroup) : (s.updWg a b f).tagCtx = s.tagCtx := rfl

@[simp] theorem updCore_part (s : State) (c : Nat) (f : Core → Core) : (s.updCore c f).part = s.part := rfl
@[simp] theorem updCore_sched (s : State) (c : Nat) (f : Core → Core) : (s.updCore c f).sched = s.sched := rfl
@[simp] theorem updCore_cur (s : State) (c : Nat) (f : Core → Core) : (s.updCore c f).cur = s.cur := rfl
@[simp] theorem updCore_iss (s : State) (c : Nat) (f : Core → Core) : (s.updCore c f).iss = s.iss := rfl
@[simp] theorem updCore_groups (s : State) (c : Nat) (f : Core → Core) : (s.updCore c f).groups = s.groups := rfl
@[simp] theorem updCore_wgs (s : State) (c : Nat) (f : Core → Core) : (s.updCore c f).wgs = s.wgs := rfl
@[simp] theorem updCore_launches (s : State) (c : Nat) (f : Core → Core) : (s.updCore c f).launches = s.launches := rfl
@[simp] theorem updCore_queues (s : State) (c : Nat) (f : Core → Core) : (s.updCore c f).queues = s.queues := rfl
@[simp] theorem updCore_forwarded (s : State) (c : Nat) (f : Core → Core) : (s.updCore c f).forwarded = s.forwarded := rfl
@[simp] theorem updCore_nrefused (s : State) (c : Nat) (f : Core → Core) : (s.updCore c f).nrefused = s.nrefused := rfl
@[simp] theorem updCore_yarders (s : State) (c : Nat) (f : Core → Core) : (s.updCore c f).yarders = s.yarders := rfl
@[simp] theorem updCore_mem (s : State) (c : Nat) (f : Core → Core) : (s.updCore c f).mem = s.mem := rfl
@[simp] theorem updCore_tiles (s : State) (c : Nat) (f : Core → Core) : (s.updCore c f).tiles = s.tiles := rfl
@[simp] theorem updCore_tlb (s : State) (c : Nat) (f : Core → Core) : (s.updCore c f).tlb = s.tlb := rfl
@[simp] theorem updCore_predictor (s : State) (c : Nat) (f : Core → Core) : (s.updCore c f).predictor = s.predictor := rfl
@[simp] theorem updCore_regs (s : State) (c : Nat) (f : Core → Core) : (s.updCore c f).regs = s.regs := rfl
@[simp] theorem updCore_atab (s : State) (c : Nat) (f : Core → Core) : (s.updCore c f).atab = s.atab := rfl
@[simp] theorem updCore_atLow (s : State) (c : Nat) (f : Core → Core) : (s.updCore c f).atLow = s.atLow := rfl
@[simp] theorem updCore_atsel (s : State) (c : Nat) (f : Core → Core) : (s.updCore c f).atsel = s.atsel := rfl
@[simp] theorem updCore_dtime (s : State) (c : Nat) (f : Core → Core) : (s.updCore c f).dtime = s.dtime := rfl
@[simp] theorem updCore_clkCur (s : State) (c : Nat) (f : Core → Core) : (s.updCore c f).clkCur = s.clkCur := rfl
@[simp] theorem updCore_clkSet (s : State) (c : Nat) (f : Core → Core) : (s.updCore c f).clkSet = s.clkSet := rfl
@[simp] theorem updCore_clkPend (s : State) (c : Nat) (f : Core → Core) : (s.updCore c f).clkPend = s.clkPend := rfl
@[simp] theorem updCore_pwrgate (s : State) (c : Nat) (f : Core → Core) : (s.updCore c f).pwrgate = s.pwrgate := rfl
@[simp] theorem updCore_thermstat (s : State) (c : Nat) (f : Core → Core) : (s.updCore c f).thermstat = s.thermstat := rfl
@[simp] theorem updCore_stopped (s : State) (c : Nat) (f : Core → Core) : (s.updCore c f).stopped = s.stopped := rfl
@[simp] theorem updCore_bringup (s : State) (c : Nat) (f : Core → Core) : (s.updCore c f).bringup = s.bringup := rfl
@[simp] theorem updCore_firmware (s : State) (c : Nat) (f : Core → Core) : (s.updCore c f).firmware = s.firmware := rfl
@[simp] theorem updCore_sdreqs (s : State) (c : Nat) (f : Core → Core) : (s.updCore c f).sdreqs = s.sdreqs := rfl
@[simp] theorem updCore_sdstat (s : State) (c : Nat) (f : Core → Core) : (s.updCore c f).sdstat = s.sdstat := rfl
@[simp] theorem updCore_escidx (s : State) (c : Nat) (f : Core → Core) : (s.updCore c f).escidx = s.escidx := rfl
@[simp] theorem updCore_ports (s : State) (c : Nat) (f : Core → Core) : (s.updCore c f).ports = s.ports := rfl
@[simp] theorem updCore_boomOps (s : State) (c : Nat) (f : Core → Core) : (s.updCore c f).boomOps = s.boomOps := rfl
@[simp] theorem updCore_boomSent (s : State) (c : Nat) (f : Core → Core) : (s.updCore c f).boomSent = s.boomSent := rfl
@[simp] theorem updCore_boomWaiting (s : State) (c : Nat) (f : Core → Core) : (s.updCore c f).boomWaiting = s.boomWaiting := rfl
@[simp] theorem updCore_boomSeq (s : State) (c : Nat) (f : Core → Core) : (s.updCore c f).boomSeq = s.boomSeq := rfl
@[simp] theorem updCore_nextId (s : State) (c : Nat) (f : Core → Core) : (s.updCore c f).nextId = s.nextId := rfl
@[simp] theorem updCore_bad (s : State) (c : Nat) (f : Core → Core) : (s.updCore c f).bad = s.bad := rfl
@[simp] theorem updCore_lost (s : State) (c : Nat) (f : Core → Core) : (s.updCore c f).lost = s.lost := rfl
@[simp] theorem updCore_halfCycle (s : State) (c : Nat) (f : Core → Core) : (s.updCore c f).halfCycle = s.halfCycle := rfl
@[simp] theorem updCore_datagrams (s : State) (c : Nat) (f : Core → Core) : (s.updCore c f).datagrams = s.datagrams := rfl
@[simp] theorem updCore_nextOrder (s : State) (c : Nat) (f : Core → Core) : (s.updCore c f).nextOrder = s.nextOrder := rfl
@[simp] theorem updCore_tagCtx (s : State) (c : Nat) (f : Core → Core) : (s.updCore c f).tagCtx = s.tagCtx := rfl

@[simp] theorem updLaunch_part (s : State) (n : Nat) (f : Launch → Launch) : (s.updLaunch n f).part = s.part := rfl
@[simp] theorem updLaunch_sched (s : State) (n : Nat) (f : Launch → Launch) : (s.updLaunch n f).sched = s.sched := rfl
@[simp] theorem updLaunch_cur (s : State) (n : Nat) (f : Launch → Launch) : (s.updLaunch n f).cur = s.cur := rfl
@[simp] theorem updLaunch_iss (s : State) (n : Nat) (f : Launch → Launch) : (s.updLaunch n f).iss = s.iss := rfl
@[simp] theorem updLaunch_groups (s : State) (n : Nat) (f : Launch → Launch) : (s.updLaunch n f).groups = s.groups := rfl
@[simp] theorem updLaunch_wgs (s : State) (n : Nat) (f : Launch → Launch) : (s.updLaunch n f).wgs = s.wgs := rfl
@[simp] theorem updLaunch_cores (s : State) (n : Nat) (f : Launch → Launch) : (s.updLaunch n f).cores = s.cores := rfl
@[simp] theorem updLaunch_queues (s : State) (n : Nat) (f : Launch → Launch) : (s.updLaunch n f).queues = s.queues := rfl
@[simp] theorem updLaunch_forwarded (s : State) (n : Nat) (f : Launch → Launch) : (s.updLaunch n f).forwarded = s.forwarded := rfl
@[simp] theorem updLaunch_nrefused (s : State) (n : Nat) (f : Launch → Launch) : (s.updLaunch n f).nrefused = s.nrefused := rfl
@[simp] theorem updLaunch_yarders (s : State) (n : Nat) (f : Launch → Launch) : (s.updLaunch n f).yarders = s.yarders := rfl
@[simp] theorem updLaunch_mem (s : State) (n : Nat) (f : Launch → Launch) : (s.updLaunch n f).mem = s.mem := rfl
@[simp] theorem updLaunch_tiles (s : State) (n : Nat) (f : Launch → Launch) : (s.updLaunch n f).tiles = s.tiles := rfl
@[simp] theorem updLaunch_tlb (s : State) (n : Nat) (f : Launch → Launch) : (s.updLaunch n f).tlb = s.tlb := rfl
@[simp] theorem updLaunch_predictor (s : State) (n : Nat) (f : Launch → Launch) : (s.updLaunch n f).predictor = s.predictor := rfl
@[simp] theorem updLaunch_regs (s : State) (n : Nat) (f : Launch → Launch) : (s.updLaunch n f).regs = s.regs := rfl
@[simp] theorem updLaunch_atab (s : State) (n : Nat) (f : Launch → Launch) : (s.updLaunch n f).atab = s.atab := rfl
@[simp] theorem updLaunch_atLow (s : State) (n : Nat) (f : Launch → Launch) : (s.updLaunch n f).atLow = s.atLow := rfl
@[simp] theorem updLaunch_atsel (s : State) (n : Nat) (f : Launch → Launch) : (s.updLaunch n f).atsel = s.atsel := rfl
@[simp] theorem updLaunch_dtime (s : State) (n : Nat) (f : Launch → Launch) : (s.updLaunch n f).dtime = s.dtime := rfl
@[simp] theorem updLaunch_clkCur (s : State) (n : Nat) (f : Launch → Launch) : (s.updLaunch n f).clkCur = s.clkCur := rfl
@[simp] theorem updLaunch_clkSet (s : State) (n : Nat) (f : Launch → Launch) : (s.updLaunch n f).clkSet = s.clkSet := rfl
@[simp] theorem updLaunch_clkPend (s : State) (n : Nat) (f : Launch → Launch) : (s.updLaunch n f).clkPend = s.clkPend := rfl
@[simp] theorem updLaunch_pwrgate (s : State) (n : Nat) (f : Launch → Launch) : (s.updLaunch n f).pwrgate = s.pwrgate := rfl
@[simp] theorem updLaunch_thermstat (s : State) (n : Nat) (f : Launch → Launch) : (s.updLaunch n f).thermstat = s.thermstat := rfl
@[simp] theorem updLaunch_stopped (s : State) (n : Nat) (f : Launch → Launch) : (s.updLaunch n f).stopped = s.stopped := rfl
@[simp] theorem updLaunch_bringup (s : State) (n : Nat) (f : Launch → Launch) : (s.updLaunch n f).bringup = s.bringup := rfl
@[simp] theorem updLaunch_firmware (s : State) (n : Nat) (f : Launch → Launch) : (s.updLaunch n f).firmware = s.firmware := rfl
@[simp] theorem updLaunch_sdreqs (s : State) (n : Nat) (f : Launch → Launch) : (s.updLaunch n f).sdreqs = s.sdreqs := rfl
@[simp] theorem updLaunch_sdstat (s : State) (n : Nat) (f : Launch → Launch) : (s.updLaunch n f).sdstat = s.sdstat := rfl
@[simp] theorem updLaunch_escidx (s : State) (n : Nat) (f : Launch → Launch) : (s.updLaunch n f).escidx = s.escidx := rfl
@[simp] theorem updLaunch_ports (s : State) (n : Nat) (f : Launch → Launch) : (s.updLaunch n f).ports = s.ports := rfl
@[simp] theorem updLaunch_boomOps (s : State) (n : Nat) (f : Launch → Launch) : (s.updLaunch n f).boomOps = s.boomOps := rfl
@[simp] theorem updLaunch_boomSent (s : State) (n : Nat) (f : Launch → Launch) : (s.updLaunch n f).boomSent = s.boomSent := rfl
@[simp] theorem updLaunch_boomWaiting (s : State) (n : Nat) (f : Launch → Launch) : (s.updLaunch n f).boomWaiting = s.boomWaiting := rfl
@[simp] theorem updLaunch_boomSeq (s : State) (n : Nat) (f : Launch → Launch) : (s.updLaunch n f).boomSeq = s.boomSeq := rfl
@[simp] theorem updLaunch_nextId (s : State) (n : Nat) (f : Launch → Launch) : (s.updLaunch n f).nextId = s.nextId := rfl
@[simp] theorem updLaunch_bad (s : State) (n : Nat) (f : Launch → Launch) : (s.updLaunch n f).bad = s.bad := rfl
@[simp] theorem updLaunch_lost (s : State) (n : Nat) (f : Launch → Launch) : (s.updLaunch n f).lost = s.lost := rfl
@[simp] theorem updLaunch_halfCycle (s : State) (n : Nat) (f : Launch → Launch) : (s.updLaunch n f).halfCycle = s.halfCycle := rfl
@[simp] theorem updLaunch_datagrams (s : State) (n : Nat) (f : Launch → Launch) : (s.updLaunch n f).datagrams = s.datagrams := rfl
@[simp] theorem updLaunch_nextOrder (s : State) (n : Nat) (f : Launch → Launch) : (s.updLaunch n f).nextOrder = s.nextOrder := rfl
@[simp] theorem updLaunch_tagCtx (s : State) (n : Nat) (f : Launch → Launch) : (s.updLaunch n f).tagCtx = s.tagCtx := rfl

@[simp] theorem updYarder_part (s : State) (n : Nat) (f : Yarder → Yarder) : (s.updYarder n f).part = s.part := rfl
@[simp] theorem updYarder_sched (s : State) (n : Nat) (f : Yarder → Yarder) : (s.updYarder n f).sched = s.sched := rfl
@[simp] theorem updYarder_cur (s : State) (n : Nat) (f : Yarder → Yarder) : (s.updYarder n f).cur = s.cur := rfl
@[simp] theorem updYarder_iss (s : State) (n : Nat) (f : Yarder → Yarder) : (s.updYarder n f).iss = s.iss := rfl
@[simp] theorem updYarder_groups (s : State) (n : Nat) (f : Yarder → Yarder) : (s.updYarder n f).groups = s.groups := rfl
@[simp] theorem updYarder_wgs (s : State) (n : Nat) (f : Yarder → Yarder) : (s.updYarder n f).wgs = s.wgs := rfl
@[simp] theorem updYarder_cores (s : State) (n : Nat) (f : Yarder → Yarder) : (s.updYarder n f).cores = s.cores := rfl
@[simp] theorem updYarder_launches (s : State) (n : Nat) (f : Yarder → Yarder) : (s.updYarder n f).launches = s.launches := rfl
@[simp] theorem updYarder_queues (s : State) (n : Nat) (f : Yarder → Yarder) : (s.updYarder n f).queues = s.queues := rfl
@[simp] theorem updYarder_forwarded (s : State) (n : Nat) (f : Yarder → Yarder) : (s.updYarder n f).forwarded = s.forwarded := rfl
@[simp] theorem updYarder_nrefused (s : State) (n : Nat) (f : Yarder → Yarder) : (s.updYarder n f).nrefused = s.nrefused := rfl
@[simp] theorem updYarder_mem (s : State) (n : Nat) (f : Yarder → Yarder) : (s.updYarder n f).mem = s.mem := rfl
@[simp] theorem updYarder_tiles (s : State) (n : Nat) (f : Yarder → Yarder) : (s.updYarder n f).tiles = s.tiles := rfl
@[simp] theorem updYarder_tlb (s : State) (n : Nat) (f : Yarder → Yarder) : (s.updYarder n f).tlb = s.tlb := rfl
@[simp] theorem updYarder_predictor (s : State) (n : Nat) (f : Yarder → Yarder) : (s.updYarder n f).predictor = s.predictor := rfl
@[simp] theorem updYarder_regs (s : State) (n : Nat) (f : Yarder → Yarder) : (s.updYarder n f).regs = s.regs := rfl
@[simp] theorem updYarder_atab (s : State) (n : Nat) (f : Yarder → Yarder) : (s.updYarder n f).atab = s.atab := rfl
@[simp] theorem updYarder_atLow (s : State) (n : Nat) (f : Yarder → Yarder) : (s.updYarder n f).atLow = s.atLow := rfl
@[simp] theorem updYarder_atsel (s : State) (n : Nat) (f : Yarder → Yarder) : (s.updYarder n f).atsel = s.atsel := rfl
@[simp] theorem updYarder_dtime (s : State) (n : Nat) (f : Yarder → Yarder) : (s.updYarder n f).dtime = s.dtime := rfl
@[simp] theorem updYarder_clkCur (s : State) (n : Nat) (f : Yarder → Yarder) : (s.updYarder n f).clkCur = s.clkCur := rfl
@[simp] theorem updYarder_clkSet (s : State) (n : Nat) (f : Yarder → Yarder) : (s.updYarder n f).clkSet = s.clkSet := rfl
@[simp] theorem updYarder_clkPend (s : State) (n : Nat) (f : Yarder → Yarder) : (s.updYarder n f).clkPend = s.clkPend := rfl
@[simp] theorem updYarder_pwrgate (s : State) (n : Nat) (f : Yarder → Yarder) : (s.updYarder n f).pwrgate = s.pwrgate := rfl
@[simp] theorem updYarder_thermstat (s : State) (n : Nat) (f : Yarder → Yarder) : (s.updYarder n f).thermstat = s.thermstat := rfl
@[simp] theorem updYarder_stopped (s : State) (n : Nat) (f : Yarder → Yarder) : (s.updYarder n f).stopped = s.stopped := rfl
@[simp] theorem updYarder_bringup (s : State) (n : Nat) (f : Yarder → Yarder) : (s.updYarder n f).bringup = s.bringup := rfl
@[simp] theorem updYarder_firmware (s : State) (n : Nat) (f : Yarder → Yarder) : (s.updYarder n f).firmware = s.firmware := rfl
@[simp] theorem updYarder_sdreqs (s : State) (n : Nat) (f : Yarder → Yarder) : (s.updYarder n f).sdreqs = s.sdreqs := rfl
@[simp] theorem updYarder_sdstat (s : State) (n : Nat) (f : Yarder → Yarder) : (s.updYarder n f).sdstat = s.sdstat := rfl
@[simp] theorem updYarder_escidx (s : State) (n : Nat) (f : Yarder → Yarder) : (s.updYarder n f).escidx = s.escidx := rfl
@[simp] theorem updYarder_ports (s : State) (n : Nat) (f : Yarder → Yarder) : (s.updYarder n f).ports = s.ports := rfl
@[simp] theorem updYarder_boomOps (s : State) (n : Nat) (f : Yarder → Yarder) : (s.updYarder n f).boomOps = s.boomOps := rfl
@[simp] theorem updYarder_boomSent (s : State) (n : Nat) (f : Yarder → Yarder) : (s.updYarder n f).boomSent = s.boomSent := rfl
@[simp] theorem updYarder_boomWaiting (s : State) (n : Nat) (f : Yarder → Yarder) : (s.updYarder n f).boomWaiting = s.boomWaiting := rfl
@[simp] theorem updYarder_boomSeq (s : State) (n : Nat) (f : Yarder → Yarder) : (s.updYarder n f).boomSeq = s.boomSeq := rfl
@[simp] theorem updYarder_nextId (s : State) (n : Nat) (f : Yarder → Yarder) : (s.updYarder n f).nextId = s.nextId := rfl
@[simp] theorem updYarder_bad (s : State) (n : Nat) (f : Yarder → Yarder) : (s.updYarder n f).bad = s.bad := rfl
@[simp] theorem updYarder_lost (s : State) (n : Nat) (f : Yarder → Yarder) : (s.updYarder n f).lost = s.lost := rfl
@[simp] theorem updYarder_halfCycle (s : State) (n : Nat) (f : Yarder → Yarder) : (s.updYarder n f).halfCycle = s.halfCycle := rfl
@[simp] theorem updYarder_datagrams (s : State) (n : Nat) (f : Yarder → Yarder) : (s.updYarder n f).datagrams = s.datagrams := rfl
@[simp] theorem updYarder_nextOrder (s : State) (n : Nat) (f : Yarder → Yarder) : (s.updYarder n f).nextOrder = s.nextOrder := rfl
@[simp] theorem updYarder_tagCtx (s : State) (n : Nat) (f : Yarder → Yarder) : (s.updYarder n f).tagCtx = s.tagCtx := rfl

@[simp] theorem updTile_part (s : State) (n : Nat) (f : Tile → Tile) : (s.updTile n f).part = s.part := rfl
@[simp] theorem updTile_sched (s : State) (n : Nat) (f : Tile → Tile) : (s.updTile n f).sched = s.sched := rfl
@[simp] theorem updTile_cur (s : State) (n : Nat) (f : Tile → Tile) : (s.updTile n f).cur = s.cur := rfl
@[simp] theorem updTile_iss (s : State) (n : Nat) (f : Tile → Tile) : (s.updTile n f).iss = s.iss := rfl
@[simp] theorem updTile_groups (s : State) (n : Nat) (f : Tile → Tile) : (s.updTile n f).groups = s.groups := rfl
@[simp] theorem updTile_wgs (s : State) (n : Nat) (f : Tile → Tile) : (s.updTile n f).wgs = s.wgs := rfl
@[simp] theorem updTile_cores (s : State) (n : Nat) (f : Tile → Tile) : (s.updTile n f).cores = s.cores := rfl
@[simp] theorem updTile_launches (s : State) (n : Nat) (f : Tile → Tile) : (s.updTile n f).launches = s.launches := rfl
@[simp] theorem updTile_queues (s : State) (n : Nat) (f : Tile → Tile) : (s.updTile n f).queues = s.queues := rfl
@[simp] theorem updTile_forwarded (s : State) (n : Nat) (f : Tile → Tile) : (s.updTile n f).forwarded = s.forwarded := rfl
@[simp] theorem updTile_nrefused (s : State) (n : Nat) (f : Tile → Tile) : (s.updTile n f).nrefused = s.nrefused := rfl
@[simp] theorem updTile_yarders (s : State) (n : Nat) (f : Tile → Tile) : (s.updTile n f).yarders = s.yarders := rfl
@[simp] theorem updTile_mem (s : State) (n : Nat) (f : Tile → Tile) : (s.updTile n f).mem = s.mem := rfl
@[simp] theorem updTile_tlb (s : State) (n : Nat) (f : Tile → Tile) : (s.updTile n f).tlb = s.tlb := rfl
@[simp] theorem updTile_predictor (s : State) (n : Nat) (f : Tile → Tile) : (s.updTile n f).predictor = s.predictor := rfl
@[simp] theorem updTile_regs (s : State) (n : Nat) (f : Tile → Tile) : (s.updTile n f).regs = s.regs := rfl
@[simp] theorem updTile_atab (s : State) (n : Nat) (f : Tile → Tile) : (s.updTile n f).atab = s.atab := rfl
@[simp] theorem updTile_atLow (s : State) (n : Nat) (f : Tile → Tile) : (s.updTile n f).atLow = s.atLow := rfl
@[simp] theorem updTile_atsel (s : State) (n : Nat) (f : Tile → Tile) : (s.updTile n f).atsel = s.atsel := rfl
@[simp] theorem updTile_dtime (s : State) (n : Nat) (f : Tile → Tile) : (s.updTile n f).dtime = s.dtime := rfl
@[simp] theorem updTile_clkCur (s : State) (n : Nat) (f : Tile → Tile) : (s.updTile n f).clkCur = s.clkCur := rfl
@[simp] theorem updTile_clkSet (s : State) (n : Nat) (f : Tile → Tile) : (s.updTile n f).clkSet = s.clkSet := rfl
@[simp] theorem updTile_clkPend (s : State) (n : Nat) (f : Tile → Tile) : (s.updTile n f).clkPend = s.clkPend := rfl
@[simp] theorem updTile_pwrgate (s : State) (n : Nat) (f : Tile → Tile) : (s.updTile n f).pwrgate = s.pwrgate := rfl
@[simp] theorem updTile_thermstat (s : State) (n : Nat) (f : Tile → Tile) : (s.updTile n f).thermstat = s.thermstat := rfl
@[simp] theorem updTile_stopped (s : State) (n : Nat) (f : Tile → Tile) : (s.updTile n f).stopped = s.stopped := rfl
@[simp] theorem updTile_bringup (s : State) (n : Nat) (f : Tile → Tile) : (s.updTile n f).bringup = s.bringup := rfl
@[simp] theorem updTile_firmware (s : State) (n : Nat) (f : Tile → Tile) : (s.updTile n f).firmware = s.firmware := rfl
@[simp] theorem updTile_sdreqs (s : State) (n : Nat) (f : Tile → Tile) : (s.updTile n f).sdreqs = s.sdreqs := rfl
@[simp] theorem updTile_sdstat (s : State) (n : Nat) (f : Tile → Tile) : (s.updTile n f).sdstat = s.sdstat := rfl
@[simp] theorem updTile_escidx (s : State) (n : Nat) (f : Tile → Tile) : (s.updTile n f).escidx = s.escidx := rfl
@[simp] theorem updTile_ports (s : State) (n : Nat) (f : Tile → Tile) : (s.updTile n f).ports = s.ports := rfl
@[simp] theorem updTile_boomOps (s : State) (n : Nat) (f : Tile → Tile) : (s.updTile n f).boomOps = s.boomOps := rfl
@[simp] theorem updTile_boomSent (s : State) (n : Nat) (f : Tile → Tile) : (s.updTile n f).boomSent = s.boomSent := rfl
@[simp] theorem updTile_boomWaiting (s : State) (n : Nat) (f : Tile → Tile) : (s.updTile n f).boomWaiting = s.boomWaiting := rfl
@[simp] theorem updTile_boomSeq (s : State) (n : Nat) (f : Tile → Tile) : (s.updTile n f).boomSeq = s.boomSeq := rfl
@[simp] theorem updTile_nextId (s : State) (n : Nat) (f : Tile → Tile) : (s.updTile n f).nextId = s.nextId := rfl
@[simp] theorem updTile_bad (s : State) (n : Nat) (f : Tile → Tile) : (s.updTile n f).bad = s.bad := rfl
@[simp] theorem updTile_lost (s : State) (n : Nat) (f : Tile → Tile) : (s.updTile n f).lost = s.lost := rfl
@[simp] theorem updTile_halfCycle (s : State) (n : Nat) (f : Tile → Tile) : (s.updTile n f).halfCycle = s.halfCycle := rfl
@[simp] theorem updTile_datagrams (s : State) (n : Nat) (f : Tile → Tile) : (s.updTile n f).datagrams = s.datagrams := rfl
@[simp] theorem updTile_nextOrder (s : State) (n : Nat) (f : Tile → Tile) : (s.updTile n f).nextOrder = s.nextOrder := rfl
@[simp] theorem updTile_tagCtx (s : State) (n : Nat) (f : Tile → Tile) : (s.updTile n f).tagCtx = s.tagCtx := rfl

@[simp] theorem updCg_part (s : State) (f : Group → Group) : (updCg s f).part = s.part := rfl
@[simp] theorem updCg_sched (s : State) (f : Group → Group) : (updCg s f).sched = s.sched := rfl
@[simp] theorem updCg_cur (s : State) (f : Group → Group) : (updCg s f).cur = s.cur := rfl
@[simp] theorem updCg_iss (s : State) (f : Group → Group) : (updCg s f).iss = s.iss := rfl
@[simp] theorem updCg_wgs (s : State) (f : Group → Group) : (updCg s f).wgs = s.wgs := rfl
@[simp] theorem updCg_cores (s : State) (f : Group → Group) : (updCg s f).cores = s.cores := rfl
@[simp] theorem updCg_launches (s : State) (f : Group → Group) : (updCg s f).launches = s.launches := rfl
@[simp] theorem updCg_queues (s : State) (f : Group → Group) : (updCg s f).queues = s.queues := rfl
@[simp] theorem updCg_forwarded (s : State) (f : Group → Group) : (updCg s f).forwarded = s.forwarded := rfl
@[simp] theorem updCg_nrefused (s : State) (f : Group → Group) : (updCg s f).nrefused = s.nrefused := rfl
@[simp] theorem updCg_yarders (s : State) (f : Group → Group) : (updCg s f).yarders = s.yarders := rfl
@[simp] theorem updCg_mem (s : State) (f : Group → Group) : (updCg s f).mem = s.mem := rfl
@[simp] theorem updCg_tiles (s : State) (f : Group → Group) : (updCg s f).tiles = s.tiles := rfl
@[simp] theorem updCg_tlb (s : State) (f : Group → Group) : (updCg s f).tlb = s.tlb := rfl
@[simp] theorem updCg_predictor (s : State) (f : Group → Group) : (updCg s f).predictor = s.predictor := rfl
@[simp] theorem updCg_regs (s : State) (f : Group → Group) : (updCg s f).regs = s.regs := rfl
@[simp] theorem updCg_atab (s : State) (f : Group → Group) : (updCg s f).atab = s.atab := rfl
@[simp] theorem updCg_atLow (s : State) (f : Group → Group) : (updCg s f).atLow = s.atLow := rfl
@[simp] theorem updCg_atsel (s : State) (f : Group → Group) : (updCg s f).atsel = s.atsel := rfl
@[simp] theorem updCg_dtime (s : State) (f : Group → Group) : (updCg s f).dtime = s.dtime := rfl
@[simp] theorem updCg_clkCur (s : State) (f : Group → Group) : (updCg s f).clkCur = s.clkCur := rfl
@[simp] theorem updCg_clkSet (s : State) (f : Group → Group) : (updCg s f).clkSet = s.clkSet := rfl
@[simp] theorem updCg_clkPend (s : State) (f : Group → Group) : (updCg s f).clkPend = s.clkPend := rfl
@[simp] theorem updCg_pwrgate (s : State) (f : Group → Group) : (updCg s f).pwrgate = s.pwrgate := rfl
@[simp] theorem updCg_thermstat (s : State) (f : Group → Group) : (updCg s f).thermstat = s.thermstat := rfl
@[simp] theorem updCg_stopped (s : State) (f : Group → Group) : (updCg s f).stopped = s.stopped := rfl
@[simp] theorem updCg_bringup (s : State) (f : Group → Group) : (updCg s f).bringup = s.bringup := rfl
@[simp] theorem updCg_firmware (s : State) (f : Group → Group) : (updCg s f).firmware = s.firmware := rfl
@[simp] theorem updCg_sdreqs (s : State) (f : Group → Group) : (updCg s f).sdreqs = s.sdreqs := rfl
@[simp] theorem updCg_sdstat (s : State) (f : Group → Group) : (updCg s f).sdstat = s.sdstat := rfl
@[simp] theorem updCg_escidx (s : State) (f : Group → Group) : (updCg s f).escidx = s.escidx := rfl
@[simp] theorem updCg_ports (s : State) (f : Group → Group) : (updCg s f).ports = s.ports := rfl
@[simp] theorem updCg_boomOps (s : State) (f : Group → Group) : (updCg s f).boomOps = s.boomOps := rfl
@[simp] theorem updCg_boomSent (s : State) (f : Group → Group) : (updCg s f).boomSent = s.boomSent := rfl
@[simp] theorem updCg_boomWaiting (s : State) (f : Group → Group) : (updCg s f).boomWaiting = s.boomWaiting := rfl
@[simp] theorem updCg_boomSeq (s : State) (f : Group → Group) : (updCg s f).boomSeq = s.boomSeq := rfl
@[simp] theorem updCg_nextId (s : State) (f : Group → Group) : (updCg s f).nextId = s.nextId := rfl
@[simp] theorem updCg_bad (s : State) (f : Group → Group) : (updCg s f).bad = s.bad := rfl
@[simp] theorem updCg_lost (s : State) (f : Group → Group) : (updCg s f).lost = s.lost := rfl
@[simp] theorem updCg_halfCycle (s : State) (f : Group → Group) : (updCg s f).halfCycle = s.halfCycle := rfl
@[simp] theorem updCg_datagrams (s : State) (f : Group → Group) : (updCg s f).datagrams = s.datagrams := rfl
@[simp] theorem updCg_nextOrder (s : State) (f : Group → Group) : (updCg s f).nextOrder = s.nextOrder := rfl
@[simp] theorem updCg_tagCtx (s : State) (f : Group → Group) : (updCg s f).tagCtx = s.tagCtx := rfl

@[simp] theorem updPath_part (s : State) (f : Path → Path) : (updPath s f).part = s.part := rfl
@[simp] theorem updPath_sched (s : State) (f : Path → Path) : (updPath s f).sched = s.sched := rfl
@[simp] theorem updPath_cur (s : State) (f : Path → Path) : (updPath s f).cur = s.cur := rfl
@[simp] theorem updPath_iss (s : State) (f : Path → Path) : (updPath s f).iss = s.iss := rfl
@[simp] theorem updPath_wgs (s : State) (f : Path → Path) : (updPath s f).wgs = s.wgs := rfl
@[simp] theorem updPath_cores (s : State) (f : Path → Path) : (updPath s f).cores = s.cores := rfl
@[simp] theorem updPath_launches (s : State) (f : Path → Path) : (updPath s f).launches = s.launches := rfl
@[simp] theorem updPath_queues (s : State) (f : Path → Path) : (updPath s f).queues = s.queues := rfl
@[simp] theorem updPath_forwarded (s : State) (f : Path → Path) : (updPath s f).forwarded = s.forwarded := rfl
@[simp] theorem updPath_nrefused (s : State) (f : Path → Path) : (updPath s f).nrefused = s.nrefused := rfl
@[simp] theorem updPath_yarders (s : State) (f : Path → Path) : (updPath s f).yarders = s.yarders := rfl
@[simp] theorem updPath_mem (s : State) (f : Path → Path) : (updPath s f).mem = s.mem := rfl
@[simp] theorem updPath_tiles (s : State) (f : Path → Path) : (updPath s f).tiles = s.tiles := rfl
@[simp] theorem updPath_tlb (s : State) (f : Path → Path) : (updPath s f).tlb = s.tlb := rfl
@[simp] theorem updPath_predictor (s : State) (f : Path → Path) : (updPath s f).predictor = s.predictor := rfl
@[simp] theorem updPath_regs (s : State) (f : Path → Path) : (updPath s f).regs = s.regs := rfl
@[simp] theorem updPath_atab (s : State) (f : Path → Path) : (updPath s f).atab = s.atab := rfl
@[simp] theorem updPath_atLow (s : State) (f : Path → Path) : (updPath s f).atLow = s.atLow := rfl
@[simp] theorem updPath_atsel (s : State) (f : Path → Path) : (updPath s f).atsel = s.atsel := rfl
@[simp] theorem updPath_dtime (s : State) (f : Path → Path) : (updPath s f).dtime = s.dtime := rfl
@[simp] theorem updPath_clkCur (s : State) (f : Path → Path) : (updPath s f).clkCur = s.clkCur := rfl
@[simp] theorem updPath_clkSet (s : State) (f : Path → Path) : (updPath s f).clkSet = s.clkSet := rfl
@[simp] theorem updPath_clkPend (s : State) (f : Path → Path) : (updPath s f).clkPend = s.clkPend := rfl
@[simp] theorem updPath_pwrgate (s : State) (f : Path → Path) : (updPath s f).pwrgate = s.pwrgate := rfl
@[simp] theorem updPath_thermstat (s : State) (f : Path → Path) : (updPath s f).thermstat = s.thermstat := rfl
@[simp] theorem updPath_stopped (s : State) (f : Path → Path) : (updPath s f).stopped = s.stopped := rfl
@[simp] theorem updPath_bringup (s : State) (f : Path → Path) : (updPath s f).bringup = s.bringup := rfl
@[simp] theorem updPath_firmware (s : State) (f : Path → Path) : (updPath s f).firmware = s.firmware := rfl
@[simp] theorem updPath_sdreqs (s : State) (f : Path → Path) : (updPath s f).sdreqs = s.sdreqs := rfl
@[simp] theorem updPath_sdstat (s : State) (f : Path → Path) : (updPath s f).sdstat = s.sdstat := rfl
@[simp] theorem updPath_escidx (s : State) (f : Path → Path) : (updPath s f).escidx = s.escidx := rfl
@[simp] theorem updPath_ports (s : State) (f : Path → Path) : (updPath s f).ports = s.ports := rfl
@[simp] theorem updPath_boomOps (s : State) (f : Path → Path) : (updPath s f).boomOps = s.boomOps := rfl
@[simp] theorem updPath_boomSent (s : State) (f : Path → Path) : (updPath s f).boomSent = s.boomSent := rfl
@[simp] theorem updPath_boomWaiting (s : State) (f : Path → Path) : (updPath s f).boomWaiting = s.boomWaiting := rfl
@[simp] theorem updPath_boomSeq (s : State) (f : Path → Path) : (updPath s f).boomSeq = s.boomSeq := rfl
@[simp] theorem updPath_nextId (s : State) (f : Path → Path) : (updPath s f).nextId = s.nextId := rfl
@[simp] theorem updPath_bad (s : State) (f : Path → Path) : (updPath s f).bad = s.bad := rfl
@[simp] theorem updPath_lost (s : State) (f : Path → Path) : (updPath s f).lost = s.lost := rfl
@[simp] theorem updPath_halfCycle (s : State) (f : Path → Path) : (updPath s f).halfCycle = s.halfCycle := rfl
@[simp] theorem updPath_datagrams (s : State) (f : Path → Path) : (updPath s f).datagrams = s.datagrams := rfl
@[simp] theorem updPath_nextOrder (s : State) (f : Path → Path) : (updPath s f).nextOrder = s.nextOrder := rfl
@[simp] theorem updPath_tagCtx (s : State) (f : Path → Path) : (updPath s f).tagCtx = s.tagCtx := rfl

@[simp] theorem putRegByte_part (s : State) (a : Nat) (v : Byte) : (putRegByte s a v).part = s.part := rfl
@[simp] theorem putRegByte_sched (s : State) (a : Nat) (v : Byte) : (putRegByte s a v).sched = s.sched := rfl
@[simp] theorem putRegByte_cur (s : State) (a : Nat) (v : Byte) : (putRegByte s a v).cur = s.cur := rfl
@[simp] theorem putRegByte_iss (s : State) (a : Nat) (v : Byte) : (putRegByte s a v).iss = s.iss := rfl
@[simp] theorem putRegByte_groups (s : State) (a : Nat) (v : Byte) : (putRegByte s a v).groups = s.groups := rfl
@[simp] theorem putRegByte_wgs (s : State) (a : Nat) (v : Byte) : (putRegByte s a v).wgs = s.wgs := rfl
@[simp] theorem putRegByte_cores (s : State) (a : Nat) (v : Byte) : (putRegByte s a v).cores = s.cores := rfl
@[simp] theorem putRegByte_launches (s : State) (a : Nat) (v : Byte) : (putRegByte s a v).launches = s.launches := rfl
@[simp] theorem putRegByte_queues (s : State) (a : Nat) (v : Byte) : (putRegByte s a v).queues = s.queues := rfl
@[simp] theorem putRegByte_forwarded (s : State) (a : Nat) (v : Byte) : (putRegByte s a v).forwarded = s.forwarded := rfl
@[simp] theorem putRegByte_nrefused (s : State) (a : Nat) (v : Byte) : (putRegByte s a v).nrefused = s.nrefused := rfl
@[simp] theorem putRegByte_yarders (s : State) (a : Nat) (v : Byte) : (putRegByte s a v).yarders = s.yarders := rfl
@[simp] theorem putRegByte_mem (s : State) (a : Nat) (v : Byte) : (putRegByte s a v).mem = s.mem := rfl
@[simp] theorem putRegByte_tiles (s : State) (a : Nat) (v : Byte) : (putRegByte s a v).tiles = s.tiles := rfl
@[simp] theorem putRegByte_tlb (s : State) (a : Nat) (v : Byte) : (putRegByte s a v).tlb = s.tlb := rfl
@[simp] theorem putRegByte_predictor (s : State) (a : Nat) (v : Byte) : (putRegByte s a v).predictor = s.predictor := rfl
@[simp] theorem putRegByte_atab (s : State) (a : Nat) (v : Byte) : (putRegByte s a v).atab = s.atab := rfl
@[simp] theorem putRegByte_atLow (s : State) (a : Nat) (v : Byte) : (putRegByte s a v).atLow = s.atLow := rfl
@[simp] theorem putRegByte_atsel (s : State) (a : Nat) (v : Byte) : (putRegByte s a v).atsel = s.atsel := rfl
@[simp] theorem putRegByte_dtime (s : State) (a : Nat) (v : Byte) : (putRegByte s a v).dtime = s.dtime := rfl
@[simp] theorem putRegByte_clkCur (s : State) (a : Nat) (v : Byte) : (putRegByte s a v).clkCur = s.clkCur := rfl
@[simp] theorem putRegByte_clkSet (s : State) (a : Nat) (v : Byte) : (putRegByte s a v).clkSet = s.clkSet := rfl
@[simp] theorem putRegByte_clkPend (s : State) (a : Nat) (v : Byte) : (putRegByte s a v).clkPend = s.clkPend := rfl
@[simp] theorem putRegByte_pwrgate (s : State) (a : Nat) (v : Byte) : (putRegByte s a v).pwrgate = s.pwrgate := rfl
@[simp] theorem putRegByte_thermstat (s : State) (a : Nat) (v : Byte) : (putRegByte s a v).thermstat = s.thermstat := rfl
@[simp] theorem putRegByte_stopped (s : State) (a : Nat) (v : Byte) : (putRegByte s a v).stopped = s.stopped := rfl
@[simp] theorem putRegByte_bringup (s : State) (a : Nat) (v : Byte) : (putRegByte s a v).bringup = s.bringup := rfl
@[simp] theorem putRegByte_firmware (s : State) (a : Nat) (v : Byte) : (putRegByte s a v).firmware = s.firmware := rfl
@[simp] theorem putRegByte_sdreqs (s : State) (a : Nat) (v : Byte) : (putRegByte s a v).sdreqs = s.sdreqs := rfl
@[simp] theorem putRegByte_sdstat (s : State) (a : Nat) (v : Byte) : (putRegByte s a v).sdstat = s.sdstat := rfl
@[simp] theorem putRegByte_escidx (s : State) (a : Nat) (v : Byte) : (putRegByte s a v).escidx = s.escidx := rfl
@[simp] theorem putRegByte_ports (s : State) (a : Nat) (v : Byte) : (putRegByte s a v).ports = s.ports := rfl
@[simp] theorem putRegByte_boomOps (s : State) (a : Nat) (v : Byte) : (putRegByte s a v).boomOps = s.boomOps := rfl
@[simp] theorem putRegByte_boomSent (s : State) (a : Nat) (v : Byte) : (putRegByte s a v).boomSent = s.boomSent := rfl
@[simp] theorem putRegByte_boomWaiting (s : State) (a : Nat) (v : Byte) : (putRegByte s a v).boomWaiting = s.boomWaiting := rfl
@[simp] theorem putRegByte_boomSeq (s : State) (a : Nat) (v : Byte) : (putRegByte s a v).boomSeq = s.boomSeq := rfl
@[simp] theorem putRegByte_nextId (s : State) (a : Nat) (v : Byte) : (putRegByte s a v).nextId = s.nextId := rfl
@[simp] theorem putRegByte_bad (s : State) (a : Nat) (v : Byte) : (putRegByte s a v).bad = s.bad := rfl
@[simp] theorem putRegByte_lost (s : State) (a : Nat) (v : Byte) : (putRegByte s a v).lost = s.lost := rfl
@[simp] theorem putRegByte_halfCycle (s : State) (a : Nat) (v : Byte) : (putRegByte s a v).halfCycle = s.halfCycle := rfl
@[simp] theorem putRegByte_datagrams (s : State) (a : Nat) (v : Byte) : (putRegByte s a v).datagrams = s.datagrams := rfl
@[simp] theorem putRegByte_nextOrder (s : State) (a : Nat) (v : Byte) : (putRegByte s a v).nextOrder = s.nextOrder := rfl
@[simp] theorem putRegByte_tagCtx (s : State) (a : Nat) (v : Byte) : (putRegByte s a v).tagCtx = s.tagCtx := rfl

@[simp] theorem writeV_status (x : Group) (r : VReg) (t : Nat) (v : Lane) : (writeV x r t v).status = x.status := rfl
@[simp] theorem writeV_sregs (x : Group) (r : VReg) (t : Nat) (v : Lane) : (writeV x r t v).sregs = x.sregs := rfl
@[simp] theorem writeV_mregs (x : Group) (r : VReg) (t : Nat) (v : Lane) : (writeV x r t v).mregs = x.mregs := rfl
@[simp] theorem writeV_guards (x : Group) (r : VReg) (t : Nat) (v : Lane) : (writeV x r t v).guards = x.guards := rfl
@[simp] theorem writeV_flags (x : Group) (r : VReg) (t : Nat) (v : Lane) : (writeV x r t v).flags = x.flags := rfl
@[simp] theorem writeV_xpc (x : Group) (r : VReg) (t : Nat) (v : Lane) : (writeV x r t v).xpc = x.xpc := rfl
@[simp] theorem writeV_xcode (x : Group) (r : VReg) (t : Nat) (v : Lane) : (writeV x r t v).xcode = x.xcode := rfl
@[simp] theorem writeV_faultmask (x : Group) (r : VReg) (t : Nat) (v : Lane) : (writeV x r t v).faultmask = x.faultmask := rfl
@[simp] theorem writeV_faultface (x : Group) (r : VReg) (t : Nat) (v : Lane) : (writeV x r t v).faultface = x.faultface := rfl
@[simp] theorem writeV_faultaddr (x : Group) (r : VReg) (t : Nat) (v : Lane) : (writeV x r t v).faultaddr = x.faultaddr := rfl
@[simp] theorem writeV_elcause (x : Group) (r : VReg) (t : Nat) (v : Lane) : (writeV x r t v).elcause = x.elcause := rfl
@[simp] theorem writeV_elcode (x : Group) (r : VReg) (t : Nat) (v : Lane) : (writeV x r t v).elcode = x.elcode := rfl
@[simp] theorem writeV_spord (x : Group) (r : VReg) (t : Nat) (v : Lane) : (writeV x r t v).spord = x.spord := rfl
@[simp] theorem writeV_svc (x : Group) (r : VReg) (t : Nat) (v : Lane) : (writeV x r t v).svc = x.svc := rfl
@[simp] theorem writeV_h (x : Group) (r : VReg) (t : Nat) (v : Lane) : (writeV x r t v).h = x.h := rfl
@[simp] theorem writeV_budleft (x : Group) (r : VReg) (t : Nat) (v : Lane) : (writeV x r t v).budleft = x.budleft := rfl
@[simp] theorem writeV_ck (x : Group) (r : VReg) (t : Nat) (v : Lane) : (writeV x r t v).ck = x.ck := rfl
@[simp] theorem writeV_helper (x : Group) (r : VReg) (t : Nat) (v : Lane) : (writeV x r t v).helper = x.helper := rfl
@[simp] theorem writeV_gone (x : Group) (r : VReg) (t : Nat) (v : Lane) : (writeV x r t v).gone = x.gone := rfl
@[simp] theorem writeV_root (x : Group) (r : VReg) (t : Nat) (v : Lane) : (writeV x r t v).root = x.root := rfl
@[simp] theorem writeV_split (x : Group) (r : VReg) (t : Nat) (v : Lane) : (writeV x r t v).split = x.split := rfl
@[simp] theorem writeV_face (x : Group) (r : VReg) (t : Nat) (v : Lane) : (writeV x r t v).face = x.face := rfl
@[simp] theorem writeV_loops (x : Group) (r : VReg) (t : Nat) (v : Lane) : (writeV x r t v).loops = x.loops := rfl
@[simp] theorem writeV_lc (x : Group) (r : VReg) (t : Nat) (v : Lane) : (writeV x r t v).lc = x.lc := rfl
@[simp] theorem writeV_sc (x : Group) (r : VReg) (t : Nat) (v : Lane) : (writeV x r t v).sc = x.sc := rfl
@[simp] theorem writeV_cc (x : Group) (r : VReg) (t : Nat) (v : Lane) : (writeV x r t v).cc = x.cc := rfl
@[simp] theorem writeV_tc (x : Group) (r : VReg) (t : Nat) (v : Lane) : (writeV x r t v).tc = x.tc := rfl
@[simp] theorem writeV_loadq (x : Group) (r : VReg) (t : Nat) (v : Lane) : (writeV x r t v).loadq = x.loadq := rfl
@[simp] theorem writeV_storeq (x : Group) (r : VReg) (t : Nat) (v : Lane) : (writeV x r t v).storeq = x.storeq := rfl
@[simp] theorem writeV_spin (x : Group) (r : VReg) (t : Nat) (v : Lane) : (writeV x r t v).spin = x.spin := rfl
@[simp] theorem writeV_spinWord (x : Group) (r : VReg) (t : Nat) (v : Lane) : (writeV x r t v).spinWord = x.spinWord := rfl
@[simp] theorem writeV_region (x : Group) (r : VReg) (t : Nat) (v : Lane) : (writeV x r t v).region = x.region := rfl
@[simp] theorem writeV_bars (x : Group) (r : VReg) (t : Nat) (v : Lane) : (writeV x r t v).bars = x.bars := rfl
@[simp] theorem writeV_held (x : Group) (r : VReg) (t : Nat) (v : Lane) : (writeV x r t v).held = x.held := rfl
@[simp] theorem writeV_kept (x : Group) (r : VReg) (t : Nat) (v : Lane) : (writeV x r t v).kept = x.kept := rfl
@[simp] theorem writeV_hist (x : Group) (r : VReg) (t : Nat) (v : Lane) : (writeV x r t v).hist = x.hist := rfl
@[simp] theorem writeV_haltReq (x : Group) (r : VReg) (t : Nat) (v : Lane) : (writeV x r t v).haltReq = x.haltReq := rfl
@[simp] theorem writeV_stepReq (x : Group) (r : VReg) (t : Nat) (v : Lane) : (writeV x r t v).stepReq = x.stepReq := rfl
@[simp] theorem writeV_byHalt (x : Group) (r : VReg) (t : Nat) (v : Lane) : (writeV x r t v).byHalt = x.byHalt := rfl
@[simp] theorem writeV_skip (x : Group) (r : VReg) (t : Nat) (v : Lane) : (writeV x r t v).skip = x.skip := rfl
@[simp] theorem writeV_cutback (x : Group) (r : VReg) (t : Nat) (v : Lane) : (writeV x r t v).cutback = x.cutback := rfl

@[simp] theorem writeGuard_status (x : Group) (k : GReg) (v : Guard) : (writeGuard x k v).status = x.status := rfl
@[simp] theorem writeGuard_sregs (x : Group) (k : GReg) (v : Guard) : (writeGuard x k v).sregs = x.sregs := rfl
@[simp] theorem writeGuard_vregs (x : Group) (k : GReg) (v : Guard) : (writeGuard x k v).vregs = x.vregs := rfl
@[simp] theorem writeGuard_mregs (x : Group) (k : GReg) (v : Guard) : (writeGuard x k v).mregs = x.mregs := rfl
@[simp] theorem writeGuard_flags (x : Group) (k : GReg) (v : Guard) : (writeGuard x k v).flags = x.flags := rfl
@[simp] theorem writeGuard_xpc (x : Group) (k : GReg) (v : Guard) : (writeGuard x k v).xpc = x.xpc := rfl
@[simp] theorem writeGuard_xcode (x : Group) (k : GReg) (v : Guard) : (writeGuard x k v).xcode = x.xcode := rfl
@[simp] theorem writeGuard_faultmask (x : Group) (k : GReg) (v : Guard) : (writeGuard x k v).faultmask = x.faultmask := rfl
@[simp] theorem writeGuard_faultface (x : Group) (k : GReg) (v : Guard) : (writeGuard x k v).faultface = x.faultface := rfl
@[simp] theorem writeGuard_faultaddr (x : Group) (k : GReg) (v : Guard) : (writeGuard x k v).faultaddr = x.faultaddr := rfl
@[simp] theorem writeGuard_elcause (x : Group) (k : GReg) (v : Guard) : (writeGuard x k v).elcause = x.elcause := rfl
@[simp] theorem writeGuard_elcode (x : Group) (k : GReg) (v : Guard) : (writeGuard x k v).elcode = x.elcode := rfl
@[simp] theorem writeGuard_spord (x : Group) (k : GReg) (v : Guard) : (writeGuard x k v).spord = x.spord := rfl
@[simp] theorem writeGuard_svc (x : Group) (k : GReg) (v : Guard) : (writeGuard x k v).svc = x.svc := rfl
@[simp] theorem writeGuard_h (x : Group) (k : GReg) (v : Guard) : (writeGuard x k v).h = x.h := rfl
@[simp] theorem writeGuard_budleft (x : Group) (k : GReg) (v : Guard) : (writeGuard x k v).budleft = x.budleft := rfl
@[simp] theorem writeGuard_ck (x : Group) (k : GReg) (v : Guard) : (writeGuard x k v).ck = x.ck := rfl
@[simp] theorem writeGuard_helper (x : Group) (k : GReg) (v : Guard) : (writeGuard x k v).helper = x.helper := rfl
@[simp] theorem writeGuard_gone (x : Group) (k : GReg) (v : Guard) : (writeGuard x k v).gone = x.gone := rfl
@[simp] theorem writeGuard_root (x : Group) (k : GReg) (v : Guard) : (writeGuard x k v).root = x.root := rfl
@[simp] theorem writeGuard_split (x : Group) (k : GReg) (v : Guard) : (writeGuard x k v).split = x.split := rfl
@[simp] theorem writeGuard_face (x : Group) (k : GReg) (v : Guard) : (writeGuard x k v).face = x.face := rfl
@[simp] theorem writeGuard_loops (x : Group) (k : GReg) (v : Guard) : (writeGuard x k v).loops = x.loops := rfl
@[simp] theorem writeGuard_lc (x : Group) (k : GReg) (v : Guard) : (writeGuard x k v).lc = x.lc := rfl
@[simp] theorem writeGuard_sc (x : Group) (k : GReg) (v : Guard) : (writeGuard x k v).sc = x.sc := rfl
@[simp] theorem writeGuard_cc (x : Group) (k : GReg) (v : Guard) : (writeGuard x k v).cc = x.cc := rfl
@[simp] theorem writeGuard_tc (x : Group) (k : GReg) (v : Guard) : (writeGuard x k v).tc = x.tc := rfl
@[simp] theorem writeGuard_loadq (x : Group) (k : GReg) (v : Guard) : (writeGuard x k v).loadq = x.loadq := rfl
@[simp] theorem writeGuard_storeq (x : Group) (k : GReg) (v : Guard) : (writeGuard x k v).storeq = x.storeq := rfl
@[simp] theorem writeGuard_spin (x : Group) (k : GReg) (v : Guard) : (writeGuard x k v).spin = x.spin := rfl
@[simp] theorem writeGuard_spinWord (x : Group) (k : GReg) (v : Guard) : (writeGuard x k v).spinWord = x.spinWord := rfl
@[simp] theorem writeGuard_region (x : Group) (k : GReg) (v : Guard) : (writeGuard x k v).region = x.region := rfl
@[simp] theorem writeGuard_bars (x : Group) (k : GReg) (v : Guard) : (writeGuard x k v).bars = x.bars := rfl
@[simp] theorem writeGuard_held (x : Group) (k : GReg) (v : Guard) : (writeGuard x k v).held = x.held := rfl
@[simp] theorem writeGuard_kept (x : Group) (k : GReg) (v : Guard) : (writeGuard x k v).kept = x.kept := rfl
@[simp] theorem writeGuard_hist (x : Group) (k : GReg) (v : Guard) : (writeGuard x k v).hist = x.hist := rfl
@[simp] theorem writeGuard_haltReq (x : Group) (k : GReg) (v : Guard) : (writeGuard x k v).haltReq = x.haltReq := rfl
@[simp] theorem writeGuard_stepReq (x : Group) (k : GReg) (v : Guard) : (writeGuard x k v).stepReq = x.stepReq := rfl
@[simp] theorem writeGuard_byHalt (x : Group) (k : GReg) (v : Guard) : (writeGuard x k v).byHalt = x.byHalt := rfl
@[simp] theorem writeGuard_skip (x : Group) (k : GReg) (v : Guard) : (writeGuard x k v).skip = x.skip := rfl
@[simp] theorem writeGuard_cutback (x : Group) (k : GReg) (v : Guard) : (writeGuard x k v).cutback = x.cutback := rfl

@[simp] theorem writeS_status (x : Group) (r : SReg) (v : Word) : (writeS x r v).status = x.status := by unfold writeS; split <;> rfl
@[simp] theorem writeS_vregs (x : Group) (r : SReg) (v : Word) : (writeS x r v).vregs = x.vregs := by unfold writeS; split <;> rfl
@[simp] theorem writeS_mregs (x : Group) (r : SReg) (v : Word) : (writeS x r v).mregs = x.mregs := by unfold writeS; split <;> rfl
@[simp] theorem writeS_guards (x : Group) (r : SReg) (v : Word) : (writeS x r v).guards = x.guards := by unfold writeS; split <;> rfl
@[simp] theorem writeS_flags (x : Group) (r : SReg) (v : Word) : (writeS x r v).flags = x.flags := by unfold writeS; split <;> rfl
@[simp] theorem writeS_xpc (x : Group) (r : SReg) (v : Word) : (writeS x r v).xpc = x.xpc := by unfold writeS; split <;> rfl
@[simp] theorem writeS_xcode (x : Group) (r : SReg) (v : Word) : (writeS x r v).xcode = x.xcode := by unfold writeS; split <;> rfl
@[simp] theorem writeS_faultmask (x : Group) (r : SReg) (v : Word) : (writeS x r v).faultmask = x.faultmask := by unfold writeS; split <;> rfl
@[simp] theorem writeS_faultface (x : Group) (r : SReg) (v : Word) : (writeS x r v).faultface = x.faultface := by unfold writeS; split <;> rfl
@[simp] theorem writeS_faultaddr (x : Group) (r : SReg) (v : Word) : (writeS x r v).faultaddr = x.faultaddr := by unfold writeS; split <;> rfl
@[simp] theorem writeS_elcause (x : Group) (r : SReg) (v : Word) : (writeS x r v).elcause = x.elcause := by unfold writeS; split <;> rfl
@[simp] theorem writeS_elcode (x : Group) (r : SReg) (v : Word) : (writeS x r v).elcode = x.elcode := by unfold writeS; split <;> rfl
@[simp] theorem writeS_spord (x : Group) (r : SReg) (v : Word) : (writeS x r v).spord = x.spord := by unfold writeS; split <;> rfl
@[simp] theorem writeS_svc (x : Group) (r : SReg) (v : Word) : (writeS x r v).svc = x.svc := by unfold writeS; split <;> rfl
@[simp] theorem writeS_h (x : Group) (r : SReg) (v : Word) : (writeS x r v).h = x.h := by unfold writeS; split <;> rfl
@[simp] theorem writeS_budleft (x : Group) (r : SReg) (v : Word) : (writeS x r v).budleft = x.budleft := by unfold writeS; split <;> rfl
@[simp] theorem writeS_ck (x : Group) (r : SReg) (v : Word) : (writeS x r v).ck = x.ck := by unfold writeS; split <;> rfl
@[simp] theorem writeS_helper (x : Group) (r : SReg) (v : Word) : (writeS x r v).helper = x.helper := by unfold writeS; split <;> rfl
@[simp] theorem writeS_gone (x : Group) (r : SReg) (v : Word) : (writeS x r v).gone = x.gone := by unfold writeS; split <;> rfl
@[simp] theorem writeS_root (x : Group) (r : SReg) (v : Word) : (writeS x r v).root = x.root := by unfold writeS; split <;> rfl
@[simp] theorem writeS_split (x : Group) (r : SReg) (v : Word) : (writeS x r v).split = x.split := by unfold writeS; split <;> rfl
@[simp] theorem writeS_face (x : Group) (r : SReg) (v : Word) : (writeS x r v).face = x.face := by unfold writeS; split <;> rfl
@[simp] theorem writeS_loops (x : Group) (r : SReg) (v : Word) : (writeS x r v).loops = x.loops := by unfold writeS; split <;> rfl
@[simp] theorem writeS_lc (x : Group) (r : SReg) (v : Word) : (writeS x r v).lc = x.lc := by unfold writeS; split <;> rfl
@[simp] theorem writeS_sc (x : Group) (r : SReg) (v : Word) : (writeS x r v).sc = x.sc := by unfold writeS; split <;> rfl
@[simp] theorem writeS_cc (x : Group) (r : SReg) (v : Word) : (writeS x r v).cc = x.cc := by unfold writeS; split <;> rfl
@[simp] theorem writeS_tc (x : Group) (r : SReg) (v : Word) : (writeS x r v).tc = x.tc := by unfold writeS; split <;> rfl
@[simp] theorem writeS_loadq (x : Group) (r : SReg) (v : Word) : (writeS x r v).loadq = x.loadq := by unfold writeS; split <;> rfl
@[simp] theorem writeS_storeq (x : Group) (r : SReg) (v : Word) : (writeS x r v).storeq = x.storeq := by unfold writeS; split <;> rfl
@[simp] theorem writeS_spin (x : Group) (r : SReg) (v : Word) : (writeS x r v).spin = x.spin := by unfold writeS; split <;> rfl
@[simp] theorem writeS_spinWord (x : Group) (r : SReg) (v : Word) : (writeS x r v).spinWord = x.spinWord := by unfold writeS; split <;> rfl
@[simp] theorem writeS_region (x : Group) (r : SReg) (v : Word) : (writeS x r v).region = x.region := by unfold writeS; split <;> rfl
@[simp] theorem writeS_bars (x : Group) (r : SReg) (v : Word) : (writeS x r v).bars = x.bars := by unfold writeS; split <;> rfl
@[simp] theorem writeS_held (x : Group) (r : SReg) (v : Word) : (writeS x r v).held = x.held := by unfold writeS; split <;> rfl
@[simp] theorem writeS_kept (x : Group) (r : SReg) (v : Word) : (writeS x r v).kept = x.kept := by unfold writeS; split <;> rfl
@[simp] theorem writeS_hist (x : Group) (r : SReg) (v : Word) : (writeS x r v).hist = x.hist := by unfold writeS; split <;> rfl
@[simp] theorem writeS_haltReq (x : Group) (r : SReg) (v : Word) : (writeS x r v).haltReq = x.haltReq := by unfold writeS; split <;> rfl
@[simp] theorem writeS_stepReq (x : Group) (r : SReg) (v : Word) : (writeS x r v).stepReq = x.stepReq := by unfold writeS; split <;> rfl
@[simp] theorem writeS_byHalt (x : Group) (r : SReg) (v : Word) : (writeS x r v).byHalt = x.byHalt := by unfold writeS; split <;> rfl
@[simp] theorem writeS_skip (x : Group) (r : SReg) (v : Word) : (writeS x r v).skip = x.skip := by unfold writeS; split <;> rfl
@[simp] theorem writeS_cutback (x : Group) (r : SReg) (v : Word) : (writeS x r v).cutback = x.cutback := by unfold writeS; split <;> rfl

@[simp] theorem writeM_status (x : Group) (k : MReg) (v : Word) : (writeM x k v).status = x.status := by unfold writeM; split <;> rfl
@[simp] theorem writeM_sregs (x : Group) (k : MReg) (v : Word) : (writeM x k v).sregs = x.sregs := by unfold writeM; split <;> rfl
@[simp] theorem writeM_vregs (x : Group) (k : MReg) (v : Word) : (writeM x k v).vregs = x.vregs := by unfold writeM; split <;> rfl
@[simp] theorem writeM_guards (x : Group) (k : MReg) (v : Word) : (writeM x k v).guards = x.guards := by unfold writeM; split <;> rfl
@[simp] theorem writeM_flags (x : Group) (k : MReg) (v : Word) : (writeM x k v).flags = x.flags := by unfold writeM; split <;> rfl
@[simp] theorem writeM_xpc (x : Group) (k : MReg) (v : Word) : (writeM x k v).xpc = x.xpc := by unfold writeM; split <;> rfl
@[simp] theorem writeM_xcode (x : Group) (k : MReg) (v : Word) : (writeM x k v).xcode = x.xcode := by unfold writeM; split <;> rfl
@[simp] theorem writeM_faultmask (x : Group) (k : MReg) (v : Word) : (writeM x k v).faultmask = x.faultmask := by unfold writeM; split <;> rfl
@[simp] theorem writeM_faultface (x : Group) (k : MReg) (v : Word) : (writeM x k v).faultface = x.faultface := by unfold writeM; split <;> rfl
@[simp] theorem writeM_faultaddr (x : Group) (k : MReg) (v : Word) : (writeM x k v).faultaddr = x.faultaddr := by unfold writeM; split <;> rfl
@[simp] theorem writeM_elcause (x : Group) (k : MReg) (v : Word) : (writeM x k v).elcause = x.elcause := by unfold writeM; split <;> rfl
@[simp] theorem writeM_elcode (x : Group) (k : MReg) (v : Word) : (writeM x k v).elcode = x.elcode := by unfold writeM; split <;> rfl
@[simp] theorem writeM_spord (x : Group) (k : MReg) (v : Word) : (writeM x k v).spord = x.spord := by unfold writeM; split <;> rfl
@[simp] theorem writeM_svc (x : Group) (k : MReg) (v : Word) : (writeM x k v).svc = x.svc := by unfold writeM; split <;> rfl
@[simp] theorem writeM_h (x : Group) (k : MReg) (v : Word) : (writeM x k v).h = x.h := by unfold writeM; split <;> rfl
@[simp] theorem writeM_budleft (x : Group) (k : MReg) (v : Word) : (writeM x k v).budleft = x.budleft := by unfold writeM; split <;> rfl
@[simp] theorem writeM_ck (x : Group) (k : MReg) (v : Word) : (writeM x k v).ck = x.ck := by unfold writeM; split <;> rfl
@[simp] theorem writeM_helper (x : Group) (k : MReg) (v : Word) : (writeM x k v).helper = x.helper := by unfold writeM; split <;> rfl
@[simp] theorem writeM_gone (x : Group) (k : MReg) (v : Word) : (writeM x k v).gone = x.gone := by unfold writeM; split <;> rfl
@[simp] theorem writeM_root (x : Group) (k : MReg) (v : Word) : (writeM x k v).root = x.root := by unfold writeM; split <;> rfl
@[simp] theorem writeM_split (x : Group) (k : MReg) (v : Word) : (writeM x k v).split = x.split := by unfold writeM; split <;> rfl
@[simp] theorem writeM_face (x : Group) (k : MReg) (v : Word) : (writeM x k v).face = x.face := by unfold writeM; split <;> rfl
@[simp] theorem writeM_loops (x : Group) (k : MReg) (v : Word) : (writeM x k v).loops = x.loops := by unfold writeM; split <;> rfl
@[simp] theorem writeM_lc (x : Group) (k : MReg) (v : Word) : (writeM x k v).lc = x.lc := by unfold writeM; split <;> rfl
@[simp] theorem writeM_sc (x : Group) (k : MReg) (v : Word) : (writeM x k v).sc = x.sc := by unfold writeM; split <;> rfl
@[simp] theorem writeM_cc (x : Group) (k : MReg) (v : Word) : (writeM x k v).cc = x.cc := by unfold writeM; split <;> rfl
@[simp] theorem writeM_tc (x : Group) (k : MReg) (v : Word) : (writeM x k v).tc = x.tc := by unfold writeM; split <;> rfl
@[simp] theorem writeM_loadq (x : Group) (k : MReg) (v : Word) : (writeM x k v).loadq = x.loadq := by unfold writeM; split <;> rfl
@[simp] theorem writeM_storeq (x : Group) (k : MReg) (v : Word) : (writeM x k v).storeq = x.storeq := by unfold writeM; split <;> rfl
@[simp] theorem writeM_spin (x : Group) (k : MReg) (v : Word) : (writeM x k v).spin = x.spin := by unfold writeM; split <;> rfl
@[simp] theorem writeM_spinWord (x : Group) (k : MReg) (v : Word) : (writeM x k v).spinWord = x.spinWord := by unfold writeM; split <;> rfl
@[simp] theorem writeM_region (x : Group) (k : MReg) (v : Word) : (writeM x k v).region = x.region := by unfold writeM; split <;> rfl
@[simp] theorem writeM_bars (x : Group) (k : MReg) (v : Word) : (writeM x k v).bars = x.bars := by unfold writeM; split <;> rfl
@[simp] theorem writeM_held (x : Group) (k : MReg) (v : Word) : (writeM x k v).held = x.held := by unfold writeM; split <;> rfl
@[simp] theorem writeM_kept (x : Group) (k : MReg) (v : Word) : (writeM x k v).kept = x.kept := by unfold writeM; split <;> rfl
@[simp] theorem writeM_hist (x : Group) (k : MReg) (v : Word) : (writeM x k v).hist = x.hist := by unfold writeM; split <;> rfl
@[simp] theorem writeM_haltReq (x : Group) (k : MReg) (v : Word) : (writeM x k v).haltReq = x.haltReq := by unfold writeM; split <;> rfl
@[simp] theorem writeM_stepReq (x : Group) (k : MReg) (v : Word) : (writeM x k v).stepReq = x.stepReq := by unfold writeM; split <;> rfl
@[simp] theorem writeM_byHalt (x : Group) (k : MReg) (v : Word) : (writeM x k v).byHalt = x.byHalt := by unfold writeM; split <;> rfl
@[simp] theorem writeM_skip (x : Group) (k : MReg) (v : Word) : (writeM x k v).skip = x.skip := by unfold writeM; split <;> rfl
@[simp] theorem writeM_cutback (x : Group) (k : MReg) (v : Word) : (writeM x k v).cutback = x.cutback := by unfold writeM; split <;> rfl

@[simp] theorem putPath_status (x : Group) (k : Nat) (p : Path) : (putPath x k p).status = x.status := by unfold putPath; split <;> rfl
@[simp] theorem putPath_sregs (x : Group) (k : Nat) (p : Path) : (putPath x k p).sregs = x.sregs := by unfold putPath; split <;> rfl
@[simp] theorem putPath_vregs (x : Group) (k : Nat) (p : Path) : (putPath x k p).vregs = x.vregs := by unfold putPath; split <;> rfl
@[simp] theorem putPath_mregs (x : Group) (k : Nat) (p : Path) : (putPath x k p).mregs = x.mregs := by unfold putPath; split <;> rfl
@[simp] theorem putPath_guards (x : Group) (k : Nat) (p : Path) : (putPath x k p).guards = x.guards := by unfold putPath; split <;> rfl
@[simp] theorem putPath_flags (x : Group) (k : Nat) (p : Path) : (putPath x k p).flags = x.flags := by unfold putPath; split <;> rfl
@[simp] theorem putPath_xpc (x : Group) (k : Nat) (p : Path) : (putPath x k p).xpc = x.xpc := by unfold putPath; split <;> rfl
@[simp] theorem putPath_xcode (x : Group) (k : Nat) (p : Path) : (putPath x k p).xcode = x.xcode := by unfold putPath; split <;> rfl
@[simp] theorem putPath_faultmask (x : Group) (k : Nat) (p : Path) : (putPath x k p).faultmask = x.faultmask := by unfold putPath; split <;> rfl
@[simp] theorem putPath_faultface (x : Group) (k : Nat) (p : Path) : (putPath x k p).faultface = x.faultface := by unfold putPath; split <;> rfl
@[simp] theorem putPath_faultaddr (x : Group) (k : Nat) (p : Path) : (putPath x k p).faultaddr = x.faultaddr := by unfold putPath; split <;> rfl
@[simp] theorem putPath_elcause (x : Group) (k : Nat) (p : Path) : (putPath x k p).elcause = x.elcause := by unfold putPath; split <;> rfl
@[simp] theorem putPath_elcode (x : Group) (k : Nat) (p : Path) : (putPath x k p).elcode = x.elcode := by unfold putPath; split <;> rfl
@[simp] theorem putPath_spord (x : Group) (k : Nat) (p : Path) : (putPath x k p).spord = x.spord := by unfold putPath; split <;> rfl
@[simp] theorem putPath_svc (x : Group) (k : Nat) (p : Path) : (putPath x k p).svc = x.svc := by unfold putPath; split <;> rfl
@[simp] theorem putPath_h (x : Group) (k : Nat) (p : Path) : (putPath x k p).h = x.h := by unfold putPath; split <;> rfl
@[simp] theorem putPath_budleft (x : Group) (k : Nat) (p : Path) : (putPath x k p).budleft = x.budleft := by unfold putPath; split <;> rfl
@[simp] theorem putPath_ck (x : Group) (k : Nat) (p : Path) : (putPath x k p).ck = x.ck := by unfold putPath; split <;> rfl
@[simp] theorem putPath_helper (x : Group) (k : Nat) (p : Path) : (putPath x k p).helper = x.helper := by unfold putPath; split <;> rfl
@[simp] theorem putPath_gone (x : Group) (k : Nat) (p : Path) : (putPath x k p).gone = x.gone := by unfold putPath; split <;> rfl
@[simp] theorem putPath_face (x : Group) (k : Nat) (p : Path) : (putPath x k p).face = x.face := by unfold putPath; split <;> rfl
@[simp] theorem putPath_loops (x : Group) (k : Nat) (p : Path) : (putPath x k p).loops = x.loops := by unfold putPath; split <;> rfl
@[simp] theorem putPath_lc (x : Group) (k : Nat) (p : Path) : (putPath x k p).lc = x.lc := by unfold putPath; split <;> rfl
@[simp] theorem putPath_sc (x : Group) (k : Nat) (p : Path) : (putPath x k p).sc = x.sc := by unfold putPath; split <;> rfl
@[simp] theorem putPath_cc (x : Group) (k : Nat) (p : Path) : (putPath x k p).cc = x.cc := by unfold putPath; split <;> rfl
@[simp] theorem putPath_tc (x : Group) (k : Nat) (p : Path) : (putPath x k p).tc = x.tc := by unfold putPath; split <;> rfl
@[simp] theorem putPath_loadq (x : Group) (k : Nat) (p : Path) : (putPath x k p).loadq = x.loadq := by unfold putPath; split <;> rfl
@[simp] theorem putPath_storeq (x : Group) (k : Nat) (p : Path) : (putPath x k p).storeq = x.storeq := by unfold putPath; split <;> rfl
@[simp] theorem putPath_spin (x : Group) (k : Nat) (p : Path) : (putPath x k p).spin = x.spin := by unfold putPath; split <;> rfl
@[simp] theorem putPath_spinWord (x : Group) (k : Nat) (p : Path) : (putPath x k p).spinWord = x.spinWord := by unfold putPath; split <;> rfl
@[simp] theorem putPath_region (x : Group) (k : Nat) (p : Path) : (putPath x k p).region = x.region := by unfold putPath; split <;> rfl
@[simp] theorem putPath_bars (x : Group) (k : Nat) (p : Path) : (putPath x k p).bars = x.bars := by unfold putPath; split <;> rfl
@[simp] theorem putPath_held (x : Group) (k : Nat) (p : Path) : (putPath x k p).held = x.held := by unfold putPath; split <;> rfl
@[simp] theorem putPath_kept (x : Group) (k : Nat) (p : Path) : (putPath x k p).kept = x.kept := by unfold putPath; split <;> rfl
@[simp] theorem putPath_hist (x : Group) (k : Nat) (p : Path) : (putPath x k p).hist = x.hist := by unfold putPath; split <;> rfl
@[simp] theorem putPath_haltReq (x : Group) (k : Nat) (p : Path) : (putPath x k p).haltReq = x.haltReq := by unfold putPath; split <;> rfl
@[simp] theorem putPath_stepReq (x : Group) (k : Nat) (p : Path) : (putPath x k p).stepReq = x.stepReq := by unfold putPath; split <;> rfl
@[simp] theorem putPath_byHalt (x : Group) (k : Nat) (p : Path) : (putPath x k p).byHalt = x.byHalt := by unfold putPath; split <;> rfl
@[simp] theorem putPath_skip (x : Group) (k : Nat) (p : Path) : (putPath x k p).skip = x.skip := by unfold putPath; split <;> rfl
@[simp] theorem putPath_cutback (x : Group) (k : Nat) (p : Path) : (putPath x k p).cutback = x.cutback := by unfold putPath; split <;> rfl

end Sys2Proof.Machine
end

