-- ==== Sys2Proof/Laws/Memory.lean ====
section
/-!
SUPPORT. Numbered plain data and byte memory: what a read gives after a write, and that every memory operation keeps the
canonical form.
-/

namespace Sys2Proof.Machine

theorem sget_filter_ne {α : Type} (d : α) (p : Nat × α → Bool) (k : Nat) :
    ∀ m : Sparse α, (∀ x, x.1 = k → p x = true) → sget d (m.filter p) k = sget d m k
  | [], _ => rfl
  | x :: r, h => by
    have ih := sget_filter_ne d p k r h
    by_cases hx : x.1 = k
    · have hp := h x hx
      simp [List.filter, hp, sget, List.find?, hx]
    · have hx' : (x.1 == k) = false := by simpa using hx
      cases hp : p x
      · simpa [List.filter, hp, sget, List.find?, hx'] using ih
      · simpa [List.filter, hp, sget, List.find?, hx'] using ih

theorem sget_append {α : Type} (d : α) (k : Nat) (n : Sparse α) :
    ∀ m : Sparse α, (∀ x ∈ m, x.1 ≠ k) → sget d (m ++ n) k = sget d n k
  | [], _ => rfl
  | x :: r, h => by
    have hx : (x.1 == k) = false := by simpa using h x (by simp)
    have ih := sget_append d k n r (fun y hy => h y (by simp [hy]))
    simpa [sget, List.find?, hx] using ih

theorem sget_none {α : Type} (d : α) (k : Nat) (m : Sparse α) (h : ∀ x ∈ m, x.1 ≠ k) : sget d m k = d := by
  have := sget_append d k [] m h
  simpa [sget] using this

/-- A read of what was written. -/
@[simp] theorem sget_sput_same {α : Type} [DecidableEq α] (d : α) (m : Sparse α) (k : Nat) (v : α) :
    sget d (sput d m k v) k = v := by
  unfold sput
  rw [List.append_assoc, sget_append d k _ _ (by intro x hx; have := (List.mem_filter.1 hx).2; simp at this; omega)]
  by_cases hv : v = d
  · subst hv
    rw [if_pos rfl]
    refine sget_none v k _ (fun x hx => ?_)
    have := (List.mem_filter.1 (show x ∈ m.filter (fun p => decide (k < p.1)) by simpa using hx)).2
    simp at this; omega
  · simp [hv, sget]

theorem find_split {α : Type} (k j : Nat) (h : j < k) :
    ∀ m : Sparse α, (m.filter (fun p => decide (p.1 < k))).find? (fun p => p.1 == j) = m.find? (fun p => p.1 == j)
  | [] => rfl
  | x :: r => by
    have ih := find_split k j h r
    by_cases hx : x.1 = j
    · subst hx
      simp [List.filter, h]
    · by_cases hk : x.1 < k <;> simp [List.filter, hk, hx, ih]

/-- A write leaves every other number alone. -/
theorem sget_sput_ne {α : Type} [DecidableEq α] (d : α) (m : Sparse α) (k j : Nat) (v : α) (h : j ≠ k) :
    sget d (sput d m k v) j = sget d m j := by
  unfold sput
  rcases Nat.lt_or_gt_of_ne h with hlt | hgt
  · have e : ∀ n : Sparse α, (∀ x ∈ n, x.1 ≠ j) →
        sget d (m.filter (fun p => decide (p.1 < k)) ++ n) j = sget d m j := by
      intro n hn
      have hf := find_split (α := α) k j hlt m
      unfold sget
      rw [List.find?_append, hf]
      cases hm : m.find? (fun p => p.1 == j) with
      | some y => rfl
      | none =>
        have : n.find? (fun p => p.1 == j) = none := by
          rw [List.find?_eq_none]; intro x hx; simpa using hn x hx
        simp [this]
    rw [List.append_assoc]
    apply e
    intro x hx
    rcases List.mem_append.1 hx with hx | hx
    · by_cases hv : v = d
      · simp [hv] at hx
      · simp [hv] at hx; subst hx; simpa using h.symm
    · have := (List.mem_filter.1 hx).2; simp at this; omega
  · rw [List.append_assoc, sget_append d j _ _ (by intro x hx; have := (List.mem_filter.1 hx).2; simp at this; omega),
      sget_append d j _ _ (by
        intro x hx
        by_cases hv : v = d
        · simp [hv] at hx
        · simp [hv] at hx; subst hx; simpa using h.symm)]
    apply sget_filter_ne
    intro x hx
    simp; omega

theorem sget_sput {α : Type} [DecidableEq α] (d : α) (m : Sparse α) (k j : Nat) (v : α) :
    sget d (sput d m k v) j = if j = k then v else sget d m j := by
  by_cases h : j = k
  · subst h; simp
  · simp [h, sget_sput_ne]

theorem swf_iff {α : Type} [DecidableEq α] (d : α) (m : Sparse α) :
    swf d m = true ↔ m.Pairwise (fun p q => p.1 < q.1) ∧ ∀ p ∈ m, p.2 ≠ d := by
  simp [swf]

/-- A write keeps the canonical form. -/
theorem swf_sput {α : Type} [DecidableEq α] (d : α) (m : Sparse α) (k : Nat) (v : α) (h : swf d m = true) :
    swf d (sput d m k v) = true := by
  rw [swf_iff] at h ⊢
  obtain ⟨hs, hd⟩ := h
  unfold sput
  constructor
  · rw [List.pairwise_append, List.pairwise_append]
    refine ⟨⟨hs.filter _, ?_, ?_⟩, hs.filter _, ?_⟩
    · split <;> simp
    · intro x hx y hy
      have hx' := (List.mem_filter.1 hx).2
      by_cases hv : v = d
      · simp [hv] at hy
      · simp [hv] at hy; subst hy; simpa using hx'
    · intro x hx y hy
      have hy' := (List.mem_filter.1 hy).2
      rcases List.mem_append.1 hx with hx | hx
      · have hx' := (List.mem_filter.1 hx).2
        simp at hx' hy'; omega
      · by_cases hv : v = d
        · simp [hv] at hx
        · simp [hv] at hx; subst hx; simpa using hy'
  · intro p hp
    rcases List.mem_append.1 hp with hp | hp
    · rcases List.mem_append.1 hp with hp | hp
      · exact hd p (List.mem_filter.1 hp).1
      · by_cases hv : v = d
        · simp [hv] at hp
        · simp [hv] at hp; subst hp; exact hv
    · exact hd p (List.mem_filter.1 hp).1

/-! ## Bytes -/

theorem readByte_writeByte (m : Memory) (a b : Nat) (v : Byte) :
    readByte (writeByte m a v) b = if b = a then v else readByte m b := sget_sput _ _ _ _ _

theorem wf_writeByte (m : Memory) (a : Nat) (v : Byte) (h : Memory.wf m = true) : Memory.wf (writeByte m a v) = true :=
  swf_sput _ _ _ _ h

theorem wf_writeBytes : ∀ (d : List Byte) (m : Memory) (a : Nat), Memory.wf m = true → Memory.wf (writeBytes m a d) = true
  | [], _, _, h => h
  | b :: r, m, a, h => wf_writeBytes r (writeByte m a b) (a + 1) (wf_writeByte m a b h)

theorem wf_writeLE (m : Memory) (a n v : Nat) (h : Memory.wf m = true) : Memory.wf (writeLE m a n v) = true :=
  wf_writeBytes _ _ _ h

/-- A write of bytes leaves every other address alone. -/
theorem readByte_writeBytes_ne : ∀ (d : List Byte) (m : Memory) (a b : Nat), b < a ∨ a + d.length ≤ b →
    readByte (writeBytes m a d) b = readByte m b
  | [], _, _, _, _ => rfl
  | x :: r, m, a, b, h => by
    have ih := readByte_writeBytes_ne r (writeByte m a x) (a + 1) b (by simp at h; omega)
    rw [writeBytes, ih, readByte_writeByte, if_neg (by simp at h; omega)]

/-- The bytes that a write put there are read back. -/
theorem readBytes_writeBytes : ∀ (d : List Byte) (m : Memory) (a : Nat), readBytes (writeBytes m a d) a d.length = d
  | [], _, _ => rfl
  | x :: r, m, a => by
    have h0 : readByte (writeBytes (writeByte m a x) (a + 1) r) a = x := by
      rw [readByte_writeBytes_ne r _ _ _ (by omega), readByte_writeByte, if_pos rfl]
    simp only [List.length_cons, readBytes, writeBytes]
    rw [h0, readBytes_writeBytes r]

/-! ## Registers of a group -/

/-- s0 reads 0, every other scalar register what was written (R109). -/
theorem readS_writeS (g : Group) (r q : SReg) (v : Word) :
    readS (writeS g r v) q = if q = 0 then 0 else if q = r then v else readS g q := by
  unfold readS writeS
  by_cases hq : q = 0
  · rw [if_pos hq, if_pos hq]
  · rw [if_neg hq, if_neg hq]
    by_cases hr : r = 0
    · rw [if_pos hr, if_neg (fun e => hq (e.trans hr)), if_neg hq]
    · rw [if_neg hr]
      by_cases h : q = r
      · subst h; rw [if_pos rfl]; exact sget_sput_same _ _ _ _
      · rw [if_neg h, if_neg hq]
        exact sget_sput_ne _ _ _ _ _ (fun e => h (BitVec.eq_of_toNat_eq e))

/-- Element (register, thread) of the vector registers. -/
theorem readV_writeV (g : Group) (r q : VReg) (t u : Nat) (v : Lane) (ht : t < 64) (hu : u < 64) :
    readV (writeV g r t v) q u = if q = r ∧ u = t then v else readV g q u := by
  unfold readV writeV
  by_cases h : q = r ∧ u = t
  · obtain ⟨rfl, rfl⟩ := h; simp
  · have : 64 * q.toNat + u ≠ 64 * r.toNat + t := by
      intro e
      apply h
      have h1 : q.toNat = r.toNat := by omega
      exact ⟨BitVec.eq_of_toNat_eq h1, by omega⟩
    simp [h, sget_sput, this]

/-- m0 reads all ones, every other mask register what was written (R109). -/
theorem readM_writeM (g : Group) (r q : MReg) (v : Word) :
    readM (writeM g r v) q = if q = 0 then BitVec.allOnes 64 else if q = r then v else readM g q := by
  unfold readM writeM
  by_cases hq : q = 0
  · rw [if_pos hq, if_pos hq]
  · rw [if_neg hq, if_neg hq]
    by_cases hr : r = 0
    · rw [if_pos hr, if_neg (fun e => hq (e.trans hr)), if_neg hq]
    · rw [if_neg hr]
      by_cases h : q = r
      · subst h; rw [if_pos rfl]; exact sget_sput_same _ _ _ _
      · rw [if_neg h, if_neg hq]
        exact sget_sput_ne _ _ _ _ _ (fun e => h (BitVec.eq_of_toNat_eq e))

theorem readGuard_writeGuard (g : Group) (k j : GReg) (v : Guard) :
    readGuard (writeGuard g k v) j = if j = k then v else readGuard g j := by
  unfold readGuard writeGuard
  by_cases h : j = k
  · subst h; simp
  · have : j.toNat ≠ k.toNat := fun e => h (BitVec.eq_of_toNat_eq e)
    simp [h, sget_sput, this]

theorem pathOf_putPath (g : Group) (k j : Nat) (p : Path) : pathOf (putPath g k p) j = if j = k then p else pathOf g j := by
  unfold pathOf putPath
  by_cases hk : k = 0
  · subst hk
    by_cases hj : j = 0 <;> simp [hj]
  · by_cases hj : j = 0
    · subst hj; simp [hk, Ne.symm hk]
    · simp [hk, hj, sget_sput]

/-! ## Groups of the package -/

/-- The key of a group of a real launch, core and slot names that group alone. -/
theorem group_setGroup (s : State) (g h : GId) (v : Group) :
    (s.setGroup g v).group h = if gkey h = gkey g then v else s.group h := by
  simp [State.group, State.setGroup, sget_sput]

@[simp] theorem group_setGroup_same (s : State) (g : GId) (v : Group) : (s.setGroup g v).group g = v := by
  simp [group_setGroup]

@[simp] theorem cg_updCg (s : State) (f : Group → Group) : cg (updCg s f) = f (cg s) := by
  simp [cg, updCg, State.updGroup]

@[simp] theorem wg_updWg_same (s : State) (t c : Nat) (f : Workgroup → Workgroup) : (s.updWg t c f).wg t c = f (s.wg t c) := by
  simp [State.wg, State.updWg]

@[simp] theorem core_updCore_same (s : State) (c : Nat) (f : Core → Core) : (s.updCore c f).core c = f (s.core c) := by
  simp [State.core, State.updCore]

@[simp] theorem yarder_updYarder_same (s : State) (y : Nat) (f : Yarder → Yarder) :
    (s.updYarder y f).yarder y = f (s.yarder y) := by
  simp [State.yarder, State.updYarder]

@[simp] theorem tile_updTile_same (s : State) (k : Nat) (f : Tile → Tile) : (s.updTile k f).tile k = f (s.tile k) := by
  simp [State.tile, State.updTile]

/-! ## A running meaning -/

/-- The meaning of an instruction whose word has passed its checks runs. -/
theorem gate_passed (i : Instr) (c : State → Chk) (f : State → State) (s : State) (h : s.iss.passed = true) :
    gate i c f s = .next (f s) := by
  simp [gate, h]

/-- What a meaning can do: run, take a fault, wait, or abort its region. -/
theorem gate_next (i : Instr) (c : State → Chk) (f : State → State) (s : State) :
    gate i c f s = .next (if s.iss.passed then f s else onCheck s f (checkOne i c s)) := by
  unfold gate; split <;> simp_all

end Sys2Proof.Machine
end

