-- ==== Sys2Proof/Safety.lean ====
section
/-!
DEFINITION. What counts as a safe run, and the terms in which the statements about the machine speak: the canonical form of the
byte lists, when a step answers, when an instruction's word passes its checks, and what a change leaves alone.
-/

namespace Sys2Proof.Machine

/-- The byte lists of a state stand in canonical form: memory, the register windows, the access tables. -/
def State.Canon (s : State) : Prop := Memory.wf s.mem = true ∧ Memory.wf s.regs = true ∧ Memory.wf s.atab = true

/-- A step answers a next state. -/
def State.Moves (s : State) : Prop := ∃ t, step s = .next t

/-- A run of `n` steps that neither faults nor is refused: no step is asked of a machine that a thermal trip has stopped (R381). -/
def SafeRun : Nat → State → Prop
  | 0, _ => True
  | n + 1, s => ∃ t, step s = .next t ∧ SafeRun n t

/-- Instruction `i` executes normally: its word has passed its checks (R111), or `i`, issued alone, passes every one of them. -/
def Clear (i : Instr) (s : State) : Prop := s.iss.passed = true ∨ checkOne i (checkOf i) s = .pass

/-- Nothing is owed to memory: no tile has a log, and no access stands behind a fetch. -/
def Quiet (s : State) : Prop := ∀ k, (s.tile k).log = [] ∧ (s.tile k).queue = []

/-- `t` is `s` but for registers of the issuing group: scalar, vector and mask registers, guard slots and FLAGS. Its paths, queues,
fault registers, every other group, memory and all the rest are as before. -/
def OnlyRegs (s t : State) : Prop :=
  t = updCg s (fun g => { g with
    sregs := (cg t).sregs, vregs := (cg t).vregs, mregs := (cg t).mregs, guards := (cg t).guards, flags := (cg t).flags })

/-- `t` is `s` with vector registers written: in every lane of `e` the register `dst` names takes the value of `res`, every other
element keeps its value; FLAGS takes the OR of the lanes' flags (R81, R147). Nothing else changes. -/
def VecWrites (s t : State) (e : Word) (dst : Nat → VReg) (res : Nat → Lane × Nat) : Prop :=
  t = updCg s (fun g => { g with vregs := (cg t).vregs, flags := (cg t).flags }) ∧
  (∀ r l, l < 64 → readV (cg t) r l = if bit e l ∧ r = dst l then (res l).1 else readV (cg s) r l) ∧
  ∀ n, n < 64 → (cg t).flags.getLsbD n =
    ((cg s).flags.getLsbD n || (decide (n < 6) && lanes.any (fun l => bit e l && (res l).2.testBit n)))

/-- `t` is `s` with mask register `k` written: in the lanes of `e` it takes the bits of `res`, elsewhere it keeps them; m0 discards
the write (R109). FLAGS takes the OR of the lanes' flags. Nothing else changes. -/
def MaskWrites (s t : State) (e : Word) (k : MReg) (res : Nat → Bool × Nat) : Prop :=
  t = updCg s (fun g => { g with mregs := (cg t).mregs, flags := (cg t).flags }) ∧
  (∀ j l, l < 64 → bit (readM (cg t) j) l = if j = k ∧ j ≠ 0 ∧ bit e l then (res l).1 else bit (readM (cg s) j) l) ∧
  ∀ n, n < 64 → (cg t).flags.getLsbD n =
    ((cg s).flags.getLsbD n || (decide (n < 6) && lanes.any (fun l => bit e l && (res l).2.testBit n)))

end Sys2Proof.Machine
end

