-- ==== Sys2Proof/Certificates/Slice0/Obligations.lean ====
section
/-!
DEFINITION. The statements for the provers. A statement of an instruction's effect is about every state in which the instruction
executes normally (`Clear`: its word has passed the checks of R111, or it is issued alone and passes them), and concludes with the
next state.
-/

open Sys2Proof Sys2Proof.Machine

/-! ## Encoding -/

/-- The words that the spec's worked examples write out bit by bit, and one unit per header format, decode to the instruction they
stand for (R93 to R100, R112, R114, R378). -/
def Obligations.DecodeKnownWords : Prop :=
  let slot := fun (v : Nat) => decodeUnit false false (2 * 2 ^ 126 + v)
  let pair := fun (s v : Instr) => Fetched.pair false false false 0 (.ok s) (.ok v)
  let o : MOp := { m := 0, data := 0, base := 0, off := 0, fq := .both, acc := 0, scope := 0, am := 0, d := false, p := false, ty := .z32 }
  decodeUnit false false 0x9880300000000000E000000000000000 = .pair false true true 1 (.ok (.br 14)) (.ok .vNop) ∧
  decodeUnit false false 0x80002C00000004044000000000000000 = pair (.sSetfmtImm 0x4044) .vNop ∧
  decodeUnit false false 0x80004400000000040000000000000000
    = pair (.wait { etc := false, tcv := 0, ecc := false, ccv := 0, esc := false, scv := 0, elc := true, lcv := 0 }) .vNop ∧
  decodeUnit false false 0x8000410000000000D000000000000000 = pair (.barBlk 1 3) .vNop ∧
  decodeUnit false false 0x800061014600000DB000000000000000 = pair (.mMma 0 20 24 27 true true) .vNop ∧
  decodeUnit false false 0x80004D00000000001000000000000000 = pair (.rett 1) .vNop ∧
  decodeUnit false false (2 * 2 ^ 126 + 0x0007060640000001 * 2 ^ 60) = pair (.cCopy 24 6 16 true false false) .vNop ∧
  decodeUnit false false 0x80007168744000009000000000000000 = pair (.cCopyt 26 7 17 true false false 1) .vNop ∧
  decodeUnit false false (2 * 2 ^ 126 + 0x0006401C0000000A * 2 ^ 60) = pair (.mSt 0 28 .bf16 0 false) .vNop ∧
  slot 0x000A02040C0C1862 = pair .nop (.vSub 0 (.vt 4 4 6 3 3 6) .i32) ∧
  slot 0x0098020420020064 = pair .nop (.vMinImm 0 { fq := .fb, vd := 4, va := 4, imm := 100 } .i32) ∧
  slot 0x0208020D06020201 = pair .nop (.ldv { o with data := 4, base := 13, off := 0x180, fq := .fb, am := 1, ty := .i16 }) ∧
  slot 0x0318028000000009 = pair .nop (.loopv 5 9) ∧
  slot 0x000603070C1C4892 = pair .nop (.vAdd 0 (.vt 6 7 6 7 9 9) .i32) ∧
  slot 0x0200089000004106 = pair .nop (.ld { o with data := 17, base := 16, acc := 1, d := true }) ∧
  slot 0x0234001000004106 = pair .nop (.waitw { o with base := 16, acc := 1, d := true }) ∧
  slot 0x010C020304100008 = pair .nop (.vFma 0 (.vr .both 4 3 2 4) .f32) ∧
  slot 0x020404880000A906 = pair .nop (.st { o with data := 9, base := 8, acc := 2, scope := 5, d := true }) ∧
  decodeUnit false false 0xA0000000000000000204021000000006
    = .pair true false false 0 (.ok .nop) (.ok (.st { o with data := 4, base := 16 })) ∧
  decodeUnit true true 0x40000000000000004000000000000000 = .solo false false false (.ok .vNop) ∧
  decodeUnit false true 0x40000000000000004000000000000000 = .badFormat ∧
  decodeUnit false false 0 = .badFormat ∧
  decodeYarder 0x00C5950B = .ok (.yBfx 10 11 12) ∧
  decodeYarder 0x0200000B = .illegal ∧
  decodeYarder 0x00000013 = .base

/-- Every well-formed instruction of the scalar slot and of the vector slot is read back from its encoding, with every operand. -/
def Obligations.RoundTrip : Prop :=
  (∀ i w, WellFormed i = true → encodeScalar i = some w → w < 2 ^ 52 ∧ decodeScalar w = .ok i) ∧
  (∀ i w, WellFormed i = true → encodeVector i = some w → w < 2 ^ 60 ∧ decodeVector w = .ok i)

/-- A slot that decodes holds a well-formed instruction, and every one of its bits, 52 in the scalar slot and 60 in the vector slot, is that
of the instruction's encoding: no two slots mean the same instruction. -/
def Obligations.DecodingExact : Prop :=
  (∀ i w, w < 2 ^ 52 → decodeScalar w = .ok i → WellFormed i = true ∧ encodeScalar i = some w) ∧
  (∀ i w, w < 2 ^ 60 → decodeVector w = .ok i → WellFormed i = true ∧ encodeVector i = some w)

/-- A Yarder's four instructions are read back from their words; every other word with opcode custom-0 is illegal, and every word of
another opcode belongs to base RV64IMAC (R378). -/
def Obligations.YarderDecoding : Prop :=
  (∀ i w, encodeYarder i = some w → decodeYarder w = .ok i) ∧
  (∀ w, w < 2 ^ 32 → w % 128 = 0x0B → decodeYarder w = .illegal ∨ ∃ i, decodeYarder w = .ok i ∧ encodeYarder i = some w) ∧
  ∀ w, w % 128 ≠ 0x0B → decodeYarder w = .base

/-- The transfers that may not stand beside a vector opcode of row 0x0C, and the opcodes of that row (R138). -/
def isTransfer : Instr → Bool
  | .br _ | .bcc _ _ _ _ | .jmp _ _ | .brx _ _ _ | .call _ _ | .callx _ _ | .ret _ | .loopS _ _ | .sEnd => true
  | _ => false
def inRow0C : Instr → Bool
  | .brv _ _ | .bany _ _ | .ball _ _ | .join | .meld _ _ | .meldend | .loopv _ _ | .loopvEnd | .demote _ _ | .exit _ _ => true
  | _ => false
/-- `elide` and `eliabort` stand alone in their word (R241). -/
def standsAlone : Instr → Bool
  | .elide _ | .eliabort _ => true
  | _ => false
/-- What a governed word may not hold (R248). -/
def neverGoverned : Instr → Bool
  | .join | .meld _ _ | .meldend | .loopv _ _ | .loopvEnd => true
  | _ => false

/-- R94, R95, R103, R137, R138, R241, R248: a pair word of two well-formed instructions under any header decodes to those two instructions, unless a
rule of the word forbids it: then the slot that breaks it holds the fault. A word with M = 1 whose VOP the map does not mark † is
ILLEGAL_OPCODE. -/
def Obligations.WordStructure : Prop :=
  (∀ (stop gen gneg : Bool) (g : GReg) (i j : Instr) (wi wj : Nat),
     WellFormed i = true → encodeScalar i = some wi → WellFormed j = true → encodeVector j = some wj →
     let one := fun (b : Bool) (k : Nat) => if b then 2 ^ k else 0
     let f := decodeUnit false false (2 * 2 ^ 126 + one stop 125 + one gen 124 + one gneg 123 + g.toNat * 2 ^ 119 + wi * 2 ^ 60 + wj)
     let header := gen = true ∨ (gneg = false ∧ g = 0)
     let own := fun (x : Instr) => gen = true ∧ ownSlot x = some g
     let crossed := isTransfer i = true ∧ inRow0C j = true
     let lonely := standsAlone j = true ∧ i ≠ .nop
     let unruled := gen = true ∧ neverGoverned j = true
     (header → ¬own i → ¬own j → ¬crossed → ¬lonely → ¬unruled → f = .pair stop gen gneg g (.ok i) (.ok j)) ∧
     (crossed → ∃ d, f = .pair stop gen gneg g (.bad 2) d) ∧
     (lonely → ∃ d, f = .pair stop gen gneg g d (.bad 2)) ∧
     (¬crossed → ¬header ∨ own i → ∃ d, f = .pair stop gen gneg g (.bad 3) d) ∧
     (¬lonely → own j ∨ unruled → ∃ d, f = .pair stop gen gneg g d (.bad 3))) ∧
  (∀ w, w < 2 ^ 60 → bits w 49 1 = 1 → bits w 50 10 ∉ daggers → decodeVector w = .bad 2)

/-! ## Steps -/

/-- A group's turn with a word of path `k` that passes its checks, be it a pair word or a solo word, whose other slot is the nop, of the
undivided path or of an entry of the split table: both slots act on the latched state, around them SPORD, history and sampler before, the
next pc, fusing, retirement and swapping after (R65). Under a guard that holds, an engine command that was enqueued ahead of its word is not
issued again; under one that fails, neither slot acts; under an unresolved one the word waits, but for an engine command, which is enqueued at once,
alone or with the vector nop beside it; a word whose `draw` or `deal` stands beside a vector slot of row 0x0C waits whole while the shoe cannot
serve it (notes/assumptions/9.md, DESIGN CHOICE). The order of the two slots and what a word's end does in which order are the model's
(notes/assumptions/9.md, DEDUCED); when a word with an engine command issues under an unresolved guard is read from R65 (notes/assumptions/10.md,
DEDUCED); that the schedule or `cur` says which group moves, and that sets are refreshed before a turn, is the model's choice
(notes/assumptions/8.md, DESIGN CHOICE). -/
def Obligations.StepRunsDecodedWord : Prop :=
  ∀ (s s0 : State) (gid : GId) (k : Nat) (others : List Nat) (w : Word) (f : Fetched) (sc ve : Instr) (s1 s2 : State),
    thermallyHeld s = false → s.sched = [] → s.cur = .group gid → refresh s gid.core = s0 → clusterOff s0 (clusterOf gid.core) = false →
    (s0.core gid.core).tag = gid.tag → (s0.core gid.core).active.contains gid.grp = true →
    readyPaths s0 gid = k :: others → deliverable (s0.group gid) = false →
    (pathOf ((passWaits s0 gid k).group gid) k).pc = w →
    fetchWord (passWaits s0 gid k) gid w = (s1, .ok f) → slotsOf f = (.ok sc, .ok ve) →
    haltBefore s1 gid k (stopBit f) w = (s2, false) →
    let s3 := latch s2 gid k w f
    let both : Slots := { sc := sc, ve := ve }
    let rest : Slots := { sc := .nop, ve := ve }
    let neither : Slots := { sc := .nop, ve := .vNop }
    let runs := fun (x : Slots) => match wordWaits s3 x with
      | some w => .next (finishWord (endWord (addWait (takeId s3).1 w)) true)
      | none => Out.andThen
        (if scalarLeads x then Out.andThen (exec x.sc (started s3 f)) (exec x.ve) else Out.andThen (exec x.ve (started s3 f)) (exec x.sc))
        (fun t => .next (finishWord (sampleIssued t t.iss.gid t.iss.path) (isRett x.sc)))
    decodeFault s3 f = none →
    -- a guard that holds, or none
    (guardNow s3 = .isTrue → (cp s3).bound = false → wordCheck s3 both = .pass → step s = runs both) ∧
    (guardNow s3 = .isTrue → (cp s3).bound = true → wordCheck s3 rest = .pass → step s = runs rest) ∧
    -- one that fails
    (guardNow s3 = .isFalse → wordCheck s3 neither = .pass → step s = runs neither) ∧
    -- an unresolved one
    (guardNow s3 = .unres → (isEngine sc = false ∨ (cp s3).bound = true) → others = [] → step s = .next s3) ∧
    (guardNow s3 = .unres → isEngine sc = true → (cp s3).bound = false →
      (ve = .vNop → wordCheck s3 both = .pass → step s = runs both) ∧
      (ve ≠ .vNop → bindCheck s3 both = .pass → step s = Out.andThen (exec sc { s3 with iss := { s3.iss with passed := true } })
        (fun t => .next (updPath t (fun p => { p with bound := true }))))) ∧
    -- what the guard is, and what a solo word holds
    (∀ stop gen gneg slot a b, f = .pair stop gen gneg slot a b →
      (gen = false → guardNow s3 = .isTrue) ∧
      (gen = true → readGuard (s2.group gid) slot = .unres → guardNow s3 = .unres) ∧
      (gen = true → readGuard (s2.group gid) slot = .isTrue → guardNow s3 = if gneg then .isFalse else .isTrue) ∧
      (gen = true → readGuard (s2.group gid) slot = .isFalse → guardNow s3 = if gneg then .isTrue else .isFalse)) ∧
    (∀ u stop esc d, f = .solo u stop esc d → guardNow s3 = .isTrue ∧ k = 0 ∧ s3.iss.uniform = u ∧
      if esc then d = .ok sc ∧ ve = .vNop else sc = .nop ∧ d = .ok ve)

/-- A Yarder's step is the execution of the instruction at its pc, or the taking of its pending interrupt; an event at the head of the schedule
is executed, and the schedule goes on. What a base instruction does is that of the RISC-V family (notes/assumptions/2.md, PRESUMED), and so are
the trap registers; the schedule is the model's own (notes/assumptions/8.md). -/
def Obligations.StepRunsYarderAndEvents : Prop :=
  (∀ (s : State) (y : Nat), thermallyHeld s = false → s.sched = [] → s.cur = .yarder y → y < 2 * diesOf s.part →
    firmwareRuns s = true →
    (yInterrupted (s.yarder y) = true → ∃ t, step s = .next t ∧ t = { s with yarders := t.yarders } ∧ t.yarder y = { s.yarder y with
      mepc := (s.yarder y).pc, mcause := 0x800000000000000B, mtval := 0, mpie := (s.yarder y).mie, mie := false, meip := false, swait := none
      pc := ((s.yarder y).mtvec &&& ~~~3) + if (s.yarder y).mtvec &&& 3 = 1 then 44 else 0 }) ∧
    (yInterrupted (s.yarder y) = false → (s.yarder y).swait = none →
      (∀ i, decodeYarder (yWord (s.yarder y)) = .ok i → step s = exec i s) ∧
      (decodeYarder (yWord (s.yarder y)) = .illegal → step s = .next (yIllegal s (yWord (s.yarder y)))) ∧
      (decodeYarder (yWord (s.yarder y)) = .base → step s = .next (rvStep s (yWord (s.yarder y))))) ∧
    (yInterrupted (s.yarder y) = false → (s.yarder y).swait ≠ none → step s = .next s)) ∧
  (∀ (s : State) (i : Instr) (r : List Turn), thermallyHeld s = false → s.sched = .event i :: r → isEvent i = true →
    step s = exec i { s with sched := r }) ∧
  (∀ (s : State) (ns : Nat) (r : List Turn), thermallyHeld s = false → s.sched = .elapse ns :: r →
    step s = .next (elapse { s with sched := r } ns) ∧ (elapse { s with sched := r } ns).dtime = s.dtime + ns)

/-- Every instruction of the opcode table answers a next state, in every state. A step stops for one reason only: the thermal trip (R381). -/
def Obligations.StepAnswersOrStops : Prop :=
  (∀ (i : Instr) (s : State), ∃ t, exec i s = .next t) ∧
  (∀ s : State, (step s = .fault .thermalStop ↔ thermallyHeld s = true) ∧ (thermallyHeld s = false → ∃ t, step s = .next t))

/-! ## The scalar slot -/

/-- R109, R110, R123, R125, R127: what a write of s[d] leaves (s0 reads 0 whatever was written; every other scalar register, and all the rest of
the machine, is as before); sums, differences, products, logic, complement, count of leading zeros and of ones are such writes. -/
def Obligations.ScalarArithmetic : Prop :=
  (∀ (s : State) (d : SReg) (v : Word),
     (∀ r, rs (ws s d v) r = if r = 0 then 0 else if r = d then v else rs s r) ∧
     ws s d v = updCg s (fun g => { g with sregs := (cg (ws s d v)).sregs }) ∧
     (d = 0 → ∀ r, rs (ws s d v) r = rs s r)) ∧
  (∀ (s : State) (d a b : SReg) (imm : BitVec 32),
     let x := rs s a
     let y := rs s b
     let k : Word := imm.signExtend 64
     (Clear (.sAdd d a b) s → exec (.sAdd d a b) s = .next (ws s d (x + y))) ∧
     (Clear (.sSub d a b) s → exec (.sSub d a b) s = .next (ws s d (x - y))) ∧
     (Clear (.sMul d a b) s → exec (.sMul d a b) s = .next (ws s d (BitVec.ofNat 64 (x.toNat * y.toNat)))) ∧
     (Clear (.sMulh d a b) s → exec (.sMulh d a b) s = .next (ws s d (BitVec.ofInt 64 (x.toInt * y.toInt / 2 ^ 64)))) ∧
     (Clear (.sMulhz d a b) s → exec (.sMulhz d a b) s = .next (ws s d (BitVec.ofNat 64 (x.toNat * y.toNat / 2 ^ 64)))) ∧
     (Clear (.sAnd d a b) s → exec (.sAnd d a b) s = .next (ws s d (x &&& y))) ∧
     (Clear (.sOr d a b) s → exec (.sOr d a b) s = .next (ws s d (x ||| y))) ∧
     (Clear (.sXor d a b) s → exec (.sXor d a b) s = .next (ws s d (x ^^^ y))) ∧
     (Clear (.sAddi d a imm) s → exec (.sAddi d a imm) s = .next (ws s d (x + k))) ∧
     (Clear (.sAndi d a imm) s → exec (.sAndi d a imm) s = .next (ws s d (x &&& k))) ∧
     (Clear (.sOri d a imm) s → exec (.sOri d a imm) s = .next (ws s d (x ||| k))) ∧
     (Clear (.sXori d a imm) s → exec (.sXori d a imm) s = .next (ws s d (x ^^^ k))) ∧
     (Clear (.sNot d a) s → exec (.sNot d a) s = .next (ws s d (BitVec.allOnes 64 - x))) ∧
     (Clear (.sClz d a) s → ∃ n, exec (.sClz d a) s = .next (ws s d (BitVec.ofNat 64 n)) ∧ n ≤ 64 ∧
       x.toNat < 2 ^ (64 - n) ∧ (n < 64 → 2 ^ (63 - n) ≤ x.toNat)) ∧
     (Clear (.sPopc d a) s → exec (.sPopc d a) s
       = .next (ws s d (BitVec.ofNat 64 ((List.range 64).countP (fun i => x.getLsbD i))))))

/-- R125, R126: division never traps; the quotient and the remainder of a division by 0, of the most negative number by −1, and in
every other case the exact identity with |remainder| < |divisor|, the remainder taking the sign of the dividend. -/
def Obligations.ScalarDivision : Prop :=
  ∀ (s : State) (d a b : SReg),
    let x := rs s a
    let y := rs s b
    (Clear (.sDiv d a b) s → ∃ q, exec (.sDiv d a b) s = .next (ws s d q) ∧ (y = 0 → q = BitVec.allOnes 64) ∧
      (x = BitVec.intMin 64 → y = BitVec.allOnes 64 → q = BitVec.intMin 64) ∧
      (y ≠ 0 → ¬(x = BitVec.intMin 64 ∧ y = BitVec.allOnes 64) → ∃ r : Int, x.toInt = q.toInt * y.toInt + r ∧ r.natAbs < y.toInt.natAbs ∧
        (r = 0 ∨ (r < 0 ↔ x.toInt < 0)))) ∧
    (Clear (.sRem d a b) s → ∃ r, exec (.sRem d a b) s = .next (ws s d r) ∧ (y = 0 → r = x) ∧
      (x = BitVec.intMin 64 → y = BitVec.allOnes 64 → r = 0) ∧
      (y ≠ 0 → r.toInt.natAbs < y.toInt.natAbs ∧ (r = 0 ∨ (r.toInt < 0 ↔ x.toInt < 0)) ∧ ∃ q : Int, x.toInt = q * y.toInt + r.toInt)) ∧
    (Clear (.sDivz d a b) s → ∃ q, exec (.sDivz d a b) s = .next (ws s d q) ∧ (y = 0 → q = BitVec.allOnes 64) ∧
      (y ≠ 0 → q.toNat * y.toNat ≤ x.toNat ∧ x.toNat < (q.toNat + 1) * y.toNat)) ∧
    (Clear (.sRemz d a b) s → ∃ r, exec (.sRemz d a b) s = .next (ws s d r) ∧ (y = 0 → r = x) ∧
      (y ≠ 0 → r.toNat < y.toNat ∧ ∃ q : Nat, x.toNat = q * y.toNat + r.toNat))

/-- The count of a shift: an immediate, or the low six bits of a register (R128). -/
def shiftCount (s : State) : Cnt → Nat
  | .imm n => n.toNat
  | .reg b => (rs s b).toNat % 64

/-- R128, R129: shifts, the rotation, and the bit fields; bits of the result one by one. -/
def Obligations.ScalarShiftsAndFields : Prop :=
  ∀ (s : State) (d a : SReg) (n : Cnt) (sx : Bool) (len : BitVec 7) (pos : BitVec 6),
    let x := rs s a
    let c := shiftCount s n
    let l := len.toNat
    let p := pos.toNat
    (Clear (.sShl d a n) s → ∃ v, exec (.sShl d a n) s = .next (ws s d v) ∧
      ∀ i, i < 64 → v.getLsbD i = (decide (c ≤ i) && x.getLsbD (i - c))) ∧
    (Clear (.sShr d a n) s → ∃ v, exec (.sShr d a n) s = .next (ws s d v) ∧ ∀ i, i < 64 → v.getLsbD i = x.getLsbD (i + c)) ∧
    (Clear (.sSra d a n) s → ∃ v, exec (.sSra d a n) s = .next (ws s d v) ∧
      ∀ i, i < 64 → v.getLsbD i = if i + c < 64 then x.getLsbD (i + c) else x.getLsbD 63) ∧
    (Clear (.sRot d a n) s → ∃ v, exec (.sRot d a n) s = .next (ws s d v) ∧
      ∀ i, i < 64 → v.getLsbD i = x.getLsbD ((i + 64 - c) % 64)) ∧
    (WellFormed (.sBfx d a sx len pos) = true → Clear (.sBfx d a sx len pos) s →
      ∃ v, exec (.sBfx d a sx len pos) s = .next (ws s d v) ∧
        ∀ i, i < 64 → v.getLsbD i = if i < l then x.getLsbD (p + i) else (sx && x.getLsbD (p + l - 1))) ∧
    (WellFormed (.sBfi d a len pos) = true → Clear (.sBfi d a len pos) s →
      ∃ v, exec (.sBfi d a len pos) s = .next (ws s d v) ∧
        ∀ i, i < 64 → v.getLsbD i = if p ≤ i ∧ i < p + l then x.getLsbD (i - p) else (rs s d).getLsbD i)

/-- The two values of a compare: the low bits of the width, extended as Z says, as numbers (R130). -/
def compareOperand (c : CmpCode) (a : Word) : Int :=
  let w := 8 * 2 ^ c.wid.toNat
  let v : Int := (a.toNat % 2 ^ w : Nat)
  if c.z = false ∧ 2 ^ (w - 1) ≤ a.toNat % 2 ^ w then v - 2 ^ w else v

/-- Whether two numbers stand in a condition (R130). -/
def Stands : Cond → Int → Int → Prop
  | .eq, x, y => x = y
  | .ne, x, y => x ≠ y
  | .lt, x, y => x < y
  | .le, x, y => x ≤ y
  | .gt, x, y => x > y
  | .ge, x, y => x ≥ y

/-- R125, R130 to R132: minimum, maximum, comparison, selection, moves and code addresses. That `s.lea` counts from the 16-byte unit in the
second solo word of a unit too, as R93 says of transfers, is the model's reading (notes/assumptions/9.md, DEDUCED). -/
def Obligations.ScalarSelectionAndMoves : Prop :=
  ∀ (s : State) (d a b c : SReg) (imm : BitVec 32) (code : CmpCode),
    let x := rs s a
    let y := rs s b
    (Clear (.sMin d a b) s → exec (.sMin d a b) s = .next (ws s d (if x.toInt < y.toInt then x else y))) ∧
    (Clear (.sMax d a b) s → exec (.sMax d a b) s = .next (ws s d (if x.toInt < y.toInt then y else x))) ∧
    (Clear (.sMinz d a b) s → exec (.sMinz d a b) s = .next (ws s d (if x.toNat < y.toNat then x else y))) ∧
    (Clear (.sMaxz d a b) s → exec (.sMaxz d a b) s = .next (ws s d (if x.toNat < y.toNat then y else x))) ∧
    (Clear (.sSel d a b c) s → exec (.sSel d a b c) s = .next (ws s d (if rs s c = 0 then y else x))) ∧
    (Clear (.sCmp d a b code) s → ∃ v, exec (.sCmp d a b code) s = .next (ws s d v) ∧
      (Stands code.cond (compareOperand code x) (compareOperand code y) → v = 1) ∧
      (¬Stands code.cond (compareOperand code x) (compareOperand code y) → v = 0)) ∧
    (Clear (.sMovi d imm) s → exec (.sMovi d imm) s = .next (ws s d (imm.signExtend 64))) ∧
    (Clear (.sMovhi d a imm) s → ∃ v, exec (.sMovhi d a imm) s = .next (ws s d v) ∧
      v.toNat = imm.toNat * 2 ^ 32 + x.toNat % 2 ^ 32) ∧
    (Clear (.sLea d imm) s → exec (.sLea d imm) s = .next (ws s d ((s.iss.w &&& ~~~15) + 16 * imm.signExtend 64)))

/-- R64, R133, R134, R136: FMT is written by the immediate and by the register form, read by `s.getfmt` as the word found it, and a register with a
bit in 63:15 or a reserved code traps RESERVED_FIELD; a compare resolves a guard slot and releases what was bound to it; `s.gclr` makes it
unresolved and resolves nothing. -/
def Obligations.FormatAndGuards : Prop :=
  (∀ (s : State) (d a : SReg) (imm : BitVec 32),
     (Clear (.sSetfmtImm imm) s → exec (.sSetfmtImm imm) s = .next (updPath s (fun p => { p with fmt := imm }))) ∧
     (Clear (.sSetfmtReg a) s → exec (.sSetfmtReg a) s = .next (updPath s (fun p => { p with fmt := (rs s a).setWidth 32 }))) ∧
     (Clear (.sGetfmt d) s → exec (.sGetfmt d) s = .next (ws s d (s.iss.fmt.setWidth 64))) ∧
     (s.iss.passed = false → ctxCode (.sSetfmtReg a) s = none → generalCode (.sSetfmtReg a) s 0 = none →
       (32768 ≤ (rs s a).toNat ∨ (rs s a).toNat % 16 ∉ [2, 3, 4, 5, 6, 7, 8, 10] ∨ (rs s a).toNat / 16 % 16 ∉ [2, 3, 4, 5, 6, 7, 8, 10] ∨
         2 ≤ (rs s a).toNat / 256 % 16) →
       exec (.sSetfmtReg a) s = .next (takeTrap s (wordTrap s 0x03 false)))) ∧
  (∀ (s : State) (k : GReg) (a b : SReg) (code : CmpCode),
     (Clear (.sGset k a b code) s → ∃ v t, exec (.sGset k a b code) s = .next t ∧ t = resolveGuard s s.iss.gid k v ∧
       (v = true ↔ Stands code.cond (compareOperand code (rs s a)) (compareOperand code (rs s b))) ∧
       readGuard (cg t) k = (if v then .isTrue else .isFalse) ∧ ∀ j, j ≠ k → readGuard (cg t) j = readGuard (cg s) j) ∧
     (Clear (.sGclr k) s → exec (.sGclr k) s = .next (updCg s (fun g => writeGuard g k .unres))))

/-! ## Control transfer -/

/-- R144: NEXTPC, case by case on the top loop record; what a transfer leaves: the loop stack of NEXTPC and the latched next pc, nothing
else; and the end of the word puts that pc into the path. A word that falls through leaves the loop stack and the pc that NEXTPC gives it for the
word behind it, and nothing else of its group. -/
def Obligations.NextPc : Prop :=
  (∀ (w t : Word) (r : LoopRec) (rest : List LoopRec),
     nextPcGo w t [] = ([], t) ∧
     (r.kind = true → nextPcGo w t (r :: rest) = (r :: rest, t)) ∧
     (r.kind = false → t = r.stop → r.count - 1 ≠ 0 →
       nextPcGo w t (r :: rest) = ({ r with count := r.count - 1 } :: rest, r.start)) ∧
     (r.kind = false → t = r.stop → r.count - 1 = 0 → nextPcGo w t (r :: rest) = nextPcGo w t rest) ∧
     (r.kind = false → t ≠ r.stop → (w.toNat < r.start.toNat ∨ r.stop.toNat ≤ w.toNat) → nextPcGo w t (r :: rest) = (r :: rest, t)) ∧
     (r.kind = false → t ≠ r.stop → r.start.toNat ≤ w.toNat → w.toNat < r.stop.toNat → (t.toNat < r.start.toNat ∨ r.stop.toNat ≤ t.toNat) →
       nextPcGo w t (r :: rest) = nextPcGo w t rest) ∧
     (r.kind = false → t ≠ r.stop → r.start.toNat ≤ w.toNat → w.toNat < r.stop.toNat → r.start.toNat ≤ t.toNat → t.toNat < r.stop.toNat →
       nextPcGo w t (r :: rest) = (r :: rest, t))) ∧
  (∀ (s : State) (t : Word),
     (let u := goNext s t
      let r := nextPcGo s.iss.w t (cg s).loops
      u = { updCg s (fun g => { g with loops := r.1 }) with iss := { s.iss with next := .goto r.2 } }) ∧
     (s.iss.next = .goto t → groupDone (cg s) = false → pathLives (cg s) s.iss.path = true → pathEnded (cg s) s.iss.path = false →
       setNextPc s = updPath s (fun p => { p with pc := t })) ∧
     (s.iss.next = .ended → setNextPc s = s) ∧
     (s.iss.next = .fall → groupDone (cg s) = false → pathLives (cg s) s.iss.path = true → pathEnded (cg s) s.iss.path = false →
       let r := nextPcGo s.iss.w (nextWord s) (cg s).loops
       (cp (setNextPc s)).pc = r.2 ∧ (cg (setNextPc s)).loops = r.1 ∧
       setNextPc s = { updCg s (fun g => putPath { g with loops := r.1 } s.iss.path { cp s with pc := r.2 }) with
         iss := { s.iss with next := .goto r.2 } }))

/-- R138, R139, R254: where each branch goes; a target that is no canonical address traps PAGE_ABSENT, a register-supplied one with address
bits 3:0 not 0 MISALIGNED; no register is written. -/
def Obligations.Branches : Prop :=
  (∀ (s : State) (a b : SReg) (o38 : BitVec 38) (o20 : BitVec 20) (o39 : BitVec 39) (imm : BitVec 32) (limit : BitVec 20) (code : CmpCode)
     (k : MReg),
     let base := s.iss.w &&& ~~~15
     let taken := readM (cg s) k &&& s.iss.mask
     (Clear (.br o38) s → exec (.br o38) s = .next (goNext s (base + 16 * o38.signExtend 64))) ∧
     (Clear (.bcc a b code o20) s → Stands code.cond (compareOperand code (rs s a)) (compareOperand code (rs s b)) →
       exec (.bcc a b code o20) s = .next (goNext s (base + 16 * o20.signExtend 64))) ∧
     (Clear (.bcc a b code o20) s → ¬Stands code.cond (compareOperand code (rs s a)) (compareOperand code (rs s b)) →
       exec (.bcc a b code o20) s = .next (goNext s (nextWord s))) ∧
     (Clear (.jmp a imm) s → exec (.jmp a imm) s = .next (goNext s (rs s a + imm.signExtend 64))) ∧
     (Clear (.brx a b limit) s → (rs s b).toNat < limit.toNat → exec (.brx a b limit) s = .next (goNext s (rs s a + 16 * rs s b))) ∧
     (Clear (.brx a b limit) s → limit.toNat ≤ (rs s b).toNat → exec (.brx a b limit) s = .next (goNext s (nextWord s))) ∧
     (Clear (.bany k o39) s → exec (.bany k o39) s
       = .next (goNext s (if taken = 0 then nextWord s else base + 16 * o39.signExtend 64))) ∧
     (Clear (.ball k o39) s → exec (.ball k o39) s
       = .next (goNext s (if taken = s.iss.mask then base + 16 * o39.signExtend 64 else nextWord s)))) ∧
  -- the traps of a transfer that is taken
  (∀ (s : State) (a b : SReg) (o38 : BitVec 38) (o20 : BitVec 20) (o39 : BitVec 39) (imm : BitVec 32) (limit : BitVec 20) (code : CmpCode)
     (k : MReg),
     let base := s.iss.w &&& ~~~15
     let lanesTaken := readM (cg s) k &&& s.iss.mask
     let traps := fun (i : Instr) (c : Nat) (vs : Bool) =>
       s.iss.passed = false → ctxCode i s = none → generalCode i s 0 = none → exec i s = .next (takeTrap s (wordTrap s c vs))
     let misaligned := fun (t : Word) => canonical t = true ∧ t.toNat % 16 ≠ 0
     (canonical (base + 16 * o38.signExtend 64) = false → traps (.br o38) 0x08 false) ∧
     (canonical (base + 16 * o20.signExtend 64) = false → Stands code.cond (compareOperand code (rs s a)) (compareOperand code (rs s b)) →
       traps (.bcc a b code o20) 0x08 false) ∧
     (canonical (rs s a + imm.signExtend 64) = false → traps (.jmp a imm) 0x08 false) ∧
     (misaligned (rs s a + imm.signExtend 64) → traps (.jmp a imm) 0x0D false) ∧
     ((rs s b).toNat < limit.toNat →
       (canonical (rs s a + 16 * rs s b) = false → traps (.brx a b limit) 0x08 false) ∧
       (misaligned (rs s a + 16 * rs s b) → traps (.brx a b limit) 0x0D false)) ∧
     (canonical (base + 16 * o39.signExtend 64) = false →
       (lanesTaken ≠ 0 → traps (.bany k o39) 0x08 true) ∧ (lanesTaken = s.iss.mask → traps (.ball k o39) 0x08 true)))

/-- The lanes of face A and of face B of the active mask when a call must run them one after the other (R259). -/
def callParts (s : State) (mt : Bool) : Option (Word × Word) :=
  match (cg s).face.find? (fun r => r.stop &&& 15 != 1) with
  | none => none
  | some r =>
    if mt = false ∧ s.iss.mask &&& r.facea ≠ 0 ∧ s.iss.mask &&& ~~~r.facea ≠ 0 then
      some (s.iss.mask &&& r.facea, s.iss.mask &&& ~~~r.facea)
    else none

/-- R139, R259, R260: an ordinary call writes s62 and goes to its target, past NEXTPC; a face call pushes a call record, runs the face A lanes
first and tags s62; an untagged return address is a transfer, a tagged one starts the face B run or ends the face call. That the address of a
MISALIGNED return must be canonical, else it is PAGE_ABSENT, is read from R138 (notes/assumptions/9.md, DEDUCED). -/
def Obligations.CallsAndReturns : Prop :=
  (∀ (s : State) (mt : Bool) (o : BitVec 38) (a : SReg) (ma mb : Word),
     let ret := (s.iss.w &&& ~~~15) + 16
     let target := (s.iss.w &&& ~~~15) + 16 * o.signExtend 64
     let split := fun (t : Word) =>
       let u := updCg s (fun g =>
         putPath { g with face := { facea := mb, entry := s.iss.mask, stop := t ||| 1, fmtc := (cp s).fmt } :: g.face } s.iss.path
           { cp s with mask := ma })
       goTo (ws u 62 (ret ||| 1)) t
     (Clear (.call mt o) s → callParts s mt = none → exec (.call mt o) s = .next (goTo (ws s 62 ret) target)) ∧
     (Clear (.callx mt a) s → callParts s mt = none → exec (.callx mt a) s = .next (goTo (ws s 62 ret) (rs s a))) ∧
     (Clear (.call mt o) s → callParts s mt = some (ma, mb) → exec (.call mt o) s = .next (split target)) ∧
     (Clear (.callx mt a) s → callParts s mt = some (ma, mb) → exec (.callx mt a) s = .next (split (rs s a)))) ∧
  (∀ (s : State) (a : SReg) (r : FaceRec) (rest : List FaceRec),
     let v := rs s a
     (Clear (.ret a) s → v &&& 15 = 0 → exec (.ret a) s = .next (goNext s v)) ∧
     (Clear (.ret a) s → v &&& 15 = 1 → (cg s).face = r :: rest → r.stop &&& 15 = 1 → r.facea &&& ~~~(cg s).gone ≠ 0 →
       exec (.ret a) s = .next (goTo (ws (updCg s (fun g =>
         putPath { g with face := { r with facea := 0 } :: rest } s.iss.path
           { cp s with mask := r.facea &&& ~~~(cg s).gone, fmt := r.fmtc })) 62 v) (r.stop &&& ~~~15))) ∧
     (Clear (.ret a) s → v &&& 15 = 1 → (cg s).face = r :: rest → r.stop &&& 15 = 1 → r.facea &&& ~~~(cg s).gone = 0 →
       exec (.ret a) s = .next (goNext (updCg s (fun g =>
         putPath { g with face := rest } s.iss.path { cp s with mask := r.entry &&& ~~~(cg s).gone, fmt := r.fmtc })) (v &&& ~~~15))) ∧
     (s.iss.passed = false → ctxCode (.ret a) s = none → generalCode (.ret a) s 0 = none →
       (v &&& 15 ≠ 0 → v &&& 15 ≠ 1 → canonical v = true → exec (.ret a) s = .next (takeTrap s (wordTrap s 0x0D false))) ∧
       (v &&& 15 = 1 → ((cg s).face = [] ∨ ((cg s).face = r :: rest ∧ r.stop &&& 15 ≠ 1)) →
         exec (.ret a) s = .next (takeTrap s (wordTrap s 0x14 false)))))

/-- R141, R262, R263: a loop with a count of 0 skips the body, any other count pushes a record; the per-lane loop: lanes with a count of 0 never
enter, `loopv.end` counts every iterating lane down by one and goes back for those whose count is not yet 0. -/
def Obligations.Loops : Prop :=
  (∀ (s : State) (d : SReg) (o : BitVec 38),
     let e := (s.iss.w &&& ~~~15) + 16 * o.signExtend 64
     let body := (s.iss.w &&& ~~~15) + 16
     (Clear (.loopS d o) s → rs s d = 0 → exec (.loopS d o) s = .next (goNext s e)) ∧
     (Clear (.loopS d o) s → rs s d ≠ 0 → exec (.loopS d o) s
       = .next (goTo (updCg s (fun g =>
           { g with loops := { kind := false, start := body, stop := e, count := rs s d, entry := 0, regn := 0 } :: g.loops })) body)) ∧
     (s.iss.passed = false → ctxCode (.loopS d o) s = none → generalCode (.loopS d o) s 0 = none → (cg s).split ≠ [] →
       exec (.loopS d o) s = .next (takeTrap s (wordTrap s 0x13 false)))) ∧
  (∀ (s : State) (v : VReg) (o : BitVec 39) (c : Word) (r : LoopRec) (rest : List LoopRec) (again : Word),
     let e := (s.iss.w &&& ~~~15) + 16 * o.signExtend 64
     let body := (s.iss.w &&& ~~~15) + 16
     (Clear (.loopv v o) s → (∀ l, l < 64 → bit c l = (bit s.iss.mask l && readV (cg s) v l != 0)) →
       (c = 0 → exec (.loopv v o) s = .next (goNext s (e + 16))) ∧
       (c ≠ 0 → exec (.loopv v o) s = .next (goTo (updCg s (fun g =>
         putPath { g with loops := { kind := true, start := body, stop := e, count := c, entry := s.iss.mask, regn := v } :: g.loops }
           s.iss.path { cp s with mask := c })) body))) ∧
     (Clear .loopvEnd s → (cg s).loops = r :: rest → r.kind = true → r.stop = s.iss.w &&& ~~~15 → (cg s).split = [] →
       (∀ l, l < 64 → bit again l = (bit (r.count &&& ~~~(cg s).gone) l && decide (1 < (readV (cg s) r.regn l).toNat))) →
       ∃ t, exec .loopvEnd s = .next t ∧
         (∀ q l, l < 64 → readV (cg t) q l = if q = r.regn ∧ bit (r.count &&& ~~~(cg s).gone) l ∧ readV (cg s) q l ≠ 0
           then readV (cg s) q l - 1 else readV (cg s) q l) ∧
         (again ≠ 0 → (cg t).loops = { r with count := again } :: rest ∧ (cp t).mask = again ∧ t.iss.next = .goto r.start) ∧
         (again = 0 → (cp t).mask = r.entry &&& ~~~(cg s).gone ∧ (cg t).loops = (nextPcGo s.iss.w (nextWord s) rest).1 ∧
           t.iss.next = .goto (nextPcGo s.iss.w (nextWord s) rest).2)) ∧
     (s.iss.passed = false → ctxCode .loopvEnd s = none → generalCode .loopvEnd s 0 = none →
       ((cg s).loops = [] ∨ (cg s).split ≠ [] ∨ ((cg s).loops = r :: rest ∧ (r.kind = false ∨ r.stop ≠ s.iss.w &&& ~~~15))) →
       exec .loopvEnd s = .next (takeTrap s (wordTrap s 0x13 true))))

/-- R145, R146: the two nops have no effect, `s.yield` swaps the group when a pending group is ready, and `s.end` makes the active lanes
GONE: the group retires when no LIVE lane is left (R46, R47). -/
def Obligations.NopYieldEnd : Prop :=
  ∀ s : State,
    (Clear .nop s → exec .nop s = .next s) ∧
    (Clear .vNop s → exec .vNop s = .next s) ∧
    (Clear .sYield s → exec .sYield s = .next (swapOut s s.iss.gid.tag s.iss.gid.core s.iss.gid.grp)) ∧
    (Clear .sYield s → (∀ p ∈ (s.core s.iss.gid.core).pending, groupReady s { s.iss.gid with grp := p } = false) →
      exec .sYield s = .next s) ∧
    (Clear .sEnd s → ∃ t, exec .sEnd s = .next t ∧
      (liveMask (cg s) &&& ~~~s.iss.mask = 0 → groupDone (cg s) = false → (cg t).status = .retired ∧ (cg t).gone = BitVec.allOnes 64) ∧
      (liveMask (cg s) &&& ~~~s.iss.mask ≠ 0 →
        t = updCg s (fun g => putPath { g with gone := g.gone ||| s.iss.mask, helper := g.helper &&& ~~~s.iss.mask } s.iss.path
          { cp s with mask := (cp s).mask &&& ~~~s.iss.mask })))

/-! ## Divergence and melds -/

/-- R252: no lane or every lane takes the branch as one path; otherwise the taken lanes become the lowest free entry of the split table. -/
def Obligations.SplittingBranch : Prop :=
  ∀ (s : State) (k : MReg) (o : BitVec 39) (e : Nat),
    let b := readM (cg s) k &&& s.iss.mask
    let t := (s.iss.w &&& ~~~15) + 16 * o.signExtend 64
    (Clear (.brv k o) s → b = 0 → exec (.brv k o) s = .next (goNext s (nextWord s))) ∧
    (Clear (.brv k o) s → b ≠ 0 → b = s.iss.mask → exec (.brv k o) s = .next (goNext s t)) ∧
    (Clear (.brv k o) s → b ≠ 0 → b ≠ s.iss.mask → (cg s).region = none → e < 8 →
      (∀ p ∈ (cg s).split, p.1 ≠ e + 1) → (∀ f < e, ∃ p ∈ (cg s).split, p.1 = f + 1) →
      exec (.brv k o) s = .next (goTo (updCg s (fun g =>
        putPath (putPath g s.iss.path { cp s with mask := s.iss.mask &&& ~~~b }) (e + 1)
          { mask := b, pc := t, fmt := (cp s).fmt, fmtc := (cp s).fmt, parent := s.iss.path, mdep := g.face.length, ldep := g.loops.length
            waits := [], excl := 0, bound := false })) ((s.iss.w &&& ~~~15) + 16))) ∧
    (s.iss.passed = false → ctxCode (.brv k o) s = none → generalCode (.brv k o) s 0 = none → b ≠ 0 → b ≠ s.iss.mask → canonical t = true →
      (∀ f < 8, ∃ p ∈ (cg s).split, p.1 = f + 1) → exec (.brv k o) s = .next (takeTrap s (wordTrap s 0x12 true)))

/-- R57, R251, R253, R255, R257, R258: `join` and `meldend` of the undivided path alone go on at once, `meldend` closing the region; in a divided
group the path stands at the word. A child path and its parent that stand at the same `join` fuse and the parent passes, an arrival
of the parent at a barrier covering the child's lanes (notes/assumptions/10.md, DEDUCED); while they stand at different ones neither moves.
`meld` pushes the region's record. The traps: calls, melds and loops in a divided group or on a full stack, a next pc that would change a loop
record in a divided group, and a transfer above the open region. -/
def Obligations.JoinsAndMelds : Prop :=
  (∀ (s : State) (k : MReg) (o : BitVec 39) (r : FaceRec) (rest : List FaceRec),
     let undivided := s.iss.path = 0 ∧ (cg s).split = []
     let standing := fun (w : Wait) => endWord (updPath s (fun p => { p with pc := s.iss.w, waits := p.waits ++ [w] }))
     (Clear .join s → undivided → exec .join s = .next (goNext s (nextWord s))) ∧
     (Clear .join s → ¬undivided → exec .join s = .next (standing (.join s.iss.w false))) ∧
     (Clear .meldend s → undivided → (cg s).face = r :: rest → r.stop = s.iss.w &&& ~~~15 → r.stop &&& 15 ≠ 1 →
       exec .meldend s = .next (goFall (updCg s (fun g =>
         putPath { g with face := rest } 0 { g.root with mask := r.entry &&& ~~~g.gone, fmt := r.fmtc })))) ∧
     (Clear .meldend s → ¬undivided → exec .meldend s = .next (standing (.meldend s.iss.w false))) ∧
     (Clear (.meld k o) s → exec (.meld k o) s = .next (updCg (goFall s) (fun g =>
       { g with face := { facea := readM g k &&& s.iss.mask, entry := s.iss.mask, stop := (s.iss.w &&& ~~~15) + 16 * o.signExtend 64
                          fmtc := (pathOf g s.iss.path).fmt } :: g.face })))) ∧
  -- when two paths fuse
  (∀ (s : State) (gid : GId) (e : Nat) (c : Path) (w x : Word) (fused : Bool),
     let G := s.group gid
     let u := (settle s gid).group gid
     let next := nextPcGo w ((w &&& ~~~15) + 16) G.loops
     let own := ownLanes G 0
     -- an arrival above the group's own level, of a parent that has arrived, covers the child's lanes
     let grown := fun (b : BarRec) (m : Word) => if b.level ≠ 0 ∧ own &&& m ≠ 0 ∧ own &&& liveMask G &&& ~~~m = 0 then m ||| c.mask else m
     groupDone G = false → G.split = [(e, c)] → e ≠ 0 → c.parent = 0 → pathEnded G e = false → pathEnded G 0 = false →
     c.waits = [.join w false] → G.root.waits = [.join x fused] →
     (x ≠ w → settle s gid = s) ∧
     (x = w → G.root.pc = w → loopBackAbove G w ((w &&& ~~~15) + 16) = false → G.region = none →
       u = { G with split := [], loops := next.1, bars := G.bars.map (fun b => { b with lanes := grown b b.lanes, share := grown b b.share }), root := { G.root with
         mask := (G.root.mask ||| c.mask) &&& ~~~G.gone, fmt := c.fmtc, pc := next.2, waits := [] } } ∧
       settle s gid = { s with groups := (settle s gid).groups })) ∧
  -- the traps
  (∀ (s : State) (k : MReg) (mt : Bool) (a b d : SReg) (v : VReg) (o38 : BitVec 38) (o39 : BitVec 39) (o20 : BitVec 20) (imm : BitVec 32)
     (code : CmpCode) (limit : BitVec 20) (r : FaceRec) (rest : List FaceRec) (x : Slots),
     let traps := fun (i : Instr) (c : Nat) (vs : Bool) =>
       ctxCode i s = none → generalCode i s 0 = none → exec i s = .next (takeTrap s (wordTrap s c vs))
     let moves := fun (t : Word) => (nextPcGo s.iss.w t (cg s).loops).1 ≠ (cg s).loops
     let near := (s.iss.w &&& ~~~15) + 16 * o38.signExtend 64
     let far := (s.iss.w &&& ~~~15) + 16 * o39.signExtend 64
     let lanesTaken := readM (cg s) k &&& s.iss.mask
     s.iss.passed = false →
     -- R251
     ((cg s).split ≠ [] →
       (canonical far = true → traps (.meld k o39) 0x14 true) ∧
       (callParts s mt ≠ none → (canonical near = true → traps (.call mt o38) 0x14 false) ∧
         (canonical (rs s a) = true → rs s a &&& 15 = 0 → traps (.callx mt a) 0x14 false)) ∧
       traps (.loopS d o38) 0x13 false ∧ traps (.loopv v o39) 0x13 true ∧ traps .loopvEnd 0x13 true ∧
       (canonical near = true → moves near → traps (.br o38) 0x13 false) ∧
       (canonical (rs s a) = true → rs s a &&& 15 = 0 → moves (rs s a) → traps (.ret a) 0x13 false) ∧
       (canonical far = true → lanesTaken ≠ 0 → lanesTaken = s.iss.mask → moves far → traps (.brv k o39) 0x13 true) ∧
       (canonical far = true → lanesTaken ≠ 0 → moves far → traps (.bany k o39) 0x13 true) ∧
       (generalFault s x = none → transfers x.sc = false → transfers x.ve = false → x.sc ≠ .sEnd → checkOf x.sc s = .pass →
         checkOf x.ve s = .pass → moves (nextWord s) → wordCheck s x = .trap (wordTrap s 0x13 false))) ∧
     (canonical far = true → lanesTaken ≠ 0 → lanesTaken ≠ s.iss.mask → (∃ f < 8, ∀ p ∈ (cg s).split, p.1 ≠ f + 1) →
       moves far ∨ moves ((s.iss.w &&& ~~~15) + 16) → traps (.brv k o39) 0x13 true) ∧
     -- full stacks
     ((cg s).split = [] →
       (4 ≤ (cg s).face.length → canonical far = true → traps (.meld k o39) 0x14 true) ∧
       (4 ≤ (cg s).face.length → callParts s mt ≠ none → canonical near = true → traps (.call mt o38) 0x14 false) ∧
       (4 ≤ (cg s).loops.length → rs s d ≠ 0 → canonical near = true → traps (.loopS d o38) 0x13 false) ∧
       (4 ≤ (cg s).loops.length → (∃ l, l < 64 ∧ bit s.iss.mask l = true ∧ readV (cg s) v l ≠ 0) → canonical far = true →
         traps (.loopv v o39) 0x13 true)) ∧
     -- R258
     ((cg s).split = [] → (cg s).face = r :: rest → r.stop &&& 15 ≠ 1 →
       let above := fun (t : Word) => canonical t = true ∧ r.stop.toNat < t.toNat
       (above near → traps (.br o38) 0x14 false) ∧
       (above ((s.iss.w &&& ~~~15) + 16 * o20.signExtend 64) → Stands code.cond (compareOperand code (rs s a)) (compareOperand code (rs s b)) →
         traps (.bcc a b code o20) 0x14 false) ∧
       (above (rs s a + imm.signExtend 64) → (rs s a + imm.signExtend 64) &&& 15 = 0 → traps (.jmp a imm) 0x14 false) ∧
       (above (rs s a + 16 * rs s b) → (rs s a + 16 * rs s b) &&& 15 = 0 → (rs s b).toNat < limit.toNat → traps (.brx a b limit) 0x14 false) ∧
       (above far → lanesTaken ≠ 0 → traps (.bany k o39) 0x14 true) ∧
       (above far → lanesTaken = s.iss.mask → traps (.ball k o39) 0x14 true) ∧
       (generalFault s x = none → transfers x.sc = false → transfers x.ve = false → x.sc ≠ .sEnd → checkOf x.sc s = .pass →
         checkOf x.ve s = .pass → (nextPcGo s.iss.w (nextWord s) (cg s).loops).2 ≠ nextWord s →
         r.stop.toNat < (nextPcGo s.iss.w (nextWord s) (cg s).loops).2.toNat → wordCheck s x = .trap (wordTrap s 0x14 false))))

/-- R264: `demote` moves LIVE lanes to HELPER, `exit` moves lanes to GONE and out of the path's mask; a group without a LIVE lane
retires. Lanes are those of the active mask, of m[K], and of the qualified face. -/
def Obligations.DemoteAndExit : Prop :=
  ∀ (s : State) (fq : FQ) (k : MReg),
    let x := effMask s 0 fq &&& readM (cg s) k
    (Clear (.demote fq k) s → exec (.demote fq k) s
      = .next (retireIfDead (updCg (goFall s) (fun g => { g with helper := g.helper ||| (x &&& ~~~g.gone) })) s.iss.gid)) ∧
    (Clear (.exit fq k) s → exec (.exit fq k) s
      = .next (retireIfDead (updCg (goFall s) (fun g =>
          putPath { g with gone := g.gone ||| x, helper := g.helper &&& ~~~x } s.iss.path
            { pathOf g s.iss.path with mask := (pathOf g s.iss.path).mask &&& ~~~x })) s.iss.gid))

/-! ## The vector slot -/

/-- R103, R147, R148: the lanes of E; the low w bits of a lane under a type, and a result modulo 2^w extended to 32 bits. With U = 1 an
instruction with a lane in E writes every lane of the active mask and without one none, which is read from R99 and R147
(notes/assumptions/26.md, DEDUCED). -/
def Obligations.LaneFormats : Prop :=
  (∀ (s : State) (m : MReg) (fq : FQ),
    (∀ l, l < 64 → (bit (effMask s m fq) l = true ↔ bit s.iss.mask l = true ∧ bit (cp s).excl l = false ∧ bit (readM (cg s) m) l = true ∧
      (fq = .fa → faceB (cg s) l = false) ∧ (fq = .fb → faceB (cg s) l = true))) ∧
    (s.iss.uniform = false → writeMask s m fq = effMask s m fq) ∧
    (effMask s m fq = 0 → writeMask s m fq = 0) ∧
    (s.iss.uniform = true → effMask s m fq ≠ 0 → writeMask s m fq = s.iss.mask &&& ~~~(cp s).excl)) ∧
  ∀ (t : Ty) (a : Nat) (v : Int), t ∈ intTys →
    (intOf t a % 2 ^ t.width = (a : Int) % 2 ^ t.width ∧
      (t.signed = true → -(2 ^ (t.width - 1)) ≤ intOf t a ∧ intOf t a < 2 ^ (t.width - 1)) ∧
      (t.signed = false → 0 ≤ intOf t a ∧ intOf t a < 2 ^ t.width)) ∧
    intOf t (laneOf t v).toNat = intOf t (v % 2 ^ t.width).toNat ∧
    (t.signed = true → (laneOf t v).toInt = intOf t (laneOf t v).toNat) ∧
    (t.signed = false → (laneOf t v).toNat = (v % 2 ^ t.width).toNat)

/-- What a lane reads: the value of register `r` in the lane whose sources it takes, its own or with U = 1 the lowest lane of the active
mask (R99, R147). -/
def laneIn (s : State) (r : Nat → VReg) (l : Nat) : Nat := (readV (cg s) (r (srcLane s l)) (srcLane s l)).toNat

/-- R104, R147, R149, R151, R152: integer arithmetic, logic, shifts and counts of the register forms VR and VT, and the immediate forms, whose
immediate is extended as the type says. -/
def Obligations.VectorInteger : Prop :=
  (∀ (s : State) (m : MReg) (o : VBin) (p : VTer) (q : VUn) (t : Ty),
     let w := t.width
     let a := fun l => laneIn s (fun u => o.srcA (cg s) u) l
     let b := fun l => laneIn s (fun u => o.srcB (cg s) u) l
     let pa := fun l => laneIn s (fun u => p.srcA (cg s) u) l
     let pb := fun l => laneIn s (fun u => p.srcB (cg s) u) l
     let pc := fun l => laneIn s (fun u => p.srcC (cg s) u) l
     let qa := fun l => laneIn s (fun u => q.srcA (cg s) u) l
     let two := fun (i : Instr) (f : Nat → Int) => Clear i s →
       ∃ u, exec i s = .next u ∧ VecWrites s u (writeMask s m o.fq) (o.dst (cg s)) (fun l => (laneOf t (f l), 0))
     let one := fun (i : Instr) (f : Nat → Int) => Clear i s →
       ∃ u, exec i s = .next u ∧ VecWrites s u (writeMask s m q.fq) (q.dst (cg s)) (fun l => (laneOf t (f l), 0))
     two (.vAdd m o t) (fun l => intOf t (a l) + intOf t (b l)) ∧
     two (.vSub m o t) (fun l => intOf t (a l) - intOf t (b l)) ∧
     two (.vMul m o t) (fun l => intOf t (a l) * intOf t (b l)) ∧
     two (.vMulhi m o t) (fun l => intOf t (a l) * intOf t (b l) / 2 ^ w) ∧
     two (.vMin m o t) (fun l => min (intOf t (a l)) (intOf t (b l))) ∧
     two (.vMax m o t) (fun l => max (intOf t (a l)) (intOf t (b l))) ∧
     two (.vAnd m o t) (fun l => ((a l % 2 ^ w &&& b l % 2 ^ w : Nat) : Int)) ∧
     two (.vOr m o t) (fun l => ((a l % 2 ^ w ||| b l % 2 ^ w : Nat) : Int)) ∧
     two (.vXor m o t) (fun l => ((a l % 2 ^ w ^^^ b l % 2 ^ w : Nat) : Int)) ∧
     two (.vShl m o t) (fun l => ((a l % 2 ^ w * 2 ^ (b l % w) : Nat) : Int)) ∧
     two (.vShr m o t) (fun l => ((a l % 2 ^ w / 2 ^ (b l % w) : Nat) : Int)) ∧
     two (.vSra m o t) (fun l => signedBits w (a l) / 2 ^ (b l % w)) ∧
     (Clear (.vMad m p t) s → ∃ u, exec (.vMad m p t) s = .next u ∧ VecWrites s u (writeMask s m p.fq) (p.dst (cg s))
       (fun l => (laneOf t (intOf t (pa l) * intOf t (pb l) + intOf t (pc l)), 0))) ∧
     one (.vAbs m q t) (fun l => ((intOf t (qa l)).natAbs : Int)) ∧
     one (.vNeg m q t) (fun l => -intOf t (qa l)) ∧
     one (.vNot m q t) (fun l => ((2 ^ w - 1 - qa l % 2 ^ w : Nat) : Int)) ∧
     one (.vClz m q t) (fun l => ((clzOf w (qa l % 2 ^ w) : Nat) : Int)) ∧
     one (.vPopc m q t) (fun l => (((List.range w).countP (fun i => (qa l).testBit i) : Nat) : Int))) ∧
  (∀ (s : State) (m : MReg) (o : VImm) (t : Ty),
     let w := t.width
     let a := fun l => laneIn s (fun _ => o.va) l
     let k : Nat := if t.signed then (o.imm.signExtend 32).toNat else o.imm.toNat
     let n := k % 2 ^ 32
     let res := fun (i : Instr) (f : Nat → Int) => Clear i s →
       ∃ u, exec i s = .next u ∧ VecWrites s u (writeMask s m o.fq) (fun _ => o.vd) (fun l => (laneOf t (f l), 0))
     res (.vAddImm m o t) (fun l => intOf t (a l) + intOf t k) ∧
     res (.vSubImm m o t) (fun l => intOf t (a l) - intOf t k) ∧
     res (.vMulImm m o t) (fun l => intOf t (a l) * intOf t k) ∧
     res (.vMinImm m o t) (fun l => min (intOf t (a l)) (intOf t k)) ∧
     res (.vMaxImm m o t) (fun l => max (intOf t (a l)) (intOf t k)) ∧
     res (.vAndImm m o t) (fun l => ((a l % 2 ^ w &&& k % 2 ^ w : Nat) : Int)) ∧
     res (.vOrImm m o t) (fun l => ((a l % 2 ^ w ||| k % 2 ^ w : Nat) : Int)) ∧
     res (.vXorImm m o t) (fun l => ((a l % 2 ^ w ^^^ k % 2 ^ w : Nat) : Int)) ∧
     res (.vShlImm m o t) (fun l => ((a l % 2 ^ w * 2 ^ n : Nat) : Int)) ∧
     res (.vShrImm m o t) (fun l => ((a l % 2 ^ w / 2 ^ n : Nat) : Int)) ∧
     res (.vSraImm m o t) (fun l => signedBits w (a l) / 2 ^ n) ∧
     (∀ fq vd imm, Clear (.vMovi m fq vd t imm) s → ∃ u, exec (.vMovi m fq vd t imm) s = .next u ∧
       VecWrites s u (writeMask s m fq) (fun _ => vd) (fun _ => (laneOf t (if t.signed then imm.toInt else imm.toNat), 0))))

/-- R153, R154, R156: bit fields, selection by a mask register, and the moves copy bits of registers, of a scalar register, or of the
lane's own number, position and face. -/
def Obligations.VectorMoves : Prop :=
  ∀ (s : State) (m : MReg) (fq : FQ) (vd va vb : VReg) (k : MReg) (q : VUn) (r : SReg) (hi : Bool) (sel : BitVec 3) (t : Ty)
    (len : BitVec 6) (pos : BitVec 5),
    let e := writeMask s m fq
    let sl := srcLane s
    let fieldOf := fun l => (readV (cg s) va (sl l)).toNat / 2 ^ pos.toNat % 2 ^ len.toNat
    (Clear (.vBfx m fq vd va t len pos) s → ∃ u, exec (.vBfx m fq vd va t len pos) s = .next u ∧
      VecWrites s u e (fun _ => vd) (fun l => (laneOf t (if t.signed then signedBits len.toNat (fieldOf l) else fieldOf l), 0))) ∧
    (Clear (.vSel m fq vd va vb k) s → ∃ u, exec (.vSel m fq vd va vb k) s = .next u ∧
      VecWrites s u e (fun _ => vd)
        (fun l => (if bit (readM (cg s) k) (sl l) then readV (cg s) va (sl l) else readV (cg s) vb (sl l), 0))) ∧
    (Clear (.vMov m q) s → ∃ u, exec (.vMov m q) s = .next u ∧
      VecWrites s u (writeMask s m q.fq) (q.dst (cg s)) (fun l => (readV (cg s) (q.srcA (cg s) (sl l)) (sl l), 0))) ∧
    (Clear (.vMovs m fq vd r hi) s → ∃ u, exec (.vMovs m fq vd r hi) s = .next u ∧
      VecWrites s u e (fun _ => vd) (fun _ => (if hi then (rs s r).extractLsb' 32 32 else (rs s r).extractLsb' 0 32, 0))) ∧
    (WellFormed (.vLane m fq vd sel) = true → Clear (.vLane m fq vd sel) s → ∃ u, exec (.vLane m fq vd sel) s = .next u ∧
      VecWrites s u e (fun _ => vd) (fun l => (BitVec.ofNat 32
        (match sel.toNat with
         | 0 => sl l | 1 => sl l % 16 | 2 => sl l / 16 | 3 => if faceB (cg s) (sl l) then 1 else 0 | _ => s.iss.gid.grp), 0)))

/-- R155, R109: the twelve integer compares write one bit per lane of E; other lanes keep theirs, and m0 takes none. -/
def Obligations.VectorCompares : Prop :=
  ∀ (s : State) (m : MReg) (fq : FQ) (k : MReg) (va vb : VReg) (t : Ty) (imm : BitVec 16),
    let a := fun l => intOf t (readV (cg s) va (srcLane s l)).toNat
    let b := fun l => intOf t (readV (cg s) vb (srcLane s l)).toNat
    let c := intOf t (if t.signed then (imm.signExtend 32).toNat else imm.toNat)
    let res := fun (i : Instr) (f : Nat → Bool) => Clear i s →
      ∃ u, exec i s = .next u ∧ MaskWrites s u (writeMask s m fq) k (fun l => (f l, 0))
    res (.vCmpEq m fq k va vb t) (fun l => decide (a l = b l)) ∧ res (.vCmpNe m fq k va vb t) (fun l => decide (a l ≠ b l)) ∧
    res (.vCmpLt m fq k va vb t) (fun l => decide (a l < b l)) ∧ res (.vCmpLe m fq k va vb t) (fun l => decide (a l ≤ b l)) ∧
    res (.vCmpGt m fq k va vb t) (fun l => decide (a l > b l)) ∧ res (.vCmpGe m fq k va vb t) (fun l => decide (a l ≥ b l)) ∧
    res (.vCmpEqImm m fq k va t imm) (fun l => decide (a l = c)) ∧ res (.vCmpNeImm m fq k va t imm) (fun l => decide (a l ≠ c)) ∧
    res (.vCmpLtImm m fq k va t imm) (fun l => decide (a l < c)) ∧ res (.vCmpLeImm m fq k va t imm) (fun l => decide (a l ≤ c)) ∧
    res (.vCmpGtImm m fq k va t imm) (fun l => decide (a l > c)) ∧ res (.vCmpGeImm m fq k va t imm) (fun l => decide (a l ≥ c))

/-- The number of a finite value. -/
def valueOf : FV → Rat
  | .fin n m e => (if n then -1 else 1) * ((m : Rat) * 2 ^ e)
  | _ => 0
def magnitude (v : Rat) : Rat := if v < 0 then -v else v

/-- m × 2^e as a multiple of 2^q: rounded in the mode, and whether that was inexact (R76). -/
def onGrid (mode : Nat) (neg : Bool) (m : Nat) (e q : Int) : Nat × Bool :=
  if q ≤ e then (m * 2 ^ (e - q).toNat, false) else shiftRound mode neg m (q - e).toNat

/-- R70, R71, R76, R80, R158: what each rounding mode makes of m / 2^sh, and whether the result is inexact; NaNs, infinities and zeros of a sum,
a product, a minimum and a maximum in each format: canonical NaN results, NV where it is raised, and the sign of an exact zero; finite sums,
products, minima and maxima are those of the exact numbers, rounded once, with the flags of R80. -/
def Obligations.RoundingAndSpecialCases : Prop :=
  (∀ (neg : Bool) (m sh : Nat),
     let d := 2 ^ sh
     (∀ mode, (shiftRound mode neg m sh).2 = decide (m % d ≠ 0)) ∧
     (shiftRound 1 neg m sh).1 = m / d ∧
     (let n := (shiftRound 0 neg m sh).1
      2 * (n * d) ≤ 2 * m + d ∧ 2 * m ≤ 2 * (n * d) + d ∧ (2 * (n * d) = 2 * m + d ∨ 2 * m = 2 * (n * d) + d → n % 2 = 0)) ∧
     (shiftRound 2 false m sh).1 = (m + d - 1) / d ∧ (shiftRound 2 true m sh).1 = m / d ∧
     (shiftRound 3 true m sh).1 = (m + d - 1) / d ∧ (shiftRound 3 false m sh).1 = m / d) ∧
  (∀ (f : Fmt) (mode a b : Nat), f = fp32 ∨ f = fp16 ∨ f = bf16 →
     let x := unpack f a
     let y := unpack f b
     (x.isNan = true ∨ y.isNan = true → fAdd f mode a b = (f.nan, if x.isSig || y.isSig then fNV else 0) ∧
       fMul f mode a b = (f.nan, if x.isSig || y.isSig then fNV else 0)) ∧
     -- sums and products of infinities and of zeros
     (∀ n, x = .inf n → (y = .inf (!n) → fAdd f mode a b = (f.nan, fNV)) ∧ (y = .inf n → fAdd f mode a b = (f.sign n + f.top, 0)) ∧
       ∀ k p e, y = .fin k p e → fAdd f mode a b = (f.sign n + f.top, 0) ∧ fAdd f mode b a = (f.sign n + f.top, 0)) ∧
     (∀ n k, x = .inf n → y = .inf k → fMul f mode a b = (f.sign (n != k) + f.top, 0)) ∧
     (∀ n k e, x = .inf n → y = .fin k 0 e → fMul f mode a b = (f.nan, fNV) ∧ fMul f mode b a = (f.nan, fNV)) ∧
     (∀ n k p e, x = .inf n → y = .fin k (p + 1) e →
       fMul f mode a b = (f.sign (n != k) + f.top, 0) ∧ fMul f mode b a = (f.sign (n != k) + f.top, 0)) ∧
     (∀ n k m p e d, x = .fin n m e → y = .fin k p d → m * p = 0 → fMul f mode a b = (f.sign (n != k), 0)) ∧
     (∀ n k e d, x = .fin n 0 e → y = .fin k 0 d → fAdd f mode a b = (f.sign (if n = k then n else mode == 3), 0)) ∧
     (∀ n m p e d, x = .fin n (m + 1) e → y = .fin (!n) (p + 1) d → valueOf x + valueOf y = 0 → fAdd f mode a b = (f.sign (mode == 3), 0)) ∧
     -- finite sums and products: the exact number, rounded once
     (∀ n k m p e d, x = .fin n m e → y = .fin k p d →
       (valueOf x + valueOf y ≠ 0 → ∃ (c : Nat) (q : Int), 0 < c ∧ (c : Rat) * 2 ^ q = magnitude (valueOf x + valueOf y) ∧
         fAdd f mode a b = roundMag f mode (decide (valueOf x + valueOf y < 0)) c q) ∧
       (m * p ≠ 0 → ∃ (c : Nat) (q : Int), 0 < c ∧ (c : Rat) * 2 ^ q = magnitude (valueOf x * valueOf y) ∧
         fMul f mode a b = roundMag f mode (n != k) c q)) ∧
     -- minima and maxima
     (x.isSig = true ∨ y.isSig = true → fMinMax f false a b = (f.nan, fNV) ∧ fMinMax f true a b = (f.nan, fNV)) ∧
     (x = .nan false → y = .nan false → fMinMax f false a b = (f.nan, 0) ∧ fMinMax f true a b = (f.nan, 0)) ∧
     (∀ mx, a < 2 ^ (f.ebits + f.fbits + 1) → b < 2 ^ (f.ebits + f.fbits + 1) →
       (x = .nan false → y.isNan = false → fMinMax f mx a b = (b, 0) ∧ fMinMax f mx b a = (b, 0)) ∧
       (x.isNan = false → y.isNan = false →
         (x = .inf true → fMinMax f mx a b = (if mx then b else a, 0) ∧ fMinMax f mx b a = (if mx then b else a, 0)) ∧
         (x = .inf false → fMinMax f mx a b = (if mx then a else b, 0) ∧ fMinMax f mx b a = (if mx then a else b, 0)) ∧
         (∀ n k m p e d, x = .fin n m e → y = .fin k p d →
           (valueOf x < valueOf y → fMinMax f mx a b = (if mx then b else a, 0) ∧ fMinMax f mx b a = (if mx then b else a, 0)) ∧
           (m = 0 → p = 0 → n = true → k = false →
             fMinMax f mx a b = (if mx then b else a, 0) ∧ fMinMax f mx b a = (if mx then b else a, 0)))))) ∧
  -- rounding a number that is not 0
  (∀ (f : Fmt) (mode : Nat) (neg : Bool) (m : Nat) (e : Int), f = fp32 ∨ f = fp16 ∨ f = bf16 → 0 < m →
     let x : Int := e + (Nat.log2 m : Nat)
     -- the distance of neighbouring numbers of the format at that size
     let q : Int := max x f.emin - f.fbits
     let n := onGrid mode neg m e q
     let r := roundMag f mode neg m e
     ((n.1 : Rat) * 2 ^ q < 2 ^ (f.bias + 1 : Nat) → valueOf (unpack f r.1) = (if neg then -1 else 1) * ((n.1 : Rat) * 2 ^ q) ∧
       (∃ p d, unpack f r.1 = .fin neg p d) ∧ r.2.testBit 4 = n.2 ∧ r.2.testBit 2 = false ∧
       -- tininess is detected after rounding
       (r.2.testBit 3 = true ↔ n.2 = true ∧ ((onGrid mode neg m e (x - f.fbits)).1 : Rat) * 2 ^ (x - f.fbits) < 2 ^ f.emin)) ∧
     (2 ^ (f.bias + 1 : Nat) ≤ (n.1 : Rat) * 2 ^ q → r.2 = fOF ||| fNX ∧
       r.1 = f.sign neg + (if mode = 1 ∨ (mode = 2 ∧ neg = true) ∨ (3 ≤ mode ∧ neg = false) then f.top - 1 else f.top)))

/-- R92: what a special function delivers for a NaN, an infinity and a zero, and for operands outside its domain. -/
def specialOperand (fn : Sfu) (x : FV) : Option (Nat × Nat) :=
  let nan := fp32.nan
  match fn, x with
  | _, .nan sig => some (nan, if sig then fNV else 0)
  | .rcp, .inf n => some (fp32.sign n, 0)
  | .rcp, .fin n 0 _ => some (fp32.sign n + fp32.top, fDZ)
  | .rsqrt, .inf n => some (if n then (nan, fNV) else (0, 0))
  | .rsqrt, .fin n 0 _ => some (fp32.sign n + fp32.top, fDZ)
  | .rsqrt, .fin true _ _ => some (nan, fNV)
  | .sqrt, .inf n => some (if n then (nan, fNV) else (fp32.top, 0))
  | .sqrt, .fin n 0 _ => some (fp32.sign n, 0)
  | .sqrt, .fin true _ _ => some (nan, fNV)
  | .exp2, .inf n => some (if n then 0 else fp32.top, 0)
  | .log2, .inf n => some (if n then (nan, fNV) else (fp32.top, 0))
  | .log2, .fin _ 0 _ => some (fp32.sign true + fp32.top, fDZ)
  | .log2, .fin true _ _ => some (nan, fNV)
  | .sinpi, .inf _ | .cospi, .inf _ => some (nan, fNV)
  | .sinpi, .fin n 0 _ => some (fp32.sign n, 0)
  | .cospi, .fin _ 0 _ => some (0x3F800000, 0)
  | _, _ => none

/-- R78, R92, R157 to R166: the floating-point, conversion and special-function instructions write, in every lane they write, the result of
that lane's operands under the path's FMT, and raise the OR of the lanes' flags. Which number each function delivers: sums, products, minima and
maxima in `RoundingAndSpecialCases`; here differences, the fused multiply-add and the class word, the conversions between integers and finite
numbers, their saturation and their invalid results, and the special operands of the special functions. How near an approximated function comes
is not claimed. -/
def Obligations.VectorFloat : Prop :=
  -- R70, R80, R157: differences
  (∀ (f : Fmt) (mode a b : Nat) (n k : Bool) (m p : Nat) (e d : Int), f = fp32 ∨ f = fp16 ∨ f = bf16 →
    let x := unpack f a
    let y := unpack f b
    let r := fSub f mode a b
    (x.isNan = true ∨ y.isNan = true → r = (f.nan, if x.isSig || y.isSig then fNV else 0)) ∧
    (x = .inf n → y = .inf n → r = (f.nan, fNV)) ∧
    (x = .inf n → (y = .inf (!n) ∨ y = .fin k p d) → r = (f.sign n + f.top, 0)) ∧
    (x = .fin n m e → y = .inf k → r = (f.sign (!k) + f.top, 0)) ∧
    (x = .fin n m e → y = .fin k p d →
      let v := valueOf x - valueOf y
      (v ≠ 0 → ∃ (c : Nat) (q : Int), 0 < c ∧ (c : Rat) * 2 ^ q = magnitude v ∧ r = roundMag f mode (decide (v < 0)) c q) ∧
      (v = 0 → r = (f.sign (if m = 0 ∧ p = 0 ∧ n ≠ k then n else mode == 3), 0)))) ∧
  -- the fused multiply-add rounds once
  (∀ (f : Fmt) (mode a b c : Nat) (n k j : Bool) (m p q : Nat) (e d g : Int), f = fp32 ∨ f = fp16 ∨ f = bf16 →
    let x := unpack f a
    let y := unpack f b
    let z := unpack f c
    let r := fFma f mode a b c
    let zeroTimesInf := (x = .inf n ∧ y = .fin k 0 d) ∨ (x = .fin n 0 e ∧ y = .inf k)
    let infinite := (x = .inf n ∧ (y = .inf k ∨ y = .fin k (p + 1) d)) ∨ (x = .fin n (m + 1) e ∧ y = .inf k)
    (zeroTimesInf → r = (f.nan, fNV)) ∧
    (x.isNan = true ∨ y.isNan = true ∨ (z.isNan = true ∧ ((x = .fin n m e ∧ y = .fin k p d) ∨ infinite)) →
      r = (f.nan, if x.isSig || y.isSig || z.isSig then fNV else 0)) ∧
    (infinite → (z = .inf (!(n != k)) → r = (f.nan, fNV)) ∧ ((z = .inf (n != k) ∨ z = .fin j q g) → r = (f.sign (n != k) + f.top, 0))) ∧
    (x = .fin n m e → y = .fin k p d → z = .inf j → r = (f.sign j + f.top, 0)) ∧
    (x = .fin n m e → y = .fin k p d → z = .fin j q g →
      let v := valueOf x * valueOf y + valueOf z
      (v ≠ 0 → ∃ (c : Nat) (q : Int), 0 < c ∧ (c : Rat) * 2 ^ q = magnitude v ∧ r = roundMag f mode (decide (v < 0)) c q) ∧
      (v = 0 → r = (f.sign (if m * p = 0 ∧ q = 0 ∧ (n != k) = j then j else mode == 3), 0)))) ∧
  -- R160: the class word
  (∀ (f : Fmt) (a : Nat) (n : Bool) (m : Nat) (e : Int), f = fp32 ∨ f = fp16 ∨ f = bf16 →
    let x := unpack f a
    let tiny := magnitude (valueOf x) < 2 ^ f.emin
    (x = .inf n → fClass f a = if n then 1 else 128) ∧
    (x = .fin n 0 e → fClass f a = if n then 8 else 16) ∧
    (x = .fin n (m + 1) e → tiny → fClass f a = if n then 4 else 32) ∧
    (x = .fin n (m + 1) e → ¬tiny → fClass f a = if n then 2 else 64) ∧
    (x = .nan n → fClass f a = if n then 256 else 512)) ∧
  -- R78, R162: the conversions
  (∀ (src dst : Ty) (mode a : Nat) (sat : Bool) (n : Bool) (m : Nat) (e : Int),
    (src ∈ fpTys → dst ∈ intTys → unpack (fmtOfTy src) a = .fin n m e →
      let r := onGrid mode n m e 0
      let i : Int := if n then -(r.1 : Int) else r.1
      (tyMin dst ≤ i ∧ i ≤ tyMax dst → convert src dst mode sat a = (laneOf dst i, if r.2 then fNX else 0)) ∧
      (i < tyMin dst → convert src dst mode sat a = (laneOf dst (if sat then tyMin dst else 2 ^ (dst.width - 1)), fNV)) ∧
      (tyMax dst < i → convert src dst mode sat a = (laneOf dst (if sat then tyMax dst else 2 ^ (dst.width - 1)), fNV))) ∧
    (src ∈ fpTys → dst ∈ intTys → (unpack (fmtOfTy src) a).isNan = true →
      convert src dst mode sat a = (laneOf dst (if sat then 0 else 2 ^ (dst.width - 1)), fNV)) ∧
    (src ∈ fpTys → dst ∈ intTys → unpack (fmtOfTy src) a = .inf n →
      convert src dst mode sat a = (laneOf dst (if sat then (if n then tyMin dst else tyMax dst) else 2 ^ (dst.width - 1)), fNV)) ∧
    (src ∈ intTys → dst ∈ fpTys → sat = false →
      let i := intOf src a
      let r := roundMag (fmtOfTy dst) mode (decide (i < 0)) i.natAbs 0
      convert src dst mode sat a = if i = 0 then (0, 0) else (BitVec.ofNat 32 r.1, r.2)) ∧
    (src ∈ intTys → dst ∈ intTys → convert src dst mode sat a = (laneOf dst
      (if sat = true ∧ dst.width ≤ src.width then max (tyMin dst) (min (tyMax dst) (intOf src a)) else intOf src a), 0)) ∧
    (src ∈ fpTys → dst ∈ fpTys → sat = false → unpack (fmtOfTy src) a = .fin n (m + 1) e →
      let r := roundMag (fmtOfTy dst) mode n (m + 1) e
      convert src dst mode sat a = (BitVec.ofNat 32 r.1, r.2))) ∧
  -- R92: the special operands
  (∀ (fn : Sfu) (mode a : Nat) (r : Nat × Nat), specialOperand fn (unpack fp32 a) = some r → sfu fn .f32 mode a = r) ∧
  ∀ (s : State) (m : MReg) (fq : FQ) (o : VBin) (p : VTer) (q : VUn) (vd va vb : VReg) (t : Ty) (src dst : Ty) (hi : Bool) (w : BitVec 4),
    let f := fmtOfTy t
    let rnd := fmtRnd (cp s).fmt
    let sat := fmtSat (cp s).fmt
    let a := fun l => laneIn s (fun u => o.srcA (cg s) u) l
    let b := fun l => laneIn s (fun u => o.srcB (cg s) u) l
    let qa := fun l => laneIn s (fun u => q.srcA (cg s) u) l
    let v := fun l => laneIn s (fun _ => va) l
    let u' := fun l => laneIn s (fun _ => vb) l
    let lane := fun (x : Nat × Nat) => (BitVec.ofNat 32 x.1, x.2)
    let two := fun (i : Instr) (g : Nat → Nat × Nat) => Clear i s →
      ∃ u, exec i s = .next u ∧ VecWrites s u (writeMask s m o.fq) (o.dst (cg s)) (fun l => lane (g l))
    let one := fun (i : Instr) (g : Nat → Nat × Nat) => Clear i s →
      ∃ u, exec i s = .next u ∧ VecWrites s u (writeMask s m q.fq) (q.dst (cg s)) (fun l => lane (g l))
    let plain := fun (i : Instr) (g : Nat → Lane × Nat) => Clear i s →
      ∃ u, exec i s = .next u ∧ VecWrites s u (writeMask s m fq) (fun _ => vd) g
    two (.vFadd m o t) (fun l => fAdd f rnd (a l) (b l)) ∧
    two (.vFsub m o t) (fun l => fSub f rnd (a l) (b l)) ∧
    two (.vFmul m o t) (fun l => fMul f rnd (a l) (b l)) ∧
    two (.vFmin m o t) (fun l => fMinMax f false (a l) (b l)) ∧
    two (.vFmax m o t) (fun l => fMinMax f true (a l) (b l)) ∧
    (Clear (.vFma m p t) s → ∃ u, exec (.vFma m p t) s = .next u ∧ VecWrites s u (writeMask s m p.fq) (p.dst (cg s)) (fun l =>
      lane (fFma f rnd (laneIn s (fun i => p.srcA (cg s) i) l) (laneIn s (fun i => p.srcB (cg s) i) l)
        (laneIn s (fun i => p.srcC (cg s) i) l)))) ∧
    plain (.vFclass m fq vd va t) (fun l => (BitVec.ofNat 32 (fClass f (v l)), 0)) ∧
    plain (.vCvt m fq vd va src dst) (fun l => convert src dst rnd sat (v l)) ∧
    plain (.vPack m fq vd va vb t) (fun l =>
      let x := convert (wideTy t) t rnd sat (v l)
      let y := convert (wideTy t) t rnd sat (u' l)
      (BitVec.ofNat 32 (y.1.toNat % 65536 * 65536 + x.1.toNat % 65536), x.2 ||| y.2)) ∧
    plain (.vUnpack m fq vd va hi t) (fun l =>
      let h := if hi then v l / 65536 % 65536 else v l % 65536
      if isFp t then lane (widen t h) else (laneOf t (intOf t h), 0)) ∧
    plain (.vQunpack m fq vd va vb w) (fun l =>
      let e := u' l % 256
      lane (if e = 255 then fp32.nan else qbToFp32 w.toNat e (signedBits w.toNat (v l)), 0)) ∧
    one (.vRcp m q t) (fun l => sfu .rcp t rnd (qa l)) ∧
    one (.vRsqrt m q t) (fun l => sfu .rsqrt t rnd (qa l)) ∧
    one (.vSqrt m q t) (fun l => sfu .sqrt t rnd (qa l)) ∧
    one (.vExp2 m q t) (fun l => sfu .exp2 t rnd (qa l)) ∧
    one (.vLog2 m q t) (fun l => sfu .log2 t rnd (qa l)) ∧
    one (.vSinpi m q t) (fun l => sfu .sinpi t rnd (qa l)) ∧
    one (.vCospi m q t) (fun l => sfu .cospi t rnd (qa l))

/-- R159: the floating-point compares: `.ne` holds with a NaN, every other condition fails with one; NV for a signalling NaN, and for a
quiet one under an ordering condition. Without a NaN a condition is that of the numbers, the two zeros being equal, and raises nothing. -/
def Obligations.VectorFloatCompares : Prop :=
  (∀ (s : State) (m : MReg) (fq : FQ) (k : MReg) (va vb : VReg) (t : Ty),
    let res := fun (i : Instr) (c : Cond) => Clear i s → ∃ u, exec i s = .next u ∧ MaskWrites s u (writeMask s m fq) k
      (fun l => fCmp (fmtOfTy t) c (laneIn s (fun _ => va) l) (laneIn s (fun _ => vb) l))
    res (.vFcmpEq m fq k va vb t) .eq ∧ res (.vFcmpNe m fq k va vb t) .ne ∧ res (.vFcmpLt m fq k va vb t) .lt ∧
    res (.vFcmpLe m fq k va vb t) .le ∧ res (.vFcmpGt m fq k va vb t) .gt ∧ res (.vFcmpGe m fq k va vb t) .ge) ∧
  (∀ (f : Fmt) (c : Cond) (a b : Nat), (unpack f a).isNan = true ∨ (unpack f b).isNan = true →
    (fCmp f c a b).1 = decide (c = .ne) ∧
    (fCmp f c a b).2 = (if (unpack f a).isSig = true ∨ (unpack f b).isSig = true ∨ (c ≠ .eq ∧ c ≠ .ne) then fNV else 0)) ∧
  (∀ (f : Fmt) (c : Cond) (a b : Nat) (n k : Bool) (m p : Nat) (e d : Int),
    let x := unpack f a
    let y := unpack f b
    let r := fCmp f c a b
    (x = .fin n m e → y = .fin k p d → (r.1 = true ↔ match c with
      | .eq => valueOf x = valueOf y | .ne => valueOf x ≠ valueOf y | .lt => valueOf x < valueOf y
      | .le => valueOf x ≤ valueOf y | .gt => valueOf y < valueOf x | .ge => valueOf y ≤ valueOf x)) ∧
    (x = .inf n → y = .fin k p d → (r.1 = true ↔ if n = true then c = .ne ∨ c = .lt ∨ c = .le else c = .ne ∨ c = .gt ∨ c = .ge)) ∧
    (x = .fin k p d → y = .inf n → (r.1 = true ↔ if n = true then c = .ne ∨ c = .gt ∨ c = .ge else c = .ne ∨ c = .lt ∨ c = .le)) ∧
    (x = .inf n → y = .inf k → (r.1 = true ↔ if n = k then c = .eq ∨ c = .le ∨ c = .ge
      else if n = true then c = .ne ∨ c = .lt ∨ c = .le else c = .ne ∨ c = .gt ∨ c = .ge)) ∧
    (x.isNan = false → y.isNan = false → r.2 = 0))

/-- R75, R161, R164: the two instructions with two destinations: the sum with its error, and the blocks of sixteen threads with their shared
exponent. The error of a finite sum is the exact error, rounded once in the mode where FP32 does not hold it
(notes/assumptions/26.md, DESIGN CHOICE); quantisation takes the exponent of the greatest magnitude and of each
value the nearest mantissa, ties to even, and raises QS and NX where R75 does. Lanes not written keep their values; FLAGS takes the OR of the
flags of the lanes' additions, or of their blocks' quantisation. -/
def Obligations.VectorPairs : Prop :=
  ∀ (s : State) (m : MReg) (fq : FQ) (vd va vb vc : VReg) (w : BitVec 4), vd ≠ vc →
    let e := writeMask s m fq
    let writes := fun (u : State) (p : Nat → Lane × Lane × Nat) =>
      u = updCg s (fun g => { g with vregs := (cg u).vregs, flags := (cg u).flags }) ∧
      (∀ r l, l < 64 → readV (cg u) r l =
        if bit e l ∧ r = vd then (p l).1 else if bit e l ∧ r = vc then (p l).2.1 else readV (cg s) r l) ∧
      ∀ n, n < 64 → (cg u).flags.getLsbD n =
        ((cg s).flags.getLsbD n || (decide (n < 6) && lanes.any (fun l => bit e l && (p l).2.2.testBit n)))
    (Clear (.vTwosum m fq vd va vb vc) s → ∃ u, exec (.vTwosum m fq vd va vb vc) s = .next u ∧ writes u (fun l =>
      let x := twoSum (fmtRnd (cp s).fmt) (laneIn s (fun _ => va) l) (laneIn s (fun _ => vb) l)
      (BitVec.ofNat 32 x.1, BitVec.ofNat 32 x.2.1, x.2.2))) ∧
    (s.iss.uniform = false → Clear (.vQpack m fq vd va vc w) s → ∃ u, exec (.vQpack m fq vd va vc w) s = .next u ∧ writes u (fun l =>
      let x := quant w.toNat ((List.range 16).map (fun i =>
        unpack fp32 (if bit e (l / 16 * 16 + i) then (readV (cg s) va (l / 16 * 16 + i)).toNat else 0)))
      (BitVec.ofInt 32 (x.2.1.getD (l % 16) 0), BitVec.ofNat 32 x.1, x.2.2))) ∧
    -- the sum is that of `v.fadd`; the error of a finite sum is exact before its one rounding, that of another sum 0
    (∀ mode a b,
      let sum := unpack fp32 (fAdd fp32 mode a b).1
      let error := valueOf (unpack fp32 a) + valueOf (unpack fp32 b) - valueOf sum
      (twoSum mode a b).1 = (fAdd fp32 mode a b).1 ∧ (twoSum mode a b).2.2 = (fAdd fp32 mode a b).2 ∧
      ((∀ n p d, sum ≠ .fin n p d) → (twoSum mode a b).2.1 = 0) ∧
      ∀ n p d, sum = .fin n p d →
        (error ≠ 0 → ∃ (c : Nat) (q : Int), 0 < c ∧ (c : Rat) * 2 ^ q = magnitude error ∧
          (twoSum mode a b).2.1 = (roundMag fp32 mode (decide (error < 0)) c q).1) ∧
        (error = 0 → (twoSum mode a b).2.1 = fp32.sign (mode == 3))) ∧
    -- the quantisation of R75
    (∀ (w : Nat) (xs : List FV), 0 < w →
      let r := quant w xs
      let x := fun (i : Nat) => xs.getD i (.fin false 0 0)
      let m := fun (i : Nat) => r.2.1.getD i 0
      let y := fun (i : Nat) => valueOf (x i) * 2 ^ ((w : Int) - 1 - ((r.1 : Int) - 127))
      let top : Int := 2 ^ (w - 1)
      let zeros := ∀ v ∈ xs, ∃ n e, v = .fin n 0 e
      ((∃ v ∈ xs, v.isNan = true) → r.1 = 0xFF ∧ (∀ i, m i = 0) ∧ r.2.2 = if xs.any FV.isSig then fNV else 0) ∧
      (zeros → r.1 = 0 ∧ (∀ i, m i = 0) ∧ r.2.2 = 0) ∧
      ((∀ v ∈ xs, v.isNan = false) → ¬zeros → r.2.1.length = xs.length ∧
        ((∃ n, .inf n ∈ xs) → r.1 = 0xFE) ∧
        (∀ v ∈ xs, ∀ t : Int, (∀ u ∈ xs, (∀ n, u ≠ .inf n) ∧ magnitude (valueOf u) ≤ magnitude (valueOf v)) →
          2 ^ t ≤ magnitude (valueOf v) → magnitude (valueOf v) < 2 ^ (t + 1) → (r.1 : Int) = min 0xFE (max 0 (t + 128))) ∧
        (∀ i, i < xs.length → (x i = .inf true → m i = -top) ∧ (x i = .inf false → m i = top - 1) ∧
          ∀ n p e, x i = .fin n p e → -top ≤ m i ∧ m i < top ∧ ∀ z : Int, -top ≤ z → z < top →
            magnitude (m i - y i) ≤ magnitude (z - y i) ∧ (magnitude (m i - y i) = magnitude (z - y i) → z = m i ∨ m i % 2 = 0)) ∧
        (r.2.2.testBit 5 = true ↔ ∃ i, i < xs.length ∧ ((∃ n, x i = .inf n) ∨ (top : Rat) ≤ y i ∨ y i < -(top : Rat))) ∧
        (r.2.2.testBit 4 = true ↔ ∃ i, i < xs.length ∧ ((∃ n, x i = .inf n) ∨ (m i : Rat) ≠ y i)) ∧
        ∀ b, b ≠ 4 → b ≠ 5 → r.2.2.testBit b = false))

/-- R150, R167 to R170: values of other threads are those from before the instruction, a GONE thread's is 0, and one out of the group is
the reader's own; reductions write one value to every lane of E, scans each lane its own. -/
def Obligations.CrossLane : Prop :=
  ∀ (s : State) (m : MReg) (fq : FQ) (vd va : VReg) (b : ShSrc) (mode : BitVec 2) (op : BitVec 4) (t : Ty) (x : Bool),
    let e := effMask s m fq
    let g := cg s
    let other := fun (j : Int) (l : Nat) =>
      if j < 0 ∨ 63 < j then readV g va l else if bit g.gone j.toNat then 0 else readV g va j.toNat
    let operand : Nat → Nat := fun l => match b with | .reg r => (readV g r l).toNat | .imm n => n.toNat
    let fp := fun (r : Nat × Nat) => ((BitVec.ofNat 32 r.1 : Lane), r.2)
    let combine := redCombine op.toNat t (fmtRnd (cp s).fmt)
    -- a value that enters a combine, and a value that is delivered without one
    let plain := fun (a : Nat) => if op.toNat < 8 then (laneOf t (intOf t a), 0) else fp (a, 0)
    let first := fun (a : Nat) => if 8 ≤ op.toNat ∧ (unpack fp32 a).isNan = true
      then fp (fp32.nan, if (unpack fp32 a).isSig then fNV else 0) else plain a
    (s.iss.uniform = false → Clear (.vShfl m fq vd va b mode) s → ∃ u, exec (.vShfl m fq vd va b mode) s = .next u ∧
      VecWrites s u e (fun _ => vd) (fun l => (other
        (match mode.toNat with
         | 0 => (operand l : Int) | 1 => (l : Int) - operand l | 2 => (l : Int) + operand l | _ => (Nat.xor l (operand l) : Int)) l, 0))) ∧
    (s.iss.uniform = false → Clear (.vBcast m fq vd va b) s → ∃ u, exec (.vBcast m fq vd va b) s = .next u ∧
      VecWrites s u e (fun _ => vd) (fun l => (other (operand (lowest e)) l, 0))) ∧
    -- a reduction: one value in every lane written
    (Clear (.vRedx m fq vd va op t) s → ∃ u, exec (.vRedx m fq vd va op t) s = .next u ∧
      VecWrites s u (writeMask s m fq) (fun _ => vd) (fun _ => redxValue s g e va op.toNat t)) ∧
    -- all but FADDTREE combine the lanes' values in ascending order
    (op ≠ 8 → ∀ a rest, (lanesOf e).map (fun i => (readV g va i).toNat) = a :: rest →
      (rest = [] → redxValue s g e va op.toNat t = first a) ∧
      (rest ≠ [] → redxValue s g e va op.toNat t
        = rest.foldl (fun y b => ((combine y.1.toNat b).1, y.2 ||| (combine y.1.toNat b).2)) (plain a))) ∧
    -- FADDTREE: the addends in a tree over all 64 places, −0 where the lane is not in E
    (op = 8 → ∃ sum : Nat → Nat → Nat × Nat,
      (∀ i, i < 64 → sum 0 i = (if bit e i then (readV g va i).toNat else 0x80000000, 0)) ∧
      (∀ k i, k < 6 → i < 2 ^ (5 - k) → sum (k + 1) i =
        (let p := treeAdd (fmtRnd (cp s).fmt) (sum k (2 * i)).1 (sum k (2 * i + 1)).1
         (p.1, p.2 ||| ((sum k (2 * i)).2 ||| (sum k (2 * i + 1)).2)))) ∧
      redxValue s g e va op.toNat t = (BitVec.ofNat 32 (sum 6 0).1, (sum 6 0).2)) ∧
    (∀ mode a, (unpack fp32 a).isNan = false → treeAdd mode a 0x80000000 = (a, 0) ∧ treeAdd mode 0x80000000 a = (a, 0)) ∧
    (∀ mode a b, a ≠ 0x80000000 → b ≠ 0x80000000 → treeAdd mode a b = fAdd fp32 mode a b) ∧
    -- a scan: each lane of E the combined value of the lanes of E up to it, or with X = 1 of those before it
    (Clear (.vScan m fq vd va x op t) s → ∃ u, exec (.vScan m fq vd va x op t) s = .next u ∧
      u = updCg s (fun g => { g with vregs := (cg u).vregs, flags := (cg u).flags }) ∧
      (∀ r l, l < 64 → ¬(bit e l = true ∧ r = vd) → readV (cg u) r l = readV g r l) ∧
      ∃ upTo : Nat → Lane × Nat,
        (∀ l, l < 64 → bit e l = true → (∀ j, j < l → bit e j = false) →
          upTo l = first (readV g va l).toNat ∧ readV (cg u) vd l = if x then scanIdent op.toNat t else (upTo l).1) ∧
        (∀ j l, j < l → l < 64 → bit e j = true → bit e l = true → (∀ i, j < i → i < l → bit e i = false) →
          upTo l = combine (upTo j).1.toNat (readV g va l).toNat ∧ readV (cg u) vd l = if x then (upTo j).1 else (upTo l).1) ∧
        ∀ n, n < 64 → (cg u).flags.getLsbD n
          = (g.flags.getLsbD n || (decide (n < 6) && lanes.any (fun l => bit e l && (upTo l).2.testBit n)))) ∧
    (∀ y z, (op = 0 → combine y z = (laneOf t (intOf t y + intOf t z), 0)) ∧ (op = 1 → combine y z = (laneOf t (min (intOf t y) (intOf t z)), 0)) ∧
      (op = 2 → combine y z = (laneOf t (max (intOf t y) (intOf t z)), 0)) ∧
      (op = 3 → combine y z = (laneOf t ((y % 2 ^ t.width &&& z % 2 ^ t.width : Nat) : Int), 0)) ∧
      (op = 4 → combine y z = (laneOf t ((y % 2 ^ t.width ||| z % 2 ^ t.width : Nat) : Int), 0)) ∧
      (op = 5 → combine y z = (laneOf t ((y % 2 ^ t.width ^^^ z % 2 ^ t.width : Nat) : Int), 0)) ∧
      (op = 8 → combine y z = fp (fAdd fp32 (fmtRnd (cp s).fmt) y z)) ∧ (op = 9 → combine y z = fp (fMinMax fp32 false y z)) ∧
      (op = 10 → combine y z = fp (fMinMax fp32 true y z)))

/-- R171, R172: `v.ballot` writes every bit of mD; the mask instructions write the bits of E, and m0 takes none. -/
def Obligations.MaskInstructions : Prop :=
  ∀ (s : State) (m : MReg) (fq : FQ) (k a b : MReg) (va vd : VReg) (t : Ty),
    let e := effMask s m fq
    let ma := readM (cg s) a
    let mb := readM (cg s) b
    let res := fun (i : Instr) (f : Nat → Bool) => Clear i s → ∃ u, exec i s = .next u ∧ MaskWrites s u e k (fun l => (f l, 0))
    (Clear (.vBallot m fq k va t) s → ∃ u, exec (.vBallot m fq k va t) s = .next u ∧
      MaskWrites s u (BitVec.allOnes 64) k (fun l => (bit e l && decide ((readV (cg s) va l).toNat % 2 ^ t.width ≠ 0), 0))) ∧
    res (.kAnd m fq k a b) (fun l => bit ma l && bit mb l) ∧ res (.kOr m fq k a b) (fun l => bit ma l || bit mb l) ∧
    res (.kXor m fq k a b) (fun l => bit ma l != bit mb l) ∧ res (.kNot m fq k a) (fun l => !bit ma l) ∧
    res (.kMov m fq k a) (fun l => bit ma l) ∧
    res (.kFirst m fq k a) (fun l => bit ma l && (List.range l).all (fun j => !(bit e j && bit ma j))) ∧
    (Clear (.kPopc m fq vd a) s → ∃ u, exec (.kPopc m fq vd a) s = .next u ∧
      VecWrites s u e (fun _ => vd) (fun _ => (BitVec.ofNat 32 ((List.range 64).countP (fun i => bit ma i)), 0)))

/-! ## System registers, traps and waits -/

/-- R185, R187, R189, R192: what each system value and system register reads, what a write of one leaves, and the privilege of a
write. -/
def Obligations.SystemRegisters : Prop :=
  ∀ (s : State) (d a : SReg) (k : BitVec 8) (b : BitVec 2),
    let g := cg s
    let v := rs s a
    let me := s.iss.gid
    let t := lowest s.iss.mask
    let some' := s.iss.mask ≠ 0
    let get := fun (n : BitVec 8) (x : Word) => Clear (.sGetsr d n) s → exec (.sGetsr d n) s = .next (ws s d x)
    let sys := fun (n : BitVec 5) (x : Nat) => Clear (.sSys d n) s → exec (.sSys d n) s = .next (ws s d (BitVec.ofNat 64 x))
    let set := fun (n : BitVec 8) (f : Group → Group) => Clear (.sSetsr n a) s → exec (.sSetsr n a) s = .next (updCg s f)
    get 0x00 g.xpc ∧ get 0x01 g.xcode ∧ get 0x02 g.faultmask ∧ get 0x03 g.faultface ∧ get 0x04 g.faultaddr ∧ get 0x08 s.iss.flags ∧
    get 0x09 s.iss.elstat ∧ get 0x0A (BitVec.ofNat 64 (g.budleft.getD 0 0 % 2 ^ 32)) ∧ get 0x0B (g.spord.setWidth 64) ∧
    get 0x0C ((if g.h then 2 else 0) + (if g.svc then 1 else 0)) ∧ get 0x0D ((g.ck.ckpc &&& ~~~15) ||| (if g.ck.ckv then 1 else 0)) ∧
    (Clear (.sSys d 0) s → exec (.sSys d 0) s = .next (ws s d (capsOf s.part))) ∧ sys 1 (me.core / 32) ∧ sys 2 (me.core / 8 % 4) ∧ sys 3 (me.core % 8) ∧ sys 4 (s.wg me.tag me.core).stage ∧ sys 5 me.grp ∧
    (some' → sys 6 t ∧ sys 7 (t % 16) ∧ sys 8 (t / 16) ∧ sys 9 (if bit s.iss.face t then 1 else 0)) ∧
    (¬some' → sys 6 0 ∧ sys 7 0 ∧ sys 8 0 ∧ sys 9 0) ∧ sys 10 s.dtime ∧
    (Clear (.sBudget d b) s → exec (.sBudget d b) s = .next (ws s d (BitVec.ofNat 64 (g.budleft.getD b.toNat 0)))) ∧
    set 0x00 (fun g => { g with xpc := v }) ∧ set 0x02 (fun g => { g with faultmask := v }) ∧
    set 0x08 (fun g => { g with flags := v &&& 63 }) ∧
    set 0x09 (fun g => { g with elcode := v.extractLsb' 8 8, elcause := v.extractLsb' 0 4 }) ∧
    (s.iss.passed = false → (k ≠ 0x08 ∧ k ≠ 0x09 ∧ ¬(g.h = true ∧ (k = 0x00 ∨ k = 0x02))) →
      exec (.sSetsr k a) s = .next (takeTrap s (wordTrap s 0x05 false)))

/-- R332, R334, R335: taking a fault. With a handler and H = 0 the group enters it: the fault registers are written, H is set, the
path goes to the handler's first word with its mask, registers, FLAGS and FMT as they were; without one, or in a handler, the launch
is terminated with the code. -/
def Obligations.TakingAFault : Prop :=
  ∀ (s : State) (t : Trap) (ha : Word) (x : ILine),
    let me := s.iss.gid
    let k := s.iss.path
    let l := s.launch me.tag
    let u := takeTrap s t
    (cg s).region = none →
    ((cg s).h = false → l.handler = some ha → canonical ha = true →
      icacheLine (s.core me.core) l.ctx (ha.toNat / 128) = some x →
      u.iss.next = .ended ∧
      u = { updCg s (fun g => { g with
        h := true, xpc := t.xpc, faultmask := t.mask, faultface := t.face, faultaddr := t.addr, xcode := (cg u).xcode, kept := (cg u).kept
        root := (cg u).root, split := (cg u).split }) with iss := { s.iss with next := .ended } } ∧
      (t.code < 256 → (cg u).xcode.toNat = t.arg % 65536 * 65536 + (if t.vs then 256 else 0) + t.code) ∧
      (∀ j, pathOf (cg u) j = if j = k then { cp s with pc := ha, waits := [], excl := 0, bound := false } else pathOf (cg s) j) ∧
      ∃ kept, (cg u).kept = some kept ∧ kept.path = k ∧ kept.mask = (cp s).mask ∧ kept.fmt = (cp s).fmt ∧
        kept.nsplit = (cg s).split.length ∧ kept.nface = (cg s).face.length ∧ kept.nloop = (cg s).loops.length ∧
        kept.waits = (cp s).waits ∧ kept.code = t.code) ∧
    (((cg s).h = true ∨ l.handler = none) → l.tag = me.tag → l.tag ≠ 0 → l.status = none → l.state ≠ .completing →
      u.iss.next = .ended ∧ (u.launch me.tag).status = some t.code ∧ (u.launch me.tag).state = .completing ∧
      (u.launch me.tag).cause = some me ∧ (u.launch me.tag).xpc = t.xpc ∧
      (u.launch me.tag).first = (match (cg s).h, (cg s).kept with | true, some kept => kept.code | _, _ => 0))

/-- R190, R191, R193, R353: `trap` and `brk` raise their code with ARG = e and XPC = w + 16, or `brk` halts the group when breaks are
enabled; `rett` restores the mask less the lanes that have become GONE, keeps from a word the lanes that an earlier `rett.excl` has taken from it when an
event came before it, and traps where a stack is not as deep as at entry (R265), with the lowest code where several are not
(notes/assumptions/11.md, DESIGN CHOICE); `halt`; PRIV where they may not run. -/
def Obligations.TrapsAndReturn : Prop :=
  ∀ (s : State) (e : BitVec 16) (m : BitVec 2) (k : Kept),
    let g := cg s
    let me := s.iss.gid
    let after := (s.iss.w &&& ~~~15) + 16
    let fault : Nat → Trap := fun code =>
      { code := code, arg := e.toNat, vs := false, mask := s.iss.mask, face := 0, addr := 0, xpc := after }
    let f := g.faultmask
    let p := pathOf g k.path
    let back := k.mask &&& ~~~g.gone
    let stops := fun (c : Nat) => exec (.rett m) s = .next (takeTrap s (wordTrap s c false))
    let r := fun (n : Nat) => (returnFrom s me k n).group me
    let breaks := regLE s (dbgBase (s.launch me.tag).ctx) 8 % 2 = 1
    let still := fun (w : Word) => match k.excl with
      | some x => if x.1 = w then x.2 else 0
      | none => 0
    let past := (nextPcGo g.xpc ((g.xpc &&& ~~~15) + 16) g.loops).2
    (groupDone g = false →
      (Clear (.trap e) s → exec (.trap e) s = .next (takeTrap s (fault 0x40))) ∧
      (Clear (.brk e) s → ¬breaks → exec (.brk e) s = .next (takeTrap s (fault 0x31))) ∧
      (Clear (.brk e) s → breaks → ∃ t, exec (.brk e) s = .next t ∧ (cg t).status = .halted ∧ (cg t).byHalt = false ∧
        t.iss.next = .goto after) ∧
      (Clear .halt s → ∃ t, exec .halt s = .next t ∧ (cg t).status = .halted ∧ (cg t).byHalt = true)) ∧
    (Clear (.rett m) s → g.kept = some k →
      exec (.rett m) s = .next (endWord (returnFrom s me k m.toNat))) ∧
    (groupDone g = false → liveMask g ≠ 0 →
      (r 0).h = false ∧ (r 0).kept = none ∧ (r 0).loops = g.loops ∧
      pathOf (r 0) k.path = { p with mask := back, fmt := k.fmt, pc := g.xpc, waits := k.waits, excl := still g.xpc, bound := decide (k.bound = some g.xpc) } ∧
      (pathOf (r 1) k.path).mask = back ∧
      (back &&& ~~~f ≠ 0 → (pathOf (r 1) k.path).pc = g.xpc ∧ (pathOf (r 1) k.path).excl = f ||| still g.xpc ∧ (r 1).loops = g.loops) ∧
      (back &&& ~~~f = 0 → (pathOf (r 1) k.path).excl = still past ∧ (pathOf (r 1) k.path).pc = past ∧
        (r 1).loops = (nextPcGo g.xpc ((g.xpc &&& ~~~15) + 16) g.loops).1)) ∧
    (groupDone g = false → liveMask g &&& ~~~f ≠ 0 → (r 2).gone = g.gone ||| f) ∧
    (groupDone g = false → liveMask g &&& ~~~f = 0 → (r 2).status = .retired) ∧
    (s.iss.passed = false → g.h = false → stops 0x05) ∧
    (s.iss.passed = false → g.h = true → g.kept = some k →
      (g.split.length ≠ k.nsplit → stops 0x12) ∧
      (g.split.length = k.nsplit → g.loops.length ≠ k.nloop → stops 0x13) ∧
      (g.split.length = k.nsplit → g.loops.length = k.nloop → g.face.length ≠ k.nface →
        (m ≠ 1 ∨ back &&& ~~~f ≠ 0 ∨ g.split = []) → stops 0x14)) ∧
    (s.iss.passed = false → g.svc = false → exec .halt s = .next (takeTrap s (wordTrap s 0x05 false)))

/-- R175 to R179, R194, R239, R240, R272, R305: what each waiting instruction leaves, when such a wait is over, and where a barrier traps
BARRIER_MEMBER. The wait of a barrier and that of `x.wait` mark the memory operations of the word's vector slot: none of their accesses is performed
before it has ended (notes/assumptions/6.md). Which lanes of a path share its arrival at a barrier above the group's is the model's reading
(notes/assumptions/10.md, DEDUCED). -/
def Obligations.Waits : Prop :=
  ∀ (s : State) (gid : GId) (c : WaitArg) (o : MOp) (d a b : SReg) (kind : BitVec 2) (n : BitVec 4) (lvl num ph : Nat),
    let lm := liveActive s
    let stays := fun (t : State) => t = updCg s (fun g => { g with
      bars := (cg t).bars, spin := 0, spinWord := none, root := (cg t).root, split := (cg t).split, loadq := (cg t).loadq, storeq := (cg t).storeq })
    let waits := fun (i : Instr) (w : Wait) => Clear i s → exec i s = .next (updPath s (fun p => { p with waits := p.waits ++ [w] }))
    -- the operations of this word's vector slot
    let marked := fun (w : Wait) (q : List QOp) =>
      q.map (fun o => if s.iss.first ≤ o.id ∧ o.path = s.iss.path then { o with after := some w } else o)
    let bar := fun (i : Instr) (level : Nat) (m : Nat) =>
      let ph := phaseCount s s.iss.gid level m
      let own := if level = 0 then (cp s).mask &&& liveMask (cg s) else ownLanes (cg s) s.iss.path
      (Clear i s →
        (lm = 0 → exec i s = .next s) ∧
        (lm ≠ 0 → kind.toNat ≤ 1 → ∃ t r, exec i s = .next t ∧ stays t ∧ barRecord (cg t) level m ph = some r ∧
          r.lanes &&& (own ||| lm) = own ||| lm ∧ r.share &&& (own ||| lm) = own ||| lm ∧ r.signalled = false ∧ s.iss.first ≤ r.before ∧
          (kind = 0 → (cp t).waits = (cp s).waits ++ [.barrier level m ph] ∧ (cg t).loadq = marked (.barrier level m ph) (cg s).loadq ∧
            (cg t).storeq = marked (.barrier level m ph) (cg s).storeq) ∧
          (kind = 1 → (cp t).waits = (cp s).waits ∧ (cg t).loadq = (cg s).loadq ∧ (cg t).storeq = (cg s).storeq)) ∧
        (∀ p, lm ≠ 0 → kind = 2 → arrivedPhase (cg s) level m own = some p →
          exec i s = .next (updPath (updCg s (fun g => { g with
            loadq := marked (.barrier level m p) g.loadq, storeq := marked (.barrier level m p) g.storeq }))
            (fun x => { x with waits := x.waits ++ [.barrier level m p] })))) ∧
      -- R176: a second arrival in the open phase, a wait without an arrival
      (s.iss.passed = false → ctxCode i s = none → generalCode i s 0 = none → lm ≠ 0 →
        ((kind ≠ 2 ∧ ∃ r, barRecord (cg s) level m ph = some r ∧
            if level = 0 then own &&& r.lanes ≠ 0 else own &&& liveMask (cg s) &&& ~~~r.lanes = 0) ∨
          (kind = 2 ∧ ∃ l, l < 64 ∧ bit own l = true ∧ bit (liveMask (cg s)) l = true ∧
            ∀ r ∈ (cg s).bars, r.level = level → r.n = m → bit r.share l = false)) →
        exec i s = .next (takeTrap s (wordTrap s 0x16 false)))
    bar (.barGrp kind) 0 0 ∧ bar (.barBlk kind n) 1 n.toNat ∧ bar (.barClu kind n) 2 n.toNat ∧ bar (.barGrid kind n) 3 n.toNat ∧
    waits (.wait c) (.counters c) ∧ waits (.fence o) (.fence s.nextId) ∧
    (let w := Wait.xwait d s.nextId
     Clear (.xWait d) s → exec (.xWait d) s = .next (updPath (updCg s (fun g => { g with
       loadq := marked w g.loadq, storeq := marked w g.storeq })) (fun x => { x with waits := x.waits ++ [w] }))) ∧
    (Clear (.ifence a b) s → rs s b = 0 → exec (.ifence a b) s = .next s) ∧
    (rs s b ≠ 0 → waits (.ifence a b) (.ifence (rs s a) (rs s b) s.iss.first)) ∧
    (Clear (.waitw o) s → Quiet s → ∃ t, exec (.waitw o) s = .next t ∧
      t = { updCg s (fun g => { g with spin := 0, spinWord := none, root := (cg t).root, split := (cg t).split }) with
        nextId := s.nextId + 1, tiles := t.tiles, tlb := t.tlb, cores := t.cores, bad := t.bad } ∧
      (cp t).waits = (cp s).waits ++
      [.waitw (rs s o.base + o.off.signExtend 64) (o.ty.width / 8) o.p
        (BitVec.ofNat 64 ((rs s (BitVec.ofNat 6 o.data.toNat)).toNat % 2 ^ o.ty.width)) s.nextId]) ∧
    (waitDone s gid (.counters c) = true ↔ (c.elc = true → (s.group gid).lc ≤ c.lcv.toNat) ∧ (c.esc = true → (s.group gid).sc ≤ c.scv.toNat) ∧
      (c.ecc = true → (s.group gid).cc ≤ c.ccv.toNat) ∧ (c.etc = true → (s.group gid).tc ≤ c.tcv.toNat)) ∧
    (waitDone s gid (.fence num) = true ↔ ∀ q ∈ (s.group gid).loadq ++ (s.group gid).storeq, num ≤ q.id) ∧
    (waitDone s gid (.barrier lvl num ph) = true ↔ ph < phaseCount s gid lvl num)

/-- R39 to R43, R181 to R183: `draw` takes the shoe's next coordinate, finds it exhausted, or waits; `deal` puts one downstream, or
waits at its word for room or behind a waiting deal of its group, and traps in the last stage, whatever lanes are active
(notes/assumptions/9.md, DESIGN CHOICE); `idem` sets the checkpoint, with the guard slots that await no resolution. -/
def Obligations.ShoesAndCheckpoint : Prop :=
  ∀ (s : State) (n : SReg) (k : GReg) (c : List (BitVec 32)) (r : List (List (BitVec 32))),
    let g := cg s
    let me := s.iss.gid
    let l := s.launch me.tag
    let st := (s.wg me.tag me.core).stage
    let x := shoeOf l st
    let down := shoeOf l (st + 1)
    let xyz := [(rs s n).setWidth 32, (rs s (n + 1)).setWidth 32, (rs s (n + 2)).setWidth 32, (rs s (n + 3)).setWidth 32]
    let took := fun (c : List (BitVec 32)) (x' : Shoe) => resolveGuard (updCg (putShoe s me.tag st x') (fun g =>
      writeS (writeS (writeS (writeS g n ((c.getD 0 0).setWidth 64)) (n + 1) ((c.getD 1 0).setWidth 64)) (n + 2) ((c.getD 2 0).setWidth 64))
        (n + 3) ((c.getD 3 0).setWidth 64))) me k true
    let waiting := fun (t : State) => t.iss.next = .ended ∧
      ∃ nxt, (cp t).waits = (cp s).waits ++ [.draw n k s.iss.w nxt] ∧ (s.iss.next = .fall → nxt = nextWord s)
    (Clear (.draw n k) s →
      (st = 0 → x.given < shoeSize x.ext → exec (.draw n k) s = .next (took (coordAt x.ext x.given) { x with given := x.given + 1 })) ∧
      (st = 0 → shoeSize x.ext ≤ x.given → exec (.draw n k) s = .next (resolveGuard s me k false)) ∧
      (st ≠ 0 → x.fifo = c :: r → exec (.draw n k) s = .next (took c { x with fifo := r })) ∧
      (st ≠ 0 → x.fifo = [] → stageRetired s l (st - 1) = true → exec (.draw n k) s = .next (resolveGuard s me k false)) ∧
      (st ≠ 0 → x.fifo = [] → stageRetired s l (st - 1) = false → ∃ t, exec (.draw n k) s = .next t ∧ waiting t)) ∧
    (Clear (.deal n) s →
      (liveActive s = 0 → exec (.deal n) s = .next s) ∧
      (liveActive s ≠ 0 → waitingDeals g = [] → down.fifo.length < 256 →
        exec (.deal n) s = .next (putShoe s me.tag (st + 1) { down with fifo := down.fifo ++ [xyz] })) ∧
      (liveActive s ≠ 0 → (256 ≤ down.fifo.length ∨ waitingDeals g ≠ []) → ∃ nxt, (s.iss.next = .fall → nxt = nextWord s) ∧
        (∀ t, s.iss.next = .goto t → nxt = t) ∧ exec (.deal n) s
          = .next (endWord (updPath { s with nextId := s.nextId + 1 } (fun p => { p with waits := p.waits ++
            [.deal ((rs s n).setWidth 32) ((rs s (n + 1)).setWidth 32) ((rs s (n + 2)).setWidth 32) ((rs s (n + 3)).setWidth 32)
              s.iss.w nxt s.nextId] }))))) ∧
    (Clear .idem s →
      (g.split = [] → g.face = [] → ∃ ck, exec .idem s = .next (updCg s (fun g => { g with ck := ck })) ∧ ck.ckv = true ∧
        ck.ckpc = (s.iss.w &&& ~~~15) + 16 ∧ ck.mask = s.iss.mask ∧ ck.loops = g.loops ∧ ck.fmt = s.iss.fmt ∧ ck.flags = s.iss.flags ∧
        ∀ j : GReg, sget .unres ck.guards j.toNat = if j ∈ pendG g then .unres else readGuard g j) ∧
      (g.split ≠ [] ∨ g.face ≠ [] → exec .idem s = .next (updCg s (fun g => { g with ck := { g.ck with ckv := false } })))) ∧
    (s.iss.passed = false → generalCode (.deal n) s 0 = none → l.s ≤ st + 1 →
      exec (.deal n) s = .next (takeTrap s (wordTrap s 0x18 false)))

/-! ## Memory instructions at issue -/

/-- R116, R117, R180, R224 to R238: a memory instruction enters the group's load or store queue with one access for each thread that
makes one, at the address its form gives, and counts; its word's translations have been walked. One that makes none has completed: it retires at
once, behind earlier operations of its queue. Where nothing is owed to memory the walks change no byte of it. -/
def Obligations.MemoryIssue : Prop :=
  ∀ (s : State) (o : MOp) (k : GReg) (a b : SReg) (off : BitVec 15) (scope : BitVec 3) (acc : BitVec 2) (code : CmpCode),
    -- `w` is the state after the walks, `pre` what else the instruction writes
    let enters := fun (i : Instr) (mk : MemKind) (dest : Dest) (n : Nat) (at_ : List (Nat × Word)) (w : State) (pre : Group → Group)
        (p : Acc → Prop) =>
      let queue := if isLc mk then (cg w).loadq else (cg w).storeq
      let fresh := ∀ q, ((cg w).loadq.head? = some q ∨ (cg w).storeq.head? = some q) → q.accs ≠ []
      (Clear i s → at_ = [] → queue = [] → fresh → ∃ t, exec i s = .next t ∧
        t = { updCg w (fun g => { pre g with spin := (cg t).spin, spinWord := (cg t).spinWord }) with nextId := w.nextId + 1 }) ∧
      (Clear i s → inRegion w = false → (at_ ≠ [] ∨ (queue ≠ [] ∧ fresh)) → ∃ t q, exec i s = .next t ∧
        t = { updCg w (fun g => { pre g with
          loadq := if isLc mk then g.loadq ++ [q] else g.loadq, storeq := if isLc mk then g.storeq else g.storeq ++ [q]
          lc := if isLc mk then g.lc + 1 else g.lc, sc := if isLc mk then g.sc else g.sc + 1
          spin := (cg t).spin, spinWord := (cg t).spinWord }) with nextId := w.nextId + 1 } ∧
        q.id = w.nextId ∧ q.word = w.iss.w ∧ q.path = w.iss.path ∧ q.kind = mk ∧ q.dest = dest ∧ q.loc = false ∧ q.held = false ∧
        q.after = none ∧ q.member = false ∧ q.accs.map (fun a => (a.thread, a.va)) = at_ ∧ ∀ a ∈ q.accs, a.size = n ∧ a.st = .pending ∧ p a)
    let mem := fun (i : Instr) (mk : MemKind) =>
      enters i mk (destOf mk o) (sizeOf mk o) (memAddrs s mk false o) (memAccess mk false o s).1 id (fun a =>
        (isWrite mk = true → a.data = (memData s mk o a.thread).1) ∧ a.data2 = (memData s mk o a.thread).2)
    let calm := fun (w : State) => Quiet s → w = { s with tiles := w.tiles, tlb := w.tlb, cores := w.cores, bad := w.bad }
    let base := rs s o.base
    let e := effMask s o.m o.fq
    mem (.ld o) .load ∧ mem (.ldv o) .load ∧ mem (.st o) .store ∧ mem (.stv o) .store ∧ mem (.rdc o) .rdc ∧ mem (.stLog o) .logStore ∧
    mem (.tlogFlush o) .tlogFlush ∧ mem (.tlogLen o) .tlogLen ∧
    mem (.atomAdd o) (.rmw 0 true) ∧ mem (.atomMin o) (.rmw 1 true) ∧ mem (.atomMax o) (.rmw 2 true) ∧ mem (.atomAnd o) (.rmw 3 true) ∧
    mem (.atomOr o) (.rmw 4 true) ∧ mem (.atomXor o) (.rmw 5 true) ∧ mem (.atomXchg o) (.rmw 6 true) ∧ mem (.atomCas o) (.rmw 7 true) ∧
    mem (.redAdd o) (.rmw 0 false) ∧ mem (.redMin o) (.rmw 1 false) ∧ mem (.redMax o) (.rmw 2 false) ∧ mem (.redAnd o) (.rmw 3 false) ∧
    mem (.redOr o) (.rmw 4 false) ∧ mem (.redXor o) (.rmw 5 false) ∧ mem (.redFadd o) .fadd ∧ mem (.redFaddc o) .faddc ∧
    -- `g.ld`: its slot is unresolved until the load resolves it (notes/assumptions/10.md, DEDUCED)
    enters (.gLd k a b off scope acc code) .gld (.guard k code (rs s b)) (2 ^ code.wid.toNat) [(0, rs s a + off.signExtend 64)]
      (gldAccess a off code s).1 (fun g => writeGuard g k .unres) (fun _ => True) ∧
    (∀ mk, calm (memAccess mk false o s).1) ∧ calm (gldAccess a off code s).1 ∧
    -- R226, R228, R63: the addresses, of every form: all lanes of E, or for a write its LIVE ones
    (∀ mk, mk ≠ .tlogFlush →
      let n := sizeOf mk o
      let lanesIn := lanesOf (if isWrite mk then e &&& liveMask (cg s) else e)
      (o.d = true → isWrite mk = true → liveActive s = 0 → memAddrs s mk false o = []) ∧
      (o.d = true → (isWrite mk = false ∨ liveActive s ≠ 0) →
        (o.am = 0 → memAddrs s mk false o = [(0, base + o.off.signExtend 64)]) ∧ (o.am = 2 → memAddrs s mk false o = [(0, base)])) ∧
      (o.d = false →
        (o.am = 0 → memAddrs s mk false o = lanesIn.map (fun t => (t, base + o.off.signExtend 64 + BitVec.ofNat 64 (t * n)))) ∧
        (o.am = 1 → memAddrs s mk false o = lanesIn.map (fun t => (t, base + (readV (cg s) (o.off.extractLsb' 7 7) t).signExtend 64))) ∧
        (o.am = 2 → memAddrs s mk false o = lanesIn.map (fun t => (t, base + BitVec.ofNat 64 (t * n)))))) ∧
    memAddrs s .tlogFlush false o = [(0, base + o.off.signExtend 64)] ∧
    -- the bytes of an access, and what a write takes
    (∀ mk, sizeOf mk o = match mk with
      | .rdc | .faddc => 8
      | .tlogLen | .tlogFlush => 1
      | .logStore => if o.p then 16 else o.ty.width / 8
      | _ => o.ty.width / 8) ∧
    (∀ mk t, (memData s mk o t).1 = if o.d then rs s (BitVec.ofNat 6 o.data.toNat) else (readV (cg s) o.data t).setWidth 64) ∧
    (∀ ret t, (memData s (.rmw 7 ret) o t).2
      = if o.d then rs s (BitVec.ofNat 6 o.off.toNat) else (readV (cg s) (BitVec.ofNat 7 o.off.toNat) t).setWidth 64) ∧
    (∀ t, o.p = true → (memData s .logStore o t).2 = rs s (BitVec.ofNat 6 o.data.toNat + 1))

/-- R231: a scratchpad access enters its group's queue like any other, at the address of its form, whose index is unsigned, and reads or writes the
scratchpad when its turn comes: a load takes the scratchpad's bytes, a store leaves its data in exactly the bytes of its accesses, in ascending thread order. That the accesses of one operation
are performed together, when the operation is the oldest of its queue, is the model's choice (notes/assumptions/6.md, DESIGN CHOICE). -/
def Obligations.ScratchpadIssue : Prop :=
  (∀ (s : State) (o : MOp),
    let n := o.ty.width / 8
    let e := effMask s o.m o.fq
    let enters := fun (i : Instr) (mk : MemKind) => Clear i s → inRegion s = false → memAddrs s mk true o ≠ [] → ∃ t q, exec i s = .next t ∧
      t = { updCg s (fun g => { g with
        loadq := if isLc mk then g.loadq ++ [q] else g.loadq, storeq := if isLc mk then g.storeq else g.storeq ++ [q]
        lc := if isLc mk then g.lc + 1 else g.lc, sc := if isLc mk then g.sc else g.sc + 1
        spin := (cg t).spin, spinWord := (cg t).spinWord }) with nextId := s.nextId + 1 } ∧
      q.id = s.nextId ∧ q.kind = mk ∧ q.dest = destOf mk o ∧ q.loc = true ∧ q.held = false ∧ q.after = none ∧
      q.accs.map (fun a => (a.thread, a.va)) = memAddrs s mk true o ∧
      ∀ a ∈ q.accs, a.size = n ∧ a.st = .pending ∧ (s.iss.passed = false → a.pa = a.va.toNat) ∧
        (mk = .store → a.data = (memData s .store o a.thread).1)
    enters (.lds o) .load ∧ enters (.ldsv o) .load ∧ enters (.sts o) .store ∧ enters (.stsv o) .store ∧
    -- the addresses: all lanes of E, or for a store its LIVE ones
    (∀ mk, mk = .load ∨ mk = .store →
      let base := rs s o.base
      let lanesIn := lanesOf (if mk = .store then e &&& liveMask (cg s) else e)
      (o.d = true → mk = .store → liveActive s = 0 → memAddrs s mk true o = []) ∧
      (o.d = true → (mk = .load ∨ liveActive s ≠ 0) →
        (o.am = 0 → memAddrs s mk true o = [(0, base + o.off.signExtend 64)]) ∧ (o.am = 2 → memAddrs s mk true o = [(0, base)])) ∧
      (o.d = false →
        (o.am = 0 → memAddrs s mk true o = lanesIn.map (fun t => (t, base + o.off.signExtend 64 + BitVec.ofNat 64 (t * n)))) ∧
        (o.am = 1 → memAddrs s mk true o
          = lanesIn.map (fun t => (t, base + BitVec.ofNat 64 (readV (cg s) (o.off.extractLsb' 7 7) t).toNat))) ∧
        (o.am = 2 → memAddrs s mk true o = lanesIn.map (fun t => (t, base + BitVec.ofNat 64 (t * n))))))) ∧
  (∀ (s : State) (gid : GId) (o : QOp) (r : List QOp),
    let g := s.group gid
    let old := (s.wg gid.tag gid.core).scratch
    let oldest := fun (rest : List QOp) => o.loc = true ∧ o.after = none ∧ settled o = false ∧ ∀ x ∈ rest, o.id < x.id
    let with_ := fun (f : Acc → Acc) => { o with accs := o.accs.map (fun a => { f a with st := .done }) }
    (oldest (r ++ g.storeq) → g.loadq = o :: r → o.kind = .load →
      exec (.loadCompletion gid) s = exec (.loadCompletion gid) (s.updGroup gid (fun g => { g with
        loadq := with_ (fun a => { a with data := BitVec.ofNat 64 (readLE old a.pa a.size) }) :: r }))) ∧
    (oldest (r ++ g.loadq) → g.storeq = o :: r → o.kind = .store → o.held = false →
      ∃ u, exec (.storeCompletion gid) s = exec (.storeCompletion gid) u ∧
        u = { s.updGroup gid (fun g => { g with storeq := with_ id :: r }) with wgs := u.wgs } ∧
        (∀ tag c, wkey tag c ≠ wkey gid.tag gid.core → u.wg tag c = s.wg tag c) ∧
        u.wg gid.tag gid.core = { s.wg gid.tag gid.core with scratch := (u.wg gid.tag gid.core).scratch } ∧
        (∀ b, readByte (u.wg gid.tag gid.core).scratch b
          = match o.accs.reverse.find? (fun a => decide (a.pa ≤ b ∧ b < a.pa + a.size)) with
            | some a => BitVec.ofNat 8 (a.data.toNat / 256 ^ (b - a.pa))
            | none => readByte old b)))

/-- Memory is stored to at the home slice only (R228, R230): no instruction of a word changes a byte of memory, of a scratchpad or of an
accumulator when it executes normally. `trap` and `brk` are left out: they may end their launch, whose signals are then stored (R337). -/
def Obligations.IssueStoresNothing : Prop :=
  ∀ (i : Instr) (s t : State), Clear i s → Quiet s → groupDone (cg s) = false →
    (encodeScalar i).isSome = true ∨ (encodeVector i).isSome = true →
    (∀ e, i ≠ .trap e) → (∀ e, i ≠ .brk e) → exec i s = .next t →
    (∀ a, readByte t.mem a = readByte s.mem a) ∧
    (∀ tag c, (t.wg tag c).acc = (s.wg tag c).acc) ∧
    (∀ tag c a, readByte (t.wg tag c).scratch a = readByte (s.wg tag c).scratch a)

/-- R222, R246: `pf` makes the tile of its address resident, without effect on what memory reads; `ipf` requests the fills of the lines
of its range, and nothing for a length of 0; neither faults. -/
def Obligations.Prefetches : Prop :=
  ∀ (s : State) (o : MOp) (pa h q : Nat),
    let va := rs s o.base + o.off.signExtend 64
    let me := s.iss.gid
    let ctx := (s.launch me.tag).ctx
    let n := min (rs s (BitVec.ofNat 6 o.data.toNat)).toNat 65536
    (Clear (.pf o) s → inRegion s = true → exec (.pf o) s = .next s) ∧
    (Clear (.pf o) s → inRegion s = false → translate s (groupWalk s va) .r = (s, .ok pa) →
      permitted s { ident := me.core, ctx := some ctx } pa .r = true → locate s.part pa = .slice h q →
      (s.tile (q / 4096)).poisoned = false → q / 4096 ∉ s.bad →
      ∃ t, exec (.pf o) s = .next t ∧ ((s.tile (q / 4096)).queue = [] → (t.tile (q / 4096)).resident = true) ∧
        (Quiet s → t = { s with tiles := t.tiles, cores := t.cores })) ∧
    (Clear (.pf o) s → inRegion s = false → (∃ c, translate s (groupWalk s va) .r = (s, .error c)) → exec (.pf o) s = .next s) ∧
    (Clear (.ipf o) s → inRegion s = false → n ≠ 0 → ∃ fills, exec (.ipf o) s = .next (s.updCore me.core (fun c => { c with fills := fills })) ∧
      ∀ x, x ∈ fills ↔ x ∈ (s.core me.core).fills ∨ (x.1 = ctx ∧ va.toNat / 128 ≤ x.2 ∧ x.2 ≤ (va.toNat + n - 1) / 128)) ∧
    (Clear (.ipf o) s → n = 0 → exec (.ipf o) s = .next s)

/-- What the abort of group `gid`'s region leaves (R243): the region's held stores are discarded, its members' loads trap nothing any more, operations
without accesses that come to the head of their queue retire (R117), its members other than the opening path are freed, the stacks have the depth they had, ELSTAT holds the cause and the code, the slot is false, and the path stands at the fallback with the
lanes it had. -/
def Aborted (s t : State) (gid : GId) (r : Region) (cause : BitVec 4) (code : Byte) : Prop :=
  let g := s.group gid
  let u := t.group gid
  u.region = none ∧ u.elcause = cause ∧ u.elcode = code ∧ readGuard u r.k = .isFalse ∧
  u.storeq = (g.storeq.filter (fun q => !q.held)).dropWhile (fun q => q.accs.isEmpty) ∧
  u.loadq = (g.loadq.map (fun q => if q.member = true ∧ r.start ≤ q.id then { q with quiet := true } else q)).dropWhile (fun q => q.accs.isEmpty) ∧
  u.sregs = g.sregs ∧ u.vregs = g.vregs ∧ u.mregs = g.mregs ∧ u.flags = g.flags ∧
  u.face = g.face.drop (g.face.length - r.nface) ∧ u.loops = g.loops.drop (g.loops.length - r.nloop) ∧
  pathOf u r.path = { pathOf g r.path with pc := r.fallback, mask := r.mask &&& ~~~g.gone, waits := [] } ∧
  (∀ k, k ≠ r.path → pathOf u k = if k ≠ 0 ∧ k ∈ r.members then .zero else pathOf g k) ∧ t.mem = s.mem

/-- R241 to R245: an `elide` that finds the lock word free opens a region and resolves its slot true; one that does not goes to the
fallback; a member's stores are held; its loads, and a returning atomic's read, are not, and the atomic's write is; `elidend` closes a level or
waits for the commit; `eliabort`, an instruction that no region may hold, a fault of a member's word and a store beyond the queue depth end the
region at the fallback with their causes. -/
def Obligations.Elision : Prop :=
  (∀ (s u : State) (o : MOp) (x pa : Nat) (r : Region),
     let me := s.iss.gid
     let k : GReg := o.data.extractLsb' 0 4
     let f := (s.iss.w &&& ~~~15) + 16 * o.off.signExtend 64
     let holds := fun (i : Instr) (mk : MemKind) (loc : Bool) =>
       Clear i s → inRegion s = true → Quiet s → memAddrs s mk loc o ≠ [] → ∃ t q, exec i s = .next t ∧ q.member = true ∧
       (cg t).storeq = (cg s).storeq ++ [q] ∧ q.kind = mk ∧ q.held = true ∧ (cg t).sc = (cg s).sc + 1 ∧ (cg t).loadq = (cg s).loadq ∧
       t.mem = s.mem ∧ t.wgs = s.wgs
     let reads := fun (i : Instr) (mk : MemKind) (loc : Bool) =>
       Clear i s → inRegion s = true → Quiet s → memAddrs s mk loc o ≠ [] → ∃ t q, exec i s = .next t ∧ q.member = true ∧
       (cg t).loadq = (cg s).loadq ++ [q] ∧ q.kind = mk ∧ q.held = false ∧ q.pair = none ∧ (cg t).lc = (cg s).lc + 1 ∧
       (cg t).storeq = (cg s).storeq ∧ t.mem = s.mem ∧ t.wgs = s.wgs
     let splits := fun (i : Instr) (op : Nat) =>
       Clear i s → inRegion s = true → Quiet s → memAddrs s (.rmw op true) false o ≠ [] → ∃ t q w, exec i s = .next t ∧ q.member = true ∧
       (cg t).loadq = (cg s).loadq ++ [q] ∧ q.kind = .load ∧ q.held = false ∧ q.pair = some w.id ∧ (cg t).lc = (cg s).lc + 1 ∧
       (cg t).storeq = (cg s).storeq ++ [w] ∧ w.kind = .rmw op false ∧ w.held = true ∧ w.counted = false ∧ (cg t).sc = (cg s).sc ∧
       w.accs.map (fun a => (a.thread, a.pa)) = q.accs.map (fun a => (a.thread, a.pa)) ∧ t.mem = s.mem ∧ t.wgs = s.wgs
     (Clear (.elide o) s → lockRead s o = (u, .ok (x, pa)) →
       ((cg u).region = none → x ≠ 0 → u.iss = s.iss →
         exec (.elide o) s = .next (goTo (resolveGuard (updCg u (fun g => { g with elcause := 9 })) me k false) f)) ∧
       ((cg u).region = none → x = 0 → u.iss = s.iss → ∃ t q, exec (.elide o) s = .next t ∧ (cg t).region = some q ∧ q.fallback = f ∧
         q.k = k ∧ q.path = s.iss.path ∧ q.mask = s.iss.mask ∧ q.nest = 0 ∧ q.reads = [pa / 128] ∧ q.members = [s.iss.path] ∧
         readGuard (cg t) k = .isTrue ∧ (cg t).elcause = 0 ∧ t.mem = u.mem) ∧
       ((cg u).region = some r → x = 0 → u.iss = s.iss → r.reads.contains (pa / 128) = true → r.nest < 31 →
         ∃ t, exec (.elide o) s = .next t ∧ (cg t).region = some { r with nest := r.nest + 1 } ∧ readGuard (cg t) k = .isTrue) ∧
       -- a nested lock that is held, a 33rd line, a 32nd level
       ((cg u).region = some r → u.iss = s.iss → r.reads.contains (pa / 128) = true → (x ≠ 0 ∨ r.nest = 31) →
         ∃ t, exec (.elide o) s = .next t ∧ Aborted u t me r (if x ≠ 0 then 9 else 3) 0) ∧
       ((cg u).region = some r → u.iss = s.iss → r.reads.contains (pa / 128) = false → r.reads.length = 32 →
         ∃ t, exec (.elide o) s = .next t ∧ Aborted u t me r 3 0)) ∧
     holds (.st o) .store false ∧ holds (.stv o) .store false ∧ holds (.sts o) .store true ∧ holds (.stsv o) .store true ∧
     holds (.stLog o) .logStore false ∧
     holds (.redAdd o) (.rmw 0 false) false ∧ holds (.redMin o) (.rmw 1 false) false ∧ holds (.redMax o) (.rmw 2 false) false ∧
     holds (.redAnd o) (.rmw 3 false) false ∧ holds (.redOr o) (.rmw 4 false) false ∧ holds (.redXor o) (.rmw 5 false) false ∧
     holds (.redFadd o) .fadd false ∧ holds (.redFaddc o) .faddc false ∧
     reads (.ld o) .load false ∧ reads (.ldv o) .load false ∧ reads (.lds o) .load true ∧ reads (.ldsv o) .load true ∧
     reads (.rdc o) .rdc false ∧ reads (.tlogLen o) .tlogLen false ∧
     splits (.atomAdd o) 0 ∧ splits (.atomMin o) 1 ∧ splits (.atomMax o) 2 ∧ splits (.atomAnd o) 3 ∧ splits (.atomOr o) 4 ∧
     splits (.atomXor o) 5 ∧ splits (.atomXchg o) 6 ∧ splits (.atomCas o) 7 ∧
     (Clear (.elidend o) s → (cg s).region = none → exec (.elidend o) s = .next s) ∧
     (Clear (.elidend o) s → (cg s).region = some r → s.iss.path ∈ r.members → 0 < r.nest →
       exec (.elidend o) s = .next (updCg s (fun g => { g with region := some { r with nest := r.nest - 1 } }))) ∧
     (Clear (.elidend o) s → (cg s).region = some r → s.iss.path ∈ r.members → r.nest = 0 →
       exec (.elidend o) s = .next (updPath s (fun p => { p with waits := p.waits ++ [.elidend] }))) ∧
     (Clear (.eliabort o) s → inRegion s = false → exec (.eliabort o) s = .next s) ∧
     (Clear (.eliabort o) s → (cg s).region = some r → s.iss.path ∈ r.members → ∃ t, exec (.eliabort o) s = .next t ∧
       Aborted s t me r 6 (o.off.extractLsb' 0 8) ∧ t.iss.next = .ended)) ∧
  -- R243: what a region may not hold, a fault of a member's word, a store too many
  (∀ (s : State) (i : Instr) (r : Region) (c : BitVec 4) (x : Trap),
     let me := s.iss.gid
     (cg s).region = some r → s.iss.path ∈ r.members →
     (s.iss.passed = false → ctxCode i s = none → generalCode i s 0 = none → checkOf i s = .pass →
       let aborts := fun (c : BitVec 4) => exec i s = .next (endWord (abortRegion (walksOf i s) me c 0))
       ((isEngine i = true ∨ (∃ d, i = .xWait d) ∨ (∃ n, i = .deal n) ∨ (∃ n k, i = .draw n k) ∨ (∃ o, i = .tlogFlush o) ∨ i = .idem ∨
           i = .sEnd ∨ (∃ q k, i = .exit q k) ∨ (∃ q k, i = .demote q k) ∨ (∃ e, i = .trap e) ∨ (∃ e, i = .brk e) ∨ i = .halt) → aborts 4) ∧
       (((∃ k, i = .barGrp k) ∨ (∃ k n, i = .barBlk k n) ∨ (∃ k n, i = .barClu k n) ∨ (∃ k n, i = .barGrid k n) ∨ (∃ o, i = .waitw o) ∨
           (∃ o, i = .fence o) ∨ (∃ w, i = .wait w ∧ w.esc = true)) → aborts 5)) ∧
     (clsOf i = some .sc → s.iss.passed = false → ctxCode i s = none → generalCode i s 0 = some 0x11 →
       exec i s = .next (endWord (abortRegion s me 2 0))) ∧
     takeTrap s x = endWord (abortRegion s me 7 (BitVec.ofNat 8 x.code)) ∧
     Aborted s (abortRegion s me c 0) me r c 0)

/-! ## Engine commands at issue -/

/-- A range lock spans runs of bytes exactly: from the lowest byte of one to the highest byte of one (R220, R292). -/
def Spans (l : Lock) (loc wr : Bool) (ps : List Piece) : Prop :=
  l.loc = loc ∧ l.wr = wr ∧ (∃ p ∈ ps, p.2 ≠ 0 ∧ l.lo = p.1.toInt) ∧ (∃ p ∈ ps, p.2 ≠ 0 ∧ l.hi = p.1.toInt + (p.2 : Int) - 1) ∧
  ∀ p ∈ ps, p.2 ≠ 0 → l.lo ≤ p.1.toInt ∧ p.1.toInt + (p.2 : Int) - 1 ≤ l.hi

/-- No command that has completed stands in a core's queues without an earlier one of its group (R116, R117). -/
def Steady (w : Workgroup) : Prop :=
  (∀ pre x post, w.tileq = pre ++ x :: post → x.idle = true → ∃ y ∈ pre, y.grp = x.grp) ∧
  ∀ pre x post, w.copyq = pre ++ x :: post → x.suppressed = true → ∃ y ∈ pre, y.grp = x.grp

/-- `t` is `s` with one command's number used, and its group, workgroups and all the rest as before. -/
def NothingLeft (s t : State) : Prop :=
  t = { s with nextId := s.nextId + 1, wgs := t.wgs, groups := t.groups } ∧ (∀ g, t.group g = s.group g) ∧ ∀ tag c, t.wg tag c = s.wg tag c

/-- R63, R65, R116, R117, R220, R283 to R292: a matrix instruction enters the core's tile-operation queue with the operands read at issue,
locks the span of each operand that has bytes, and counts under TC. With no row to work on (S is empty; for `m.st`, S has no LIVE row) it counts,
has completed, locks nothing, and retires once no earlier tile operation of its group is in the queue, at once if there is none. That a row
of R306 on all-HELPER commands names `m.st` alone is the model's choice (notes/assumptions/25.md, DESIGN CHOICE). -/
def Obligations.MatrixIssue : Prop :=
  ∀ (s : State) (d a : AReg) (x y k z : SReg) (lx ly : Bool) (nc : BitVec 2) (ty : Ty) (w : BitVec 4) (v : VReg),
    let me := s.iss.gid
    let wg := s.wg me.tag me.core
    let S := s.iss.mask
    let live := S &&& liveMask (cg s)
    let entry := fun (i : Instr) (q : TileOp) => q.id = s.nextId ∧ q.grp = me.grp ∧ q.word = s.iss.w ∧ q.op = i ∧ q.rows = S ∧ q.live = live ∧
      q.fmt = (cp s).fmt ∧ q.bind = bindOf s ∧ q.next = 0 ∧ q.begun = false ∧ q.fault = none
    -- the operands: space, whether written, runs of bytes
    let both := fun (i : Instr) (idle : Prop) (p : TileOp → Prop) (ops : List (Bool × Bool × List Piece)) =>
      (Clear i s → ¬idle → ∃ (t : State) (q : TileOp) (lock : Bool × Bool × List Piece → Lock),
        let held := ops.filter (fun o => o.2.2.any (fun r => decide (r.2 ≠ 0)))
        exec i s = .next t ∧ entry i q ∧ p q ∧
        t = { updCg (s.updWg me.tag me.core (fun w => { w with tileq := w.tileq ++ [q], locks := w.locks ++ held.map lock }))
          (fun g => { g with tc := g.tc + 1 }) with nextId := s.nextId + 1 } ∧
        ∀ o ∈ held, (lock o).id = s.nextId ∧ Spans (lock o) o.1 o.2.1 o.2.2) ∧
      (Clear i s → idle → Steady wg → (∃ q ∈ wg.tileq, q.grp = me.grp) → ∃ t q, exec i s = .next t ∧ entry i q ∧
        t = { updCg s (fun g => { g with tc := g.tc + 1 }) with nextId := s.nextId + 1, wgs := t.wgs } ∧
        t.wg me.tag me.core = { wg with tileq := wg.tileq ++ [q] } ∧ ∀ tag c, wkey tag c ≠ wkey me.tag me.core → t.wg tag c = s.wg tag c) ∧
      (Clear i s → idle → Steady wg → (∀ q ∈ wg.tileq, q.grp ≠ me.grp) → ∃ t, exec i s = .next t ∧ NothingLeft s t)
    let desc := fun (r : SReg) (l : Bool) => ({ base := rs s r, stride := rs s (r + 1), off := rs s (r + 2), loc := l } : Desc)
    let kv := (rs s k).toNat
    let f := mfmtTy ty w.toNat
    both (.mZero d) (S = 0) (fun _ => True) [] ∧
    both (.mMma d x y k lx ly) (S = 0) (fun q => q.da = desc x lx ∧ q.db = desc y ly ∧ q.kval = kv)
      [(lx, false, rowsPieces (fmtA s) (desc x lx) S kv), (ly, false, bPieces (fmtB s) (desc y ly) none 0 kv)] ∧
    both (.mMmas d x y k lx ly z nc) (S = 0) (fun q => q.da = desc x lx ∧ q.db = desc y ly ∧ q.kval = kv ∧ q.ival = rs s z)
      [(lx, false, rowsPieces (fmtA s) (desc x lx) S kv), (ly, false, bPieces (fmtB s) (desc y ly) (some (2 * 2 ^ nc.toNat)) (rs s z) kv)] ∧
    both (.mLd d x ty w lx) (S = 0) (fun q => q.da = desc x lx) [(lx, false, rowsPieces f (desc x lx) S 64)] ∧
    both (.mSt d x ty w lx) (live = 0) (fun q => q.da = desc x lx) [(lx, true, rowsPieces f (desc x lx) S 64)] ∧
    both (.mXpose d a) (S = 0) (fun _ => True) [] ∧ both (.mPerm d a x) (S = 0) (fun q => q.ival = rs s x) [] ∧
    both (.mRsum d a) (S = 0) (fun _ => True) [] ∧
    both (.mScale d a v) (S = 0) (fun q => q.vals = lanes.map (fun l => readV (cg s) v l)) []

/-- The lock on an endpoint of a copy: none where an extent is 0; else from the base and the strides that go down, to those that go up and
the last byte of the element there (R220). -/
def endpointLock (id : Nat) (loc wr : Bool) (base : Word) (ext : List Nat) (strides : List Word) (elog : Nat) : List Lock :=
  let moves := (ext.zip strides).map (fun p => ((p.1 : Int) - 1) * p.2.toInt)
  if 0 ∈ ext then []
  else [{ id := id, loc := loc, wr := wr, lo := base.toInt + (moves.filter (fun d => decide (d < 0))).sum
          hi := base.toInt + (moves.filter (fun d => decide (0 < d))).sum + (2 ^ elog : Nat) - 1 }]

/-- R63, R65, R116, R117, R220, R294 to R299: a Skidder command enters the core's copy queue with its operands, a copy's from its descriptor in
the scratchpad, locks the span of each endpoint on the issuing core, and counts under CC. With no LIVE lane it is suppressed: it reads no
descriptor and locks nothing, but counts, and retires once no earlier copy of its group is in the queue, at once if there is none. -/
def Obligations.SkidderIssue : Prop :=
  ∀ (s : State) (d a b tr : SReg) (ldst lsrc ord tm : Bool) (g : BitVec 2) (byte : Byte) (to_ : Nat),
    let me := s.iss.gid
    let wg := s.wg me.tag me.core
    let entry := fun (i : Instr) (q : CopyOp) =>
      q.id = s.nextId ∧ q.grp = me.grp ∧ q.word = s.iss.w ∧ q.op = i ∧ q.bind = bindOf s ∧ q.suppressed = decide (liveActive s = 0)
    let both := fun (i : Instr) (p : CopyOp → Prop) (ls : CopyOp → List Lock) =>
      (Clear i s → liveActive s ≠ 0 → ∃ t q, exec i s = .next t ∧ entry i q ∧ p q ∧
        t = { updCg (s.updWg me.tag me.core (fun w => { w with copyq := w.copyq ++ [q], locks := w.locks ++ ls q }))
          (fun g => { g with cc := g.cc + 1 }) with nextId := s.nextId + 1 }) ∧
      (Clear i s → liveActive s = 0 → Steady wg → (∃ q ∈ wg.copyq, q.grp = me.grp) → ∃ t q, exec i s = .next t ∧ entry i q ∧
        t = { updCg s (fun g => { g with cc := g.cc + 1 }) with nextId := s.nextId + 1, wgs := t.wgs } ∧
        t.wg me.tag me.core = { wg with copyq := wg.copyq ++ [q] } ∧ ∀ tag c, wkey tag c ≠ wkey me.tag me.core → t.wg tag c = s.wg tag c) ∧
      (Clear i s → liveActive s = 0 → Steady wg → (∀ q ∈ wg.copyq, q.grp ≠ me.grp) → ∃ t, exec i s = .next t ∧ NothingLeft s t)
    -- the descriptor (R295)
    let cd := readLE wg.scratch (rs s b).toNat 208
    let stride := fun (lo k : Nat) => if k < cd % 256 then (BitVec.ofNat 64 (cd / 2 ^ (lo + 64 * k)) : Word) else 0
    let described := fun (q : CopyOp) =>
      q.dst = rs s d ∧ q.src = rs s a ∧ q.lsrc = lsrc ∧ q.ord = ord ∧ q.fill = none ∧ q.bytes = 0 ∧
      q.elog = cd / 2 ^ 8 % 256 ∧ q.ckind = cd / 2 ^ 16 % 256 ∧ q.cval = BitVec.ofNat 64 (cd / 2 ^ 0x600) ∧ q.caddr = BitVec.ofNat 64 (cd / 2 ^ 0x640) ∧
      q.ext = (List.range 9).map (fun k => if k < cd % 256 then cd / 2 ^ (0x40 + 32 * k) % 2 ^ 32 else 1) ∧
      q.srcs = (List.range 9).map (stride 0x180)
    let source := fun (q : CopyOp) => endpointLock s.nextId q.lsrc false q.src q.ext q.srcs q.elog
    let target := fun (q : CopyOp) => endpointLock s.nextId q.ldst true q.dst q.ext q.dsts q.elog
    both (.cCopy d a b ldst lsrc ord)
      (fun q => described q ∧ q.ldst = ldst ∧ q.xpose = false ∧ q.target = me.core ∧ q.dsts = (List.range 9).map (stride 0x3C0))
      (fun q => source q ++ target q) ∧
    both (.cCopyt d a b ldst lsrc ord g)
      (fun q => described q ∧ q.ldst = ldst ∧ q.xpose = true ∧ q.target = me.core ∧
        q.dsts = [stride 0x3C0 1, stride 0x3C0 0] ++ ((List.range 9).drop 2).map (stride 0x3C0))
      (fun q => source q ++ target q) ∧
    both (.cFill d a byte ldst) (fun q => q.dst = rs s d ∧ q.ldst = ldst ∧ q.fill = some byte ∧ q.ext = [(rs s a).toNat] ∧ q.dsts = [1])
      (fun q => endpointLock s.nextId ldst true q.dst q.ext q.dsts 0) ∧
    both (.cSig a) (fun q => q.caddr = rs s a) (fun _ => []) ∧
    (sendTarget s tm tr = some to_ → both (.cSend d a b lsrc ord tm tr)
      (fun q => described q ∧ q.ldst = true ∧ q.xpose = false ∧ q.target = to_ ∧ q.dsts = (List.range 9).map (stride 0x3C0))
      (fun q => source q ++ if to_ = me.core then target q else []))

/-- R63, R301, R306: a collective takes the next number of its rank on its collective and its operands from the descriptor; a suppressed
one does nothing. -/
def Obligations.BoomIssue : Prop :=
  ∀ (s u : State) (a : SReg) (op : BitVec 4) (ty : Ty) (w : BitVec 4) (ranks : List Nat) (rank : Nat),
    let me := s.iss.gid
    let d := readLE (s.wg me.tag me.core).scratch (rs s a).toNat 64
    let coll := d % 65536
    let issues := fun (i : Instr) =>
      (Clear i s → boomSuppressed s = true → exec i s = .next s) ∧
      (Clear i s → boomSuppressed s = false → (∀ o ∈ s.boomOps, o.id < s.nextId) → Quiet s →
        collRanks s (viaBoom (s.launch me.tag) me.core) coll = (u, some ranks) → rankOf s.part ranks me.core = some rank →
        ∃ t q, exec i s = .next t ∧ q ∈ t.boomOps ∧ q.id = s.nextId ∧ q.gid = me ∧ q.op = i ∧ q.coll = coll ∧ q.rank = rank ∧
          q.ranks = ranks ∧ q.k = nextSeq s coll rank ∧ nextSeq t coll rank = nextSeq s coll rank + 1 ∧ q.ended = false ∧
          q.src.toNat = d / 2 ^ 64 % 2 ^ 64 ∧ q.dst.toNat = d / 2 ^ 128 % 2 ^ 64 ∧ q.sig.toNat = d / 2 ^ 192 % 2 ^ 64 ∧
          q.count = d / 2 ^ 32 % 2 ^ 32 ∧ q.root = d / 2 ^ 256 % 2 ^ 32 ∧ t.mem = s.mem)
    issues (.xAllred a op ty w) ∧ issues (.xAllmax a ty) ∧ issues (.xBcast a ty) ∧ issues (.xGather a ty)

/-! ## Yarders -/

/-- R378, R380: the four custom instructions, their faults, and the wake of `y.swait`. x0 is not written. How a trap is taken (mepc, mcause, mtval,
MPIE, MIE, the pc at mtvec's base) and that an instruction retired counts in minstret are RISC-V's (notes/assumptions/2.md, PRESUMED); that
`y.disp` takes its SRAM address modulo 0x40000 is the model's choice (notes/assumptions/21.md, DESIGN CHOICE). -/
def Obligations.YarderInstructions : Prop :=
  ∀ (s u : State) (d a b : BitVec 5) (y : Nat) (bs : List (List Byte)) (v : Word) (data : List Byte), s.cur = .yarder y →
    let x := rx s a
    let f := rx s b
    let pos := f.toNat % 64
    let len := f.toNat / 64 % 128
    let done := fun (s : State) (v : Word) => s.updYarder y (fun z => { writeX z d v with pc := z.pc + 4, minstret := z.minstret + 1, swait := none })
    let trap := fun (code : Nat) (val : Word) => s.updYarder y (fun z => { z with
      mepc := z.pc, mcause := BitVec.ofNat 64 code, mtval := val, mpie := z.mie, mie := false, pc := z.mtvec &&& ~~~3, swait := none })
    let q := queueAt s (y / 2 * 256 + x.toNat)
    let held := s.queues.any (fun z => z.1 == y / 2 * 256 + x.toNat)
    (∀ z, readX (writeX z d v) 0 = 0 ∧ ∀ r, r ≠ 0 → readX (writeX z d v) r = if r = d then v else readX z r) ∧
    ((len = 0 ∨ 64 < len ∨ 64 < pos + len ∨ f.toNat / 2 ^ 14 ≠ 0) → exec (.yBfx d a b) s = .next (trap 26 f)) ∧
    (¬(len = 0 ∨ 64 < len ∨ 64 < pos + len ∨ f.toNat / 2 ^ 14 ≠ 0) → ∃ v, exec (.yBfx d a b) s = .next (done s v) ∧
      ∀ i, i < 64 → v.getLsbD i = if i < len then x.getLsbD (pos + i) else (f.getLsbD 13 && x.getLsbD (pos + len - 1))) ∧
    (f.toNat % 64 ≠ 0 → exec (.yRfetch d a b) s = .next (trap 24 f)) ∧
    (f.toNat % 64 = 0 → (255 < x.toNat ∨ held = false) → exec (.yRfetch d a b) s = .next (trap 25 x)) ∧
    (f.toNat % 64 = 0 → x.toNat ≤ 255 → held = true → q.state = .idle → exec (.yRfetch d a b) s = .next (done s 0)) ∧
    (f.toNat % 64 = 0 → x.toNat ≤ 255 → held = true → q.state ≠ .idle →
      headPacket s { die := y / 2, ident := 0x600 + y, ctx := q.owner, tag := 0 } q = (u, .ok bs) → u.cur = s.cur →
      exec (.yRfetch d a b) s = .next (done (u.updYarder y (fun z => sramPut z f.toNat bs)) (BitVec.ofNat 64 bs.length))) ∧
    (∀ e, f.toNat % 64 = 0 → x.toNat ≤ 255 → held = true → q.state ≠ .idle →
      headPacket s { die := y / 2, ident := 0x600 + y, ctx := q.owner, tag := 0 } q = (u, .error e) → u.cur = s.cur →
      ∃ v, exec (.yRfetch d a b) s = .next (done { u with nextId := u.nextId + 1 } v)) ∧
    (x.toNat % 8 ≠ 0 → exec (.ySwait d a b) s = .next (trap 24 x)) ∧
    (x.toNat % 8 = 0 → physRead s { ident := 0x600 + y, ctx := none } 0 x.toNat 8 = (u, .ok data) → u.cur = s.cur →
      (BitVec.ofNat 64 (ofBytes data) ≠ f → exec (.ySwait d a b) s = .next (done u (BitVec.ofNat 64 (ofBytes data)))) ∧
      (BitVec.ofNat 64 (ofBytes data) = f → exec (.ySwait d a b) s = .next (u.updYarder y (fun z => { z with swait := some (d, x, f) })))) ∧
    (∀ z adr val, (s.yarder z).swait = some (d, adr, val) →
      physRead { s with cur := .yarder z } { ident := 0x600 + z, ctx := none } 0 adr.toNat 8 = (u, .ok data) → u.cur = .yarder z →
      let got : Word := BitVec.ofNat 64 (ofBytes data)
      (got ≠ val → exec (.ySwaitWake z) s = .next { u.updYarder z (fun n => { writeX n d got with pc := n.pc + 4, minstret := n.minstret + 1, swait := none }) with
        cur := s.cur }) ∧
      (got = val → exec (.ySwaitWake z) s = .next { u.updYarder z (fun n => { n with swait := some (d, adr, val) }) with cur := s.cur })) ∧
    (x.toNat % 64 ≠ 0 → exec (.yDisp d a b) s = .next (trap 24 x)) ∧
    (x.toNat % 64 = 0 → coresOf s.part ≤ f.toNat → exec (.yDisp d a b) s = .next (trap 27 f)) ∧
    (x.toNat % 64 = 0 → f.toNat < coresOf s.part →
      let img := readBytes (s.yarder y).sram (x.toNat % 0x40000) 64
      let k : LaunchPkt := { hdr := at_ img 0 2, b0 := img, b1 := [] }
      let via : Via := { die := y / 2, ident := 0x600 + y, ctx := 0, tag := 0 }
      (∀ e, svcChecks s via k f.toNat = (u, .error e) → u.cur = s.cur → exec (.yDisp d a b) s = .next (done u (BitVec.ofInt 64 (-(e : Int))))) ∧
      (∀ p, svcChecks s via k f.toNat = (u, .ok p) → u.cur = s.cur → ∃ t l, exec (.yDisp d a b) s = .next t ∧ l ∈ t.launches ∧ l.svc = true ∧
        l.cores = [f.toNat] ∧ l.state = .running ∧ l.ctx = 0 ∧ (d ≠ 0 → readX (t.yarder y) d = BitVec.ofNat 64 l.tag) ∧
        (t.core f.toNat).tag = l.tag))

/-! ## Events of the memory side -/

/-- R208 to R218, R228, R230, R232, R233, R242: an access at its home slice. On a resident tile a load takes the bytes there, seen through the
group's own queued stores, and in a region the line enters the read set, or a 33rd line aborts; a store or a read-modify-write leaves its new value
in exactly the bytes of its access, and an `atom.cas` that fails writes nothing, of a device register neither; a load of such a register is seen
through the group's own queued stores as well. An access of a poisoned tile fails with ECC_POISON. On a non-resident tile a logged access is appended,
after the slice's oldest log is applied where the log store has no free chunk; every other access, and an append that overflows, queues behind the
tile's fetch. Then the entries of an access, compaction, and the placement of atomics. When the group's order lets an access be performed,
how a full line buffer and the counters of a logged reduction behave, and that an overflow queues behind its fetch, are the model's
(notes/assumptions/6.md, notes/assumptions/27.md). -/
def Obligations.MemoryPerformance : Prop :=
  (∀ (s : State) (g : GId) (id j h p : Nat) (o : QOp) (a : Acc) (r : Region) (es log : List LogEntry) (seq y : Nat),
    let G := s.group g
    let k := a.pa / 4096
    let T := s.tile k
    let length := if T.fetching then 0 else T.log.length
    let waits := ∃ t x, exec (.homeSliceAccess g id j) s = .next t ∧ t.mem = s.mem ∧ t.predictor = s.predictor ∧
      t.tile k = { T with fetching := true, queue := T.queue ++ [{ gid := g, id := id, acc := j, began := !T.fetching }] } ∧
      findOp (t.group g) id = some x ∧ (x.accs[j]?).map Acc.st = some .queued ∧
      (o.kind = .tlogLen → (x.accs[j]?).map Acc.data = some (BitVec.ofNat 64 length))
    let appends := fun (t : State) => (t.tile k).log = log ∧ (t.tile k).seq = seq ∧ (t.tile k).resident = false ∧ t.predictor = s.predictor ∧
      t.nextOrder = s.nextOrder + 1 ∧
      ∃ x, findOp (t.group g) id = some x ∧ (x.accs[j]?).map Acc.st = some .done ∧ x.appended = some (seq, 4096 * k)
    let old := readLE s.mem a.pa a.size
    let seen := fun (t : State) (st : AccSt) (v : Nat) => ∃ x, findOp (t.group g) id = some x ∧
      (x.accs[j]?).map (fun b => (b.st, b.data)) = some (st, BitVec.ofNat 64 v)
    let line := a.pa / 128
    let fresh := es.map (fun e => { e with order := s.nextOrder })
    findOp G id = some o → o.accs[j]? = some a → o.loc = false → o.held = false → o.after = none → a.st = .pending →
    earlierOverlap o j a = false → inOrder G o a = true → accPermitted s g o a.pa = true → locate s.part a.pa = .slice h p →
    (T.poisoned = true → G.region = none → ∃ t, exec (.homeSliceAccess g id j) s = .next t ∧ t.mem = s.mem ∧
      seen t (.failed 0x28) a.data.toNat) ∧
    (T.poisoned = false → T.resident = true →
      ∃ t, exec (.homeSliceAccess g id j) s = .next t ∧
      t.predictor = (if isRmwStore o.kind then (placeAtomic s h g.core g.tag a.pa true).1.predictor else s.predictor) ∧
      (o.kind = .tlogLen → G.region = none → seen t .done length) ∧
      (isWrite o.kind = false → t.mem = s.mem) ∧
      (casFails o a old = true → t.mem = s.mem) ∧
      (isWrite o.kind = true → casFails o a old = false → t.mem = writeLE s.mem a.pa a.size (newValue o a old) ∧
        ∀ b, b < a.pa ∨ a.pa + a.size ≤ b → readByte t.mem b = readByte s.mem b) ∧
      ((∀ x, (s.group x).region = none) → ∀ n, o.kind = .rmw n true → seen t .done old) ∧
      (o.kind = .load ∨ o.kind = .gld → seen t .done
        (let v := groupValue G o.id false a old
         match o.pair.bind (fun n => G.storeq.find? (fun x => x.id == n)) with
         | some x => layOver x a (x.accs.take j) v
         | none => v)) ∧
      (o.kind = .load ∨ o.kind = .gld ∨ o.kind = .rdc ∨ o.kind = .tlogLen → G.region = some r → o.member = true → r.start ≤ o.id →
        (line ∈ r.reads → (t.group g).region = some r) ∧
        (line ∉ r.reads → r.reads.length ≠ 32 → (t.group g).region = some { r with reads := r.reads ++ [line] }) ∧
        (line ∉ r.reads → r.reads.length = 32 → (t.group g).region = none ∧ (t.group g).elcause = 3))) ∧
    -- a non-resident tile
    (T.poisoned = false → T.resident = false →
      (T.fetching = true ∨ entriesOf g.tag o a = none → waits) ∧
      (T.fetching = false → entriesOf g.tag o a = some es →
        (appendAll T.log T.seq fresh = none → waits) ∧
        (appendAll T.log T.seq fresh = some (log, seq) → (∀ x, (s.group x).region = none) →
          (sliceChunks s h + (log.length + 7) / 8 ≤ 8192 + (T.log.length + 7) / 8 → ∃ t, exec (.homeSliceAccess g id j) s = .next t ∧ t.mem = s.mem ∧ appends t) ∧
          (8192 + (T.log.length + 7) / 8 < sliceChunks s h + (log.length + 7) / 8 → oldestLog s h = some y → (s.tile y).resident = false →
            (s.tile y).poisoned = false → (s.tile y).queue = [] →
            let m := applyEntries s.mem (4096 * y) (s.tile y).log
            (y ∉ s.bad → ∃ t, exec (.homeSliceAccess g id j) s = .next t ∧ (t.tile y).resident = true ∧ (t.tile y).log = [] ∧
              (y ≠ k → t.mem = m ∧ appends t) ∧
              (y = k → t.mem = writeLE m a.pa a.size (newValue o a (readLE m a.pa a.size)))) ∧
            (y ∈ s.bad → ∃ t, exec (.homeSliceAccess g id j) s = .next t ∧ t.mem = s.mem ∧ (t.tile y).poisoned = true ∧ (t.tile y).log = [] ∧
              (y ≠ k → appends t) ∧ (y = k → seen t (.failed 0x28) a.data.toNat))))))) ∧
  -- a register of the device windows (R205, R230, R232)
  (∀ (s : State) (g : GId) (id j : Nat) (o : QOp) (a : Acc),
    let G := s.group g
    let old := ofBytes (winRead s a.pa a.size)
    let reads := fun (t : State) (v : Nat) => t.mem = s.mem ∧ t.regs = s.regs ∧ t.launches = s.launches ∧ (∀ y, y ≠ g → t.group y = s.group y) ∧
      ∃ x, findOp (t.group g) id = some x ∧ (x.accs[j]?).map (fun b => (b.st, b.data)) = some (.done, BitVec.ofNat 64 v)
    findOp G id = some o → o.accs[j]? = some a → o.loc = false → o.after = none → a.st = .pending → earlierOverlap o j a = false →
    inOrder G o a = true → accPermitted s g o a.pa = true → (∀ h p, locate s.part a.pa ≠ .slice h p) → locate s.part a.pa ≠ .empty → G.region = none →
    (o.kind = .load ∨ o.kind = .gld → o.pair = none → ∃ t, exec (.homeSliceAccess g id j) s = .next t ∧ reads t (groupValue G id false a old)) ∧
    (o.kind = .rmw 7 true → casFails o a old = true → ∃ t, exec (.homeSliceAccess g id j) s = .next t ∧ reads t old)) ∧
  -- the entries of an access (R209, R211)
  (∀ (tag n op : Nat) (o : QOp) (a : Acc),
    let entry := fun (pa size code v : Nat) =>
      ({ opnd := BitVec.ofNat 64 v, tag := tag, seq := 0, size := size, op := code, word := pa % 4096 / 4, order := 0 } : LogEntry)
    let d := a.data.toNat % 2 ^ (8 * a.size)
    let code := match op with
      | 0 => 0x08
      | 1 => if o.ty.signed then 0x09 else 0x0A
      | 2 => if o.ty.signed then 0x0B else 0x0C
      | 3 => 0x0D
      | 4 => 0x0E
      | _ => 0x0F
    (o.kind = .logStore → a.size = 2 ^ n → n ≤ 3 → entriesOf tag o a = some [entry a.pa n (4 + (if n < 2 then a.pa % 4 else 0)) d]) ∧
    (o.kind = .logStore → a.size = 16 → entriesOf tag o a = some [entry a.pa 3 4 a.data.toNat, entry (a.pa + 8) 3 4 a.data2.toNat]) ∧
    (o.kind = .rmw op false → o.counted = true → op ≤ 5 → a.size = 2 ^ n → entriesOf tag o a = some [entry a.pa n code d]) ∧
    (o.kind = .rmw op false → 6 ≤ op → entriesOf tag o a = none) ∧
    (o.kind = .fadd → a.size = 4 → entriesOf tag o a = some [entry a.pa 2 0x10 d]) ∧
    (o.kind = .faddc → a.size = 4 ∨ a.size = 8 → entriesOf tag o a = some [entry a.pa 3 0x11 (a.data.toNat % 2 ^ 32 * 2 ^ 32)]) ∧
    (o.kind = .store ∨ o.kind = .load ∨ o.kind = .gld ∨ o.kind = .rdc ∨ o.kind = .tlogLen ∨ o.kind = .tlogFlush ∨ o.kind = .rmw op true →
      entriesOf tag o a = none)) ∧
  -- appends and compaction (R210, R213, R214)
  (∀ (l before later : List LogEntry) (n : Nat) (e x : LogEntry) (r : List LogEntry),
    let first := fun (z : LogEntry) => 4 * z.word + (if 4 ≤ z.op ∧ z.op ≤ 7 then z.op - 4 else 0)
    let covers := fun (z : LogEntry) => first e ≤ first z ∧ first z + 2 ^ z.size ≤ first e + 2 ^ e.size
    let meets := fun (z : LogEntry) => first z < first e + 2 ^ e.size ∧ first e < first z + 2 ^ z.size
    let now := compact l { e with seq := n + 1 }
    let w := 8 * 2 ^ e.size
    let a := x.opnd.toNat % 2 ^ w
    let b := e.opnd.toNat % 2 ^ w
    let p := twoSum 0 (x.opnd.toNat / 2 ^ 32) (e.opnd.toNat / 2 ^ 32)
    appendAll l n [] = some (l, n) ∧
    (n + 1 ≤ 0xFFFF → now.length ≤ 32 → appendAll l n (e :: r) = appendAll now (n + 1) r) ∧
    (0xFFFF < n + 1 ∨ 32 < now.length → appendAll l n (e :: r) = none) ∧
    (4 ≤ e.op → e.op ≤ 7 → compact l e = l.filter (fun z => !decide (covers z)) ++ [e]) ∧
    (¬(4 ≤ e.op ∧ e.op ≤ 7) →
      ((∀ z ∈ l, ¬meets z) → compact l e = l ++ [e]) ∧
      (l = before ++ x :: later → meets x → (∀ z ∈ later, ¬meets z) →
        (¬(x.word = e.word ∧ x.size = e.size ∧ x.op = e.op ∧ x.tag = e.tag ∧ e.op ≠ 0x10) → compact l e = l ++ [e]) ∧
        (x.word = e.word → x.size = e.size → x.op = e.op → x.tag = e.tag → 8 ≤ e.op → e.op ≤ 0x11 → e.op ≠ 0x10 → ∃ v,
          compact l e = before ++ { x with opnd := BitVec.ofNat 64 v, seq := e.seq } :: later ∧
          (e.op = 0x08 → v = (a + b) % 2 ^ w) ∧ (e.op = 0x09 → signedBits w v = min (signedBits w a) (signedBits w b)) ∧
          (e.op = 0x0A → v = min a b) ∧ (e.op = 0x0B → signedBits w v = max (signedBits w a) (signedBits w b)) ∧ (e.op = 0x0C → v = max a b) ∧
          (e.op = 0x0D → v = a &&& b) ∧ (e.op = 0x0E → v = a ||| b) ∧ (e.op = 0x0F → v = a ^^^ b) ∧
          (e.op = 0x11 → v = p.1 * 2 ^ 32 + (fAdd fp32 0 (x.opnd.toNat % 2 ^ 32) p.2.1).1))))) ∧
  (∀ (s : State) (h y : Nat),
    sliceChunks s h = ((s.tiles.filter (fun p => homeOf s p.1 == h)).map (fun p => (p.2.log.length + 7) / 8)).sum ∧
    ((s.tiles.map Prod.fst).Nodup → oldestLog s h = some y → homeOf s y = h ∧ (s.tile y).log ≠ [] ∧
      ∀ z e r, homeOf s z = h → (s.tile z).log = e :: r → ∃ e' r', (s.tile y).log = e' :: r' ∧ e'.order ≤ e.order)) ∧
  -- the placement of an atomic (R217, R218)
  (∀ (s : State) (h core tag pa c : Nat) (resident : Bool),
    let r := placeAtomic s h core tag pa resident
    let line := pa / 128
    let i := h * 4096 + Config.lineHash line % 4096
    let holds := fun (t : State) (c : Nat) => ∃ x ∈ (t.core c).lineBuf, x.1 = line
    (s.cores.map Prod.fst).Nodup → (∀ c d, holds s c → holds s d → c = d) →
    r.1.mem = s.mem ∧ (∀ q, q ≠ i → sget 0 r.1.predictor q = sget 0 s.predictor q) ∧
    ((∀ c, ¬holds s c) → sget 0 r.1.predictor i = sget 0 s.predictor i - 1) ∧
    (holds s core → sget 0 r.1.predictor i = sget 0 s.predictor i) ∧
    (holds s c → c ≠ core → sget 0 r.1.predictor i = min 3 (sget 0 s.predictor i + 1)) ∧
    (r.2 = true ↔ resident = true ∧ sget 0 r.1.predictor i < 2) ∧
    (r.2 = true → (line, tag) ∈ (r.1.core core).lineBuf ∧ ∀ c, c ≠ core → ¬holds r.1 c) ∧
    (r.2 = false → ∀ c, ¬holds r.1 c) ∧
    (∀ c, ∀ x ∈ (r.1.core c).lineBuf, x.1 ≠ line → x ∈ (s.core c).lineBuf) ∧
    ((s.core core).lineBuf.length ≤ 16 → (r.1.core core).lineBuf.length ≤ 16)) ∧
  ∀ (t : Ty) (w old d c : Nat), old < 2 ^ w → d < 2 ^ w → c < 2 ^ w →
    rmwNew 0 t w old d c = (old + d) % 2 ^ w ∧ rmwNew 3 t w old d c = old &&& d ∧ rmwNew 4 t w old d c = old ||| d ∧
    rmwNew 5 t w old d c = old ^^^ d ∧ rmwNew 6 t w old d c = d ∧ rmwNew 7 t w old d c = (if old = c then d else old) ∧
    (t.signed = false → rmwNew 1 t w old d c = min old d ∧ rmwNew 2 t w old d c = max old d) ∧
    (t.signed = true → signedBits w (rmwNew 1 t w old d c) = min (signedBits w old) (signedBits w d) ∧
      signedBits w (rmwNew 2 t w old d c) = max (signedBits w old) (signedBits w d))

/-- R116, R148, R336: completion in queue order. A load writes its destination, in each lane what that lane's access read; a store
leaves the queue; the counter falls by one, and by one more for each operation without accesses that now stands first; a failed access writes
nothing and its fault is held for the group. -/
def Obligations.MemoryCompletion : Prop :=
  ∀ (s : State) (g : GId) (o : QOp) (r : List QOp) (d : SReg) (vd : VReg) (k : GReg) (code : CmpCode) (v : Word) (a : Acc) (c : Nat),
    let old := s.group g
    let rest := fun (q : List QOp) => q.dropWhile (fun x => x.accs.isEmpty)
    let gone := fun (q : List QOp) => (q.takeWhile (fun x => x.accs.isEmpty)).countP QOp.counted
    let off := { old with loadq := rest r, lc := old.lc - 1 - gone r, storeq := rest old.storeq, sc := old.sc - gone old.storeq }
    (old.loadq = o :: r → (∀ x ∈ o.accs, x.st = .done) → ∃ t, exec (.loadCompletion g) s = .next t ∧ t.mem = s.mem ∧
      (o.dest = .sreg d → o.accs = [a] → t.group g = writeS off d (loadWord o a.data)) ∧
      (o.dest = .vreg vd → o.accs.Pairwise (fun x y => x.thread ≠ y.thread) → (∀ x ∈ o.accs, x.thread < 64) →
        t.group g = { off with vregs := (t.group g).vregs } ∧
        ∀ q l, l < 64 → readV (t.group g) q l = match o.accs.find? (fun x => x.thread == l) with
          | some x => if q = vd then loadLane o x.data else readV old q l
          | none => readV old q l) ∧
      (o.dest = .guard k code v → o.accs = [a] →
        readGuard (t.group g) k = (if compare code a.data v then .isTrue else .isFalse) ∧ (t.group g).lc = off.lc)) ∧
    (old.loadq = o :: r → o.accs = [{ a with st := .failed c }] → o.quiet = false → o.dest = .sreg d → old.status = .active →
      ∃ t, exec (.loadCompletion g) s = .next t ∧
        t.group g = { off with held := old.held ++ [{ code := c, arg := 0, addr := a.va }] }) ∧
    (old.storeq = o :: r → o.held = false → (∀ x ∈ o.accs, x.st = .done) → ∃ t, exec (.storeCompletion g) s = .next t ∧
      t.group g = { old with
        loadq := rest old.loadq, lc := old.lc - gone old.loadq
        storeq := rest r, sc := (if o.counted then old.sc - 1 else old.sc) - gone r } ∧ t.mem = s.mem) ∧
    (o.kind = .load → o.ty.signed = false → o.ty.width ≤ 64 → (loadWord o v).toNat = v.toNat % 2 ^ o.ty.width) ∧
    (o.kind = .load → o.ty.signed = true → (loadWord o v).toInt = signedBits o.ty.width (v.toNat % 2 ^ o.ty.width))

/-- R203, R204, R208, R212, R215, R216, R218, R222, R340: a fetch applies the log in order, makes the tile resident, and then performs the accesses
queued behind it in the order they came; an uncorrectable error poisons the tile, discards the log under a LOG_LOST record, and fails the accesses
queued behind it; evictions, line write-backs, walks and instruction-cache fills. That every walk's translation is kept is the model's
choice (notes/assumptions/28.md, DESIGN CHOICE). -/
def Obligations.TileEvents : Prop :=
  ∀ (s u : State) (k die ctx core line : Nat) (va : Word) (e : TlbEntry) (x : ILine) (fills : List (Nat × Nat)),
    let tl := s.tile k
    let noRecord := ∀ r ∈ s.lost, r.tile ≠ k
    (tl.fetching = true → tl.resident = false → tl.poisoned = false → k ∉ s.bad → ∃ v,
      v.mem = applyEntries s.mem (4096 * k) tl.log ∧ (v.tile k).resident = true ∧ (v.tile k).log = [] ∧ (v.tile k).seq = 0 ∧ (v.tile k).queue = [] ∧
      (∀ q : Queued, tl.queue.head? = some q → v.launches.map (fun l => ((l.tag, l.budget.getD 3 0) : Nat × Int))
        = s.launches.map (fun l => (l.tag, if l.tag = q.gid.tag ∧ 3 < l.budget.length then l.budget.getD 3 0 - (tl.log.length : Int) else l.budget.getD 3 0))) ∧
      exec (.tileFetch k false) s = .next (deliverLostOf
        (tl.queue.foldl (fun s q => performAt s q.gid q.id q.acc (homeOf s k) 0 (!q.began)) v) k)) ∧
    (tl.fetching = true → tl.log = [] → tl.queue = [] → noRecord → ∃ t, exec (.tileFetch k true) s = .next t ∧ t.mem = s.mem ∧
      (t.tile k).poisoned = true ∧ (t.tile k).fetching = false ∧ t.lost = s.lost) ∧
    -- the record of a lost log
    (tl.fetching = true → exec (.tileFetch k true) s = .next (deliverLostOf (loseLog s k) k)) ∧
    (∀ who tag, tl.resident = false → tl.poisoned = false → k ∈ s.bad → fetchNow s who k tag = loseLog s k) ∧
    (tl.queue = [] →
      let t := loseLog s k
      t.mem = s.mem ∧ (t.tile k).poisoned = true ∧ (t.tile k).log = [] ∧ (t.tile k).seq = 0 ∧ (t.tile k).fetching = false ∧ k ∉ t.bad ∧
      (tl.log = [] → t.lost = s.lost) ∧
      (tl.log ≠ [] → ∃ r, t.lost = s.lost ++ [r] ∧ r.tile = k ∧ (∃ a ∈ tl.log, a.seq = r.lo) ∧ (∃ a ∈ tl.log, a.seq = r.hi) ∧
        (∀ a ∈ tl.log, r.lo ≤ a.seq ∧ a.seq ≤ r.hi) ∧ ∀ y, y ∈ r.tags ↔ ∃ a ∈ tl.log, a.tag = y)) ∧
    (∀ (q : Queued) (o : QOp) (a : Acc), tl.queue = [q] → (s.group q.gid).region = none → findOp (s.group q.gid) q.id = some o → o.accs[q.acc]? = some a →
      ∃ y, findOp ((loseLog s k).group q.gid) q.id = some y ∧ (y.accs[q.acc]?).map Acc.st = some (.failed 0x28)) ∧
    (∀ tag, (s.launch tag).tag = tag → tag ≠ 0 → (s.launch tag).state = .running → (s.launch tag).handler ≠ none →
      ∀ y ∈ launchGroups (s.launch tag), (s.group y).status = .active →
        ({ code := 0x29, arg := 0, addr := 0 } : HeldEv) ∈ ((lostEvent s tag).group y).held) ∧
    (tl.resident = true → ∃ t, exec (.tileEviction k) s = .next t ∧ t.mem = s.mem ∧ (t.tile k).resident = false ∧ (t.tile k).log = [] ∧
      (∀ c, ∀ l ∈ (t.core c).lineBuf, l ∈ (s.core c).lineBuf)) ∧
    exec (.lineBufferWriteBack core line) s = .next (s.updCore core (fun c => { c with lineBuf := c.lineBuf.filter (fun x => x.1 != line) })) ∧
    (canonical va = true → die < diesOf s.part → lookupTlb s die ctx va.toNat = none →
      walk s { die := die, ctx := ctx, tag := 0, va := va.toNat } = (u, .ok e) → ∃ l, exec (.translationWalk die ctx va) s = .next { u with tlb := e :: l } ∧
        ∀ y, y ∈ l ↔ y ∈ u.tlb ∧ ¬(y.die = e.die ∧ y.ctx = e.ctx ∧ y.vbase = e.vbase)) ∧
    ((s.core core).fills = (ctx, line) :: fills → (s.launch (s.core core).tag).ctx = ctx →
      fillLine (s.updCore core (fun c => { c with fills := fills })) core ctx (s.launch (s.core core).tag).tag line = (u, .ok x) →
      exec (.chuteFill core line) s = .next u ∧ icacheLine (u.core core) ctx line = some x) ∧
    (∀ (m : Memory) (base : Nat) (n : LogEntry) (l : List LogEntry),
      applyEntries m base (l ++ [n]) = applyEntry (applyEntries m base l) base n)

/-- R41, R42, R50 to R52, R54, R177, R194, R240, R245, R335: the events that end a group's waits, reach its barriers, commit its region, and
deliver what is held for it; and the swap of a group for a ready pending one. Readings of the model's own: of the ready groups the
longest-waiting enters unless another would then wait beyond its eighth swap (notes/assumptions/8.md, DEDUCED); where the reads of `waitw` stand
(notes/assumptions/6.md); which paths make a group's arrival (notes/assumptions/10.md, DEDUCED); that a commit leaves ELSTAT.CODE = 0
(notes/assumptions/15.md, DESIGN CHOICE), that a held store which its target would turn away, or whose log's fetch meets an error, aborts with CAUSE 7
before any store is performed, and that a commit performs what other paths have issued between its stores (notes/assumptions/15.md, DEDUCED), but for a
load beside a wait that has not ended (notes/assumptions/6.md, DESIGN CHOICE); when a word whose draw or deal waits acts whole
(notes/assumptions/9.md, DESIGN CHOICE); which path takes a held event
(notes/assumptions/11.md, DEDUCED). -/
def Obligations.GroupEvents : Prop :=
  ∀ (s u : State) (g : GId) (k level n x pa h : Nat) (a v ha : Word) (sn : SReg) (gk : GReg) (c0 c1 c2 c3 : BitVec 32) (at_ nxt : Word)
    (l : Bool) (size : Nat) (e : HeldEv) (rest : List HeldEv) (line : ILine) (r : Region) (o : QOp) (b : Acc),
    let G := s.group g
    let p := pathOf G k
    let L := s.launch g.tag
    let others := fun (s : State) => ∀ l ∈ s.launches, ∀ y ∈ launchGroups l, y ≠ g → (s.group y).region = none
    (64 ≤ G.spin → exec (.spinDemotion g) s = .next (swapOut (s.updGroup g (fun y => { y with spin := 0 })) g.tag g.core g.grp)) ∧
    (∀ ready q, (s.core k).pending.filter (fun q => groupReady s { tag := n, core := k, grp := q }) = ready →
      let times := fun (q : Nat) => sget 0 (s.core k).passed q
      let due := fun (i : Nat) => ready.filter (fun q => decide (8 ≤ times q + i))
      (ready = [] → swapOut s n k x = s) ∧ (x ∉ (s.core k).active → swapOut s n k x = s) ∧
      (ready ≠ [] → ∃ y, chooseIn (s.core k) ready = some y ∧ y ∈ ready) ∧
      ((∀ i, 1 ≤ i → i ≤ 8 → (due i).length < i) → chooseIn (s.core k) ready = ready.head?) ∧
      (∀ i, 1 ≤ i → i ≤ 8 → i ≤ (due i).length → (∀ j, 1 ≤ j → j < i → (due j).length < j) → chooseIn (s.core k) ready = (due i).head?) ∧
      (x ∈ (s.core k).active → chooseIn (s.core k) ready = some q → ∃ passed, swapOut s n k x = s.updCore k (fun c =>
          { c with active := c.active.erase x ++ [q], pending := c.pending.erase q ++ [x], passed := passed }) ∧
        ∀ y, sget 0 passed y = if y ∈ ready ∧ y ≠ q then min 7 (times y + 1) else 0)) ∧
    (∀ m, memberArrived G m = true ↔ ∀ i < 64, (liveMask G).getLsbD i = true → m.getLsbD i = true) ∧
    (∀ y ∈ G.split, ownLanes G 0 &&& y.2.mask = 0) ∧
    (G.status ≠ .retired → ∀ z, barRecord G level n (phaseCount s g level n) = some z →
      (maySignal s g level n = true ↔ memberArrived G z.lanes = true ∧ (∀ y ∈ G.storeq, z.before ≤ y.id) ∧
        ∀ y ∈ G.loadq, z.before ≤ y.id ∨ settled y = true)) ∧
    (maySignal s g level n = true → L.tag = g.tag → g.tag ≠ 0 →
      let ph := phaseCount s g level n
      let m := s.updGroup g (fun y => { y with bars := y.bars.map (fun z =>
        if z.level == level && z.n == n && z.phase == ph then { z with signalled := true } else z) })
      ∃ t, exec (.barrierArrivalSignal g level n) s = .next t ∧
        (G.status ≠ .retired → ∃ z, barRecord (t.group g) level n ph = some z ∧ z.signalled = true) ∧
        phaseCount t g level n = if (barGroups m g level).all (fun y => barArrived level n ph (m.group y)) then ph + 1 else ph) ∧
    (p.waits.find? (fun w => match w with | .waitw _ _ _ _ _ => true | _ => false) = some (.waitw a size l v n) → G.status = .active →
      (watchTurn G n = true → leadEnded s g p = true → watched s g a size l n = (u, .ok x) →
        exec (.waitwWake g k) s = .next (if BitVec.ofNat 64 x = v then u else dropWait u g k (.waitw a size l v n))) ∧
      (watchTurn G n = false ∨ leadEnded s g p = false → exec (.waitwWake g k) s = .next s)) ∧
    (leadEnded s g p = true ↔ ∀ w ∈ p.waits, (∃ a b c, w = .barrier a b c) ∨ (∃ d i, w = .xwait d i) → waitDone s g w = true) ∧
    (p.waits.find? (fun w => match w with | .draw _ _ _ _ => true | _ => false) = some (.draw sn gk at_ nxt) → G.status = .active →
      tryDraw s g sn gk = some u →
        (at_ = nxt → exec (.drawWake g k) s = .next (dropWait s g k (.draw sn gk at_ nxt))) ∧
        (at_ ≠ nxt → ∃ t, exec (.drawWake g k) s = .next t ∧
          (pathOf (t.group g) k).waits = p.waits.erase (.draw sn gk at_ nxt) ∧ (t.group g).sregs = (u.group g).sregs ∧
          (p.pc = at_ → standsAt p = none → (pathOf (t.group g) k).pc = (nextPcGo at_ nxt G.loops).2))) ∧
    (p.waits.find? (fun w => match w with | .deal _ _ _ _ _ _ _ => true | _ => false) = some (.deal c0 c1 c2 c3 at_ nxt n) → G.status = .active →
      ((∃ m ∈ waitingDeals G, m < n) → exec (.dealEntry g k) s = .next s) ∧
      ((∀ m ∈ waitingDeals G, n ≤ m) →
      let st := (s.wg g.tag g.core).stage + 1
      let z := shoeOf L st
      let t := (dropWait (putShoe s g.tag st { z with fifo := z.fifo ++ [[c0, c1, c2, c3]] }) g k (.deal c0 c1 c2 c3 at_ nxt n)).updGroup g
        (fun y => goBehind y k at_ nxt)
      (256 ≤ z.fifo.length → exec (.dealEntry g k) s = .next s) ∧
      (z.fifo.length < 256 → at_ = nxt → exec (.dealEntry g k) s = .next (dropWait s g k (.deal c0 c1 c2 c3 at_ nxt n))) ∧
      (z.fifo.length < 256 → at_ ≠ nxt → exec (.dealEntry g k) s = .next t ∧
        (p.pc = at_ → standsAt { p with waits := p.waits.erase (.deal c0 c1 c2 c3 at_ nxt n) } = none →
          (pathOf (t.group g) k).pc = (nextPcGo at_ nxt G.loops).2 ∧ (t.group g).loops = (nextPcGo at_ nxt G.loops).1)))) ∧
    (p.waits.find? (fun w => match w with | .ifence _ _ _ => true | _ => false) = some (.ifence a v n) → G.status = .active →
      storesBelow G n = true → ∃ t, exec (.ifenceDiscard g k) s = .next t ∧
        (pathOf (t.group g) k).waits = p.waits.erase (.ifence a v n) ∧
        ∀ y, y ∈ (t.core g.core).icache ↔ y ∈ (s.core g.core).icache ∧ v.toNat ≤ 65536 ∧
          ¬(y.line * 128 < a.toNat + v.toNat ∧ a.toNat < y.line * 128 + 128) ∧
        ∀ y, y ∈ (t.core g.core).fills ↔ y ∈ (s.core g.core).fills ∧ v.toNat ≤ 65536 ∧
          ¬(y.2 * 128 < a.toNat + v.toNat ∧ a.toNat < y.2 * 128 + 128)) ∧
    (G.region = some r → r.members = [k] → p.waits.contains .elidend = true → commitReady G = true → commitLeads s g = true → G.status = .active →
      let f := commitFetch g s
      let taken := (sortBy (fun a b => decide (a ≤ b)) r.reads).foldl (fun x line => conflict x (some g) (line * 128) 128) f
      let u := taken.updGroup g (fun y => { y with region := none, elcause := 0, elcode := 0 })
      let ops := commitOps u g
      let done := ops.foldl (commitOp g) u
      (others f → (∀ y ∈ f.yarders, y.2.reserve = none) → taken = f) ∧
      ((f.group g).region = none → exec (.elisionCommit g) s = .next f) ∧
      ((f.group g).region ≠ none → commitFault f g = none → lostAtCommit f done g = [] →
        exec (.elisionCommit g) s = .next (dropWait done g k .elidend) ∧ (done.group g).region = none ∧ (done.group g).elcause = 0 ∧
        (done.group g).elcode = 0) ∧
      ((f.group g).region ≠ none → commitFault f g = none → lostAtCommit f done g ≠ [] →
        let lost := (lostAtCommit f done g).foldl (fun x y => fetchNow x (some g) y g.tag) f
        exec (.elisionCommit g) s = .next (abortRegion lost g 7 0x28)) ∧
      (ops.Pairwise (fun a b => a.id ≤ b.id) ∧ (∀ y ∈ ops, y ∈ (u.group g).loadq ∨ y ∈ (u.group g).storeq) ∧
        (∀ y ∈ ops, leadOver u g y = true) ∧ ∀ y ∈ (u.group g).storeq, y.held = true → leadOver u g y = true → y ∈ ops) ∧
      (∀ c, (f.group g).region ≠ none → commitFault f g = some c → exec (.elisionCommit g) s = .next (abortRegion f g 7 (BitVec.ofNat 8 c))) ∧
      (others s → (∀ y ∈ s.yarders, y.2.reserve = none) → G.loadq = [] → G.storeq = [] → exec (.elisionCommit g) s
        = .next (dropWait (s.updGroup g (fun y => { y with region := none, elcause := 0, elcode := 0 })) g k .elidend)) ∧
      (others s → G.loadq = [] → G.storeq = [o] → o.held = true → o.loc = false → o.accs = [b] → b.st = .pending →
        accPermitted s g o b.pa = true → locate s.part b.pa = .slice h pa → (s.tile (b.pa / 4096)).poisoned = false →
        (s.tile (b.pa / 4096)).resident = true → isWrite o.kind = true → casFails o b (readLE s.mem b.pa b.size) = false →
          ∃ t, exec (.elisionCommit g) s = .next t ∧
          t.mem = writeLE s.mem b.pa b.size (newValue o b (readLE s.mem b.pa b.size)))) ∧
    (G.held = e :: rest → G.status = .active → G.h = false → G.cutback = false → G.region = none →
      (L.handler = some ha → canonical ha = true → icacheLine (s.core g.core) L.ctx (ha.toNat / 128) = some line →
        pathEnded G 0 = false → G.root.waits = [] → ∃ t, exec (.eventDelivery g) s = .next t ∧ (t.group g).h = true ∧
          (t.group g).xpc = G.root.pc ∧ (t.group g).faultmask = 0 ∧ (t.group g).faultface = 0 ∧ (t.group g).faultaddr = e.addr ∧
          (e.code < 256 → (t.group g).xcode.toNat = e.arg % 65536 * 65536 + e.code) ∧ (t.group g).held = rest ∧
          (t.group g).root.pc = ha ∧ (t.group g).root.mask = G.root.mask) ∧
      (L.handler = none → e.code = 0x20 ∨ e.code = 0x21 ∨ e.code = 0x29 →
        exec (.eventDelivery g) s = .next (s.updGroup g (fun y => { y with held := rest }))))

/-! ## Events of the engines -/

/-- A queue whose head has gone: completed commands that stood behind no other command of the head's group have gone too, `n` commands of the
group in all; the rest stands in its order (R116, R117). -/
def LeavesQueue {α : Type} (grp : α → Nat) (done : α → Bool) (o : α) (old new : List α) (n : Nat) : Prop :=
  let behind := old.tail.filter (fun x => grp x == grp o)
  n = 1 + (behind.takeWhile done).length ∧ new.filter (fun x => grp x == grp o) = behind.dropWhile done ∧
  new.filter (fun x => grp x != grp o) = old.tail.filter (fun x => grp x != grp o) ∧ new.Sublist old.tail

/-- R72 to R75, R78, R82 to R84, R116, R284, R287 to R291: a matrix operation at the head of its core's queue: one K step of `m.mma` or `m.mmas`
on every row of S, one row of `m.ld` or `m.st` in each format, the constant operations whole, and the end, which lowers TC. Operands lie where R284
and R288 place them, in the scratchpad or in global memory. Rows outside S and other tiles keep their values. -/
def Obligations.MatrixEvents : Prop :=
  (∀ (s u1 u2 : State) (c : Nat) (o : TileOp) (d a : AReg) (sa : SReg) (ty : Ty) (wd : BitVec 4) (lc : Bool) (A : Nat → MVec) (B : Nat → BCol)
    (i0 : Nat) (left : List Nat) (bs : List (List Byte)) (x : Nat × Nat),
    let tag := (s.core c).tag
    let w := coreWg s c
    let l := coreLaunch s c
    let gid : GId := { tag := tag, core := c, grp := o.grp }
    let rnd := fmtRnd o.fmt
    let dst := dstTile o
    let by_ := byMatrix l c o
    let rows := fun (t : State) (f : Nat → Nat → Nat) =>
      (∀ i j, i < 64 → j < 64 → accAt (t.wg tag c) dst i j = if bit o.rows i then f i j % 2 ^ 32 else accAt w dst i j) ∧
      (∀ b i j, b ≠ dst → i < 64 → j < 64 → accAt (t.wg tag c) b i j = accAt w b i j)
    let row := fun (t : State) (f : Nat → Nat) =>
      (∀ j, j < 64 → accAt (t.wg tag c) dst i0 j = f j % 2 ^ 32) ∧
      (∀ b i j, (b ≠ dst ∨ i ≠ i0) → i < 64 → j < 64 → accAt (t.wg tag c) b i j = accAt w b i j)
    let ends := fun (t : State) => ∃ n, LeavesQueue TileOp.grp TileOp.idle o w.tileq (t.wg tag c).tileq n ∧ (t.group gid).tc = (s.group gid).tc - n ∧
      (t.wg tag c).copyq = w.copyq ∧ t.mem = s.mem ∧ Steady (t.wg tag c) ∧
      (c ∈ l.cores → (t.wg tag c).locks = w.locks.filter (fun k => k.id != o.id))
    headTile s c = some o → o.fault = none → Steady w →
    (o.bind = none → isConst o.op = true → ∃ t, exec (.tileOperationComplete c) s = .next t ∧ ends t ∧
      rows t (fun i j => ((constRow w o i).getD j (0, 0)).1)) ∧
    (o.bind = none → isConst o.op = false → stepsLeft o = false → ∃ t, exec (.tileOperationComplete c) s = .next t ∧ ends t ∧
      (t.wg tag c).acc = w.acc) ∧
    (bindDiscards o.bind = true → ∃ t, exec (.tileOperationComplete c) s = .next t ∧ ends t ∧ (t.wg tag c).acc = w.acc) ∧
    (∀ i j, i < 64 → j < 64 →
      (o.op = .mZero d → (constRow w o i).getD j (0, 0) = (0, 0)) ∧
      (o.op = .mXpose d a → (constRow w o i).getD j (0, 0) = (accAt w a.toNat j i, 0)) ∧
      (o.op = .mPerm d a sa → (o.ival.toNat / 256 % 4 = 0 → (constRow w o i).getD j (0, 0) = (accAt w a.toNat i ((j + o.ival.toNat % 64) % 64), 0)) ∧
        (o.ival.toNat / 256 % 4 = 1 → (constRow w o i).getD j (0, 0) = (accAt w a.toNat i (j ^^^ (o.ival.toNat % 64)), 0)) ∧
        (o.ival.toNat / 256 % 4 = 2 → (constRow w o i).getD j (0, 0) = (accAt w a.toNat i (63 - j), 0))) ∧
      (∀ vr, o.op = .mScale d a vr → (constRow w o i).getD j (0, 0) = fMul fp32 rnd (accAt w a.toNat i j) (o.vals.getD i 0).toNat) ∧
      (o.op = .mRsum d a → (constRow w o i).getD j (0, 0) = rsumRow rnd (accRow w a.toNat i))) ∧
    -- a K step, with its operands wherever they lie; a fault of one
    (let began := updHeadTile (chargeBudget s tag 1 (stepCycles o)) c (fun q => { q with begun := true })
    let ready := if fmtAcc o.fmt = 1 ∧ o.next = 0 then zeroRows began c o else began
    let kept := fun (u : State) => (u.core c).tag = tag ∧ u.wg tag c = ready.wg tag c
    let old := fun (i j : Nat) => if fmtAcc o.fmt = 1 ∧ o.next = 0 then 0 else accAt w dst i j
    ((∃ b k la lb, o.op = .mMma d sa b k la lb) ∨ (∃ b k la lb y nc, o.op = .mMmas d sa b k la lb y nc)) → o.bind = none → o.next < o.kval / 16 →
      (readARows by_ o o.next ready (lanesOf o.rows) = (u1, .ok ((lanesOf o.rows).map (fun i => (i, A i)))) →
        readB u1 by_ o o.next = (u2, .ok (lanes.map B)) → kept u2 → ∃ t, exec (.matrixKStep c) s = .next t ∧
          rows t (fun i j => (elemStep rnd (old i j) (A i) (B j).1 (B j).2).1) ∧ (t.wg tag c).tileq.head?.map (fun q => q.next) = some (o.next + 1)) ∧
      (o.da.loc = true → o.db.loc = true →
        (∀ i, bit o.rows i = true → (readARow s by_ o i o.next).2.toOption = some (A i)) → (readB s by_ o o.next).2.toOption = some (lanes.map B) →
        ∃ t, exec (.matrixKStep c) s = .next t ∧ t.mem = s.mem ∧
          rows t (fun i j => (elemStep rnd (old i j) (A i) (B j).1 (B j).2).1) ∧ (t.wg tag c).tileq.head?.map (fun q => q.next) = some (o.next + 1)) ∧
      (readARows by_ o o.next ready (lanesOf o.rows) = (u1, .error x) → exec (.matrixKStep c) s = .next (tileFault u1 c o x)) ∧
      (readARows by_ o o.next ready (lanesOf o.rows) = (u1, .ok ((lanesOf o.rows).map (fun i => (i, A i)))) →
        readB u1 by_ o o.next = (u2, .error x) → exec (.matrixKStep c) s = .next (tileFault u2 c o x))) ∧
    -- a row of `m.ld` and of `m.st`
    (let began := updHeadTile (chargeBudget s tag 1 (stepCycles o)) c (fun q => { q with begun := true })
    let f := mfmtTy ty wd.toNat
    let runs := rowPieces f o.da i0 0 64
    o.bind = none → rowsLeft o = i0 :: left →
      (o.op = .mLd d sa ty wd lc →
        (engReads by_ began (runs.map (fun p => (o.da.loc, p))) = (u1, .ok bs) → (u1.core c).tag = tag → u1.wg tag c = began.wg tag c →
          ∃ t, exec (.matrixKStep c) s = .next t ∧ row t (fun j => ((ldRow f bs).getD j (0, 0)).1) ∧
            (t.wg tag c).tileq.head?.map (fun q => q.next) = some (i0 + 1)) ∧
        (engReads by_ began (runs.map (fun p => (o.da.loc, p))) = (u1, .error x) → exec (.matrixKStep c) s = .next (tileFault u1 c o x)) ∧
        (o.da.loc = true → l.tag = tag → ty = .f32 → ∃ t, exec (.matrixKStep c) s = .next t ∧ t.mem = s.mem ∧
          row t (fun j => readLE w.scratch ((rowAt o.da i0).toNat + 4 * j) 4))) ∧
      (o.op = .mSt d sa ty wd lc →
        let r := stRow f o.fmt (accRow w dst i0)
        let done := fun (u : State) => updHeadTile u c (fun q => { q with next := i0 + 1, flags := q.flags ||| BitVec.ofNat 64 r.2 })
        (bit o.live i0 = false → exec (.matrixKStep c) s = .next (done began)) ∧
        (bit o.live i0 = true → engStore by_ began ((runs.zip r.1).map (fun p => (o.da.loc, p.1.1, p.2))) = (u1, .ok ()) →
          exec (.matrixKStep c) s = .next (done u1)) ∧
        (bit o.live i0 = true → engStore by_ began ((runs.zip r.1).map (fun p => (o.da.loc, p.1.1, p.2))) = (u1, .error x) →
          exec (.matrixKStep c) s = .next (tileFault u1 c o x)) ∧
        (bit o.live i0 = true → o.da.loc = true → l.tag = tag → ty = .f32 → ∃ t, exec (.matrixKStep c) s = .next t ∧ t.mem = s.mem ∧
          (t.wg tag c).acc = w.acc ∧ (∀ j, j < 64 → readLE (t.wg tag c).scratch ((rowAt o.da i0).toNat + 4 * j) 4 = accAt w dst i0 j) ∧
          ∀ b, b < (rowAt o.da i0).toNat ∨ (rowAt o.da i0).toNat + 256 ≤ b → readByte (t.wg tag c).scratch b = readByte w.scratch b)))) ∧
  -- where an operand's values lie (R284, R288)
  (∀ (s u : State) (by_ : EngBy) (o : TileOp) (d : Desc) (i j ks w n : Nat) (iv : Word) (bs : List (List Byte)), 0 < w →
    let row := d.base + d.stride * BitVec.ofNat 64 i
    let nb := d.stride.toInt / ((2 * w : Nat) : Int)
    let f := 64 * ks + j
    let cb := n * w / 8
    let panel := fun (cb : Nat) => let nb := (d.stride.toInt / (cb : Int)).toNat
      d.base + d.stride * BitVec.ofNat 64 (f / nb) + BitVec.ofNat 64 (cb * (f % nb))
    rowPieces .f32 d i 0 64 = [(row, 256)] ∧ rowPieces .f16 d i 0 64 = [(row, 128)] ∧ rowPieces .bf16 d i 0 64 = [(row, 128)] ∧
    rowPieces (.qb w) d i 0 64 = [(row, 8 * w), (d.base + d.off + BitVec.ofInt 64 (i * nb), 4)] ∧
    rowPieces .bf16 d i (16 * ks) 16 = [(row + BitVec.ofNat 64 (32 * ks), 32)] ∧
    rowPieces (.qb w) d i (16 * ks) 16 = [(row + BitVec.ofNat 64 (2 * w * ks), 2 * w), (d.base + d.off + BitVec.ofInt 64 (i * nb + ks), 1)] ∧
    bBlock { w := w, n := none } d iv f = [(panel (2 * w), 2 * w), (d.base + d.off + BitVec.ofNat 64 f, 1)] ∧
    bBlock { w := w, n := some n } d iv f
      = [(panel cb, cb), (d.base + d.off + BitVec.ofNat 64 f, 1), (d.base + iv + BitVec.ofNat 64 (n / 2 * f), n / 2)] ∧
    (engReads by_ s ((rowPieces (mfmtOf (fmtAf o.fmt)) o.da i (16 * ks) 16).map (fun p => (o.da.loc, p))) = (u, .ok bs) →
      readARow s by_ o i ks = (u, .ok (match mfmtOf (fmtAf o.fmt) with
        | .qb w => .qb w (ofBytes (bs.getD 1 [])) (mantissas w 16 (bs.headD []))
        | _ => .bf (halves (bs.headD []))))) ∧
    (∀ (b : List Byte) (e : Nat), e < 16 → b.length = 2 * w → (mantissas w 16 b).getD e 0 = signedBits w (ofBytes b / 2 ^ (w * e))) ∧
    (∀ (b : List Byte) (e : Nat), 2 * e < b.length → b.length % 2 = 0 → (halves b).getD e 0 = ofBytes b / 2 ^ (16 * e) % 2 ^ 16)) ∧
  -- a step on one element (R82 to R84, R288), and the rows that `m.ld` and `m.st` convert
  (∀ (mode acc ea eb wa wb w n : Nat) (p : Int) (ma mb : List Int) (ps : List Nat) (ts : List FV) (b m xs : List Byte) (row : List Nat) (fmt : BitVec 32),
    let x := unpack fp32 acc
    (x.isSig = true → qbStep mode acc ea eb wa wb p = (fp32.nan, fNV)) ∧
    (x.isSig = false → (ea = 0xFF ∨ eb = 0xFF ∨ x.isNan = true) → qbStep mode acc ea eb wa wb p = (fp32.nan, 0)) ∧
    (x.isNan = false → ea ≠ 0xFF → eb ≠ 0xFF → p ≠ 0 → qbStep mode acc ea eb wa wb p
      = sumFV fp32 mode [x, .fin (decide (p < 0)) p.natAbs ((ea : Int) + eb - 254 - ((wa : Int) - 1) - ((wb : Int) - 1))]) ∧
    (ma.length = 16 → mb.length = 16 → elemStep mode acc (.qb wa ea ma) (.qb wb eb mb) none
      = qbStep mode acc ea eb wa wb ((List.range 16).map (fun e => ma.getD e 0 * mb.getD e 0)).sum) ∧
    (mb.length = n → ps.length = n → elemStep mode acc (.qb wa ea ma) (.qb wb eb mb) (some ps)
      = qbStep mode acc ea eb wa wb ((List.range n).map (fun e => ma.getD (ps.getD e 0) 0 * mb.getD e 0)).sum) ∧
    ((∃ y ∈ ts, y.isInf true = true) → (∃ y ∈ ts, y.isInf false = true) → (chunkSum mode acc ts).1 = fp32.nan ∧ (chunkSum mode acc ts).2 &&& fNV = fNV) ∧
    (((∀ y ∈ ts, y.isInf true = false) ∨ ∀ y ∈ ts, y.isInf false = false) → chunkSum mode acc ts = sumFV fp32 mode (x :: ts)) ∧
    (b.length = 128 → ∀ j, j < 64 →
      (ldRow .f16 [b]).getD j (0, 0) = widen .f16 (ofBytes b / 2 ^ (16 * j) % 2 ^ 16) ∧
      (ldRow .bf16 [b]).getD j (0, 0) = widen .bf16 (ofBytes b / 2 ^ (16 * j) % 2 ^ 16)) ∧
    (0 < w → m.length = 8 * w → xs.length = 4 → ∀ j, j < 64 → (ldRow (.qb w) [m, xs]).getD j (0, 0)
      = (if (xs.getD (j / 16) 0).toNat = 0xFF then fp32.nan
        else qbToFp32 w (xs.getD (j / 16) 0).toNat (signedBits w (ofBytes m / 2 ^ (w * j))), 0)) ∧
    (row.length = 64 → (∀ v ∈ row, v < 2 ^ 32) →
      (∀ g, (g = .f16 ∨ g = .bf16) → ∃ d, (stRow g fmt row).1 = [d] ∧ d.length = 128 ∧ ∀ j, j < 64 → ofBytes d / 2 ^ (16 * j) % 2 ^ 16
        = (toFp (if g = .f16 then fp16 else bf16) (fmtRnd fmt) (fmtSat fmt) (unpack fp32 (row.getD j 0))).1 % 2 ^ 16) ∧
      (0 < w → ∃ d e, (stRow (.qb w) fmt row).1 = [d, e] ∧ d.length = 8 * w ∧ e.length = 4 ∧ ∀ j, j < 64 →
        let q := quant w (((row.drop (16 * (j / 16))).take 16).map (unpack fp32))
        (e.getD (j / 16) 0).toNat = q.1 % 256 ∧ ofBytes d / 2 ^ (w * j) % 2 ^ w = lowBits w (q.2.1.getD (j % 16) 0))))

/-- R219, R220, R296, R298, R299, R336: the Skidder performs the command at the head of its core's queue: `c.fill` sets exactly its bytes, a
`c.copy`, `c.copyt` or `c.send` writes its elements in linear order, each with what its source holds then, in every pairing of scratchpad and global
memory, and then its completion word or signal; `c.sig` takes 1 from its word. The command leaves the queue and CC falls. A `c.send` to another core
registers its write lock there first. That the whole payload is one event is the model's choice (notes/assumptions/16.md, DEDUCED). -/
def Obligations.SkidderEvents : Prop :=
  (∀ (s u x : State) (c n : Nat) (o : CopyOp) (v : Byte) (ra rb rd : SReg) (ls ld od : Bool) (e : Nat × Nat),
    let tag := (s.core c).tag
    let w := coreWg s c
    let to_ := s.wg tag o.target
    let l := coreLaunch s c
    let gid : GId := { tag := tag, core := c, grp := o.grp }
    let k := 2 ^ o.elog
    let el := fun (i : Nat) => elemAt o.src o.dst i o.ext o.srcs o.dsts
    let ends := fun (t : State) => ∃ n, LeavesQueue CopyOp.grp CopyOp.suppressed o w.copyq (t.wg tag c).copyq n ∧
      (t.group gid).cc = (s.group gid).cc - n ∧ (t.wg tag c).tileq = w.tileq ∧ Steady (t.wg tag c)
    let copies := (∃ d, o.op = .cCopy rd ra rb d ls od) ∨ (∃ d g, o.op = .cCopyt rd ra rb d ls od g) ∨ ∃ tm tr, o.op = .cSend rd ra rb ls od tm tr
    let by_ := bySkidder l c o
    headCopy s c = some o → l.tag = tag → Steady w →
    (bindDiscards o.bind = true → ∃ t, exec (.skidderCompletion c) s = .next t ∧ ends t ∧ t.mem = s.mem ∧ (t.wg tag c).scratch = w.scratch) ∧
    (o.op = .cFill rd ra v true → o.bind = none → o.fill = some v → o.ldst = true → o.target = c → o.ckind = 0 → o.ext = [n] →
      ∃ t, exec (.skidderCompletion c) s = .next t ∧ ends t ∧ t.mem = s.mem ∧
        ∀ b, readByte (t.wg tag c).scratch b = if o.dst.toNat ≤ b ∧ b < o.dst.toNat + n then v else readByte w.scratch b) ∧
    (o.op = .cFill rd ra v ld → o.bind = none → o.fill = some v → o.target = c → o.ckind = 0 → o.ext = [n] →
      engWrite s by_ c o.ldst o.dst (List.replicate n v) = (u, .ok ()) →
      exec (.skidderCompletion c) s = .next (retireWg (copyEnd (chargeBudget u tag 2 n) c o) tag c)) ∧
    (o.op = .cSig ra → o.bind = none → o.target = c →
      virtRmw (viaSkidder l c) (noteSignal by_ s o.caddr) o.caddr.toNat (fun x => x - 1) = (u, .ok ()) →
      exec (.skidderCompletion c) s = .next (retireWg (copyEnd u c o) tag c)) ∧
    -- copies within scratchpads, the same core's or a receiver's
    (copies → o.bind = none → o.fill = none → o.ckind = 0 → o.ldst = true → o.lsrc = true → lacksLock s c o = false →
      (o.target ≠ c → wkey tag o.target ≠ wkey tag c) → (∀ i, i < elemCount o → spOk l (el i).2 k = true) →
      ∃ t, exec (.skidderCompletion c) s = .next t ∧ ends t ∧ t.mem = s.mem ∧
        (∀ b, (∀ i, i < elemCount o → b < (el i).2.toNat ∨ (el i).2.toNat + k ≤ b) →
          readByte (t.wg tag o.target).scratch b = readByte to_.scratch b) ∧
        (o.target ≠ c → (t.wg tag c).scratch = w.scratch) ∧
        ((∀ i j, i < elemCount o → j < elemCount o →
            (o.target = c → (el i).1.toNat + k ≤ (el j).2.toNat ∨ (el j).2.toNat + k ≤ (el i).1.toNat) ∧
            (i ≠ j → (el i).2.toNat + k ≤ (el j).2.toNat ∨ (el j).2.toNat + k ≤ (el i).2.toNat)) →
          ∀ i, i < elemCount o → readLE (t.wg tag o.target).scratch (el i).2.toNat k = readLE w.scratch (el i).1.toNat k)) ∧
    -- copies of every kind: the elements one after another, then the completion
    (copies → o.bind = none → o.fill = none → lacksLock s c o = false →
      (copyGo l c o (elemCount o) 0 s = (u, n, none) → copySignal (chargeBudget u tag 2 n) l c o = (x, .ok ()) →
        exec (.skidderCompletion c) s = .next (retireWg (copyEnd x c o) tag c)) ∧
      (copyGo l c o (elemCount o) 0 s = (u, n, some e) →
        exec (.skidderCompletion c) s = .next (copyFault (chargeBudget u tag 2 n) l c o n e true))) ∧
    -- the receiver's write lock
    (copies → o.bind = none → o.target ≠ c → (∀ y ∈ o.ext, y ≠ 0) → (∀ y ∈ to_.locks, y.id ≠ o.id) →
      exec (.skidderCompletion c) s = .next (s.updWg tag o.target (fun w =>
        if 32 ≤ w.locks.length then w else { w with locks := w.locks ++ endpointLock o.id true true o.dst o.ext o.dsts o.elog })))) ∧
  (∀ (s u x : State) (l : Launch) (c m i pa q h : Nat) (o : CopyOp) (b : List Byte) (e : Nat × Nat) (v : Via) (a : Word),
    let k := 2 ^ o.elog
    let by_ := bySkidder l c o
    let el := elemAt o.src o.dst i o.ext o.srcs o.dsts
    -- element i has index xk = i / (EXT0 · … · EXTk−1) mod EXTk
    (o.ext.length = o.srcs.length → o.ext.length = o.dsts.length → i < elemCount o →
      let x := fun (n : Nat) => BitVec.ofNat 64 (i / (o.ext.take n).foldl (fun a e => a * e) 1 % o.ext.getD n 1)
      el.1 = o.src + ((List.range o.ext.length).map (fun n => x n * o.srcs.getD n 0)).sum ∧
      el.2 = o.dst + ((List.range o.ext.length).map (fun n => x n * o.dsts.getD n 0)).sum) ∧
    (engRead s by_ o.lsrc el.1 k = (u, .ok b) → (o.ldst = true → spOk l el.2 k = true) → engWrite u by_ o.target o.ldst el.2 b = (x, .ok ()) →
      copyElem s l c o i = (x, .ok ())) ∧
    (engRead s by_ o.lsrc el.1 k = (u, .error e) → copyElem s l c o i = (u, .error e)) ∧
    (engRead s by_ o.lsrc el.1 k = (u, .ok b) → o.ldst = true → spOk l el.2 k = false → copyElem s l c o i = (u, .error (0x0F, el.2.toNat))) ∧
    copyGo l c o 0 i s = (s, i * k, none) ∧
    (copyElem s l c o i = (u, .ok ()) → copyGo l c o (m + 1) i s = copyGo l c o m (i + 1) u) ∧
    (copyElem s l c o i = (u, .error e) → copyGo l c o (m + 1) i s = (u, i * k, some e)) ∧
    -- the completion word lies in the scratchpad that receives the payload, the signal in global memory
    ((∀ r, o.op ≠ .cSig r) →
      (o.ckind = 0 → copySignal s l c o = (s, .ok ())) ∧
      (o.ckind = 1 → spOk l o.caddr 8 = true → copySignal s l c o = engWrite s by_ o.target true o.caddr (toBytes 8 o.cval.toNat)) ∧
      (o.ckind = 1 → spOk l o.caddr 8 = false → copySignal s l c o = (s, .error (0x0F, o.caddr.toNat))) ∧
      (o.ckind = 2 → copySignal s l c o = virtRmw (viaSkidder l c) (noteSignal by_ s o.caddr) o.caddr.toNat (fun y => y - 1))) ∧
    -- a run of bytes in a scratchpad, and one within a page of global memory that is resident
    (0 < m → engRead s by_ true a m = (noteLevel s by_.gid by_.id 1, .ok (readBytes (s.wg l.tag c).scratch a.toNat m))) ∧
    (b ≠ [] → engWrite s by_ o.target true a b = ((noteLevel s by_.gid by_.id 1).updWg l.tag o.target
      (fun w => { w with scratch := writeBytes w.scratch a.toNat b }), .ok ())) ∧
    (0 < m → m ≤ 4096 - a.toNat % 4096 → translate s (v.walkArg a.toNat) .r = (u, .ok pa) → permitted u v.master pa .r = true →
      locate u.part pa = .slice h q → (u.tile (q / 4096)).poisoned = false → (u.tile (q / 4096)).resident = true →
      ∃ t, virtRead v s a.toNat m = (t, .ok (readBytes u.mem q m)) ∧ t.mem = u.mem) ∧
    (b ≠ [] → b.length ≤ 4096 - a.toNat % 4096 → translate s (v.walkArg a.toNat) .w = (u, .ok pa) →
      permitted u v.master pa (writePerm u.part pa) = true → locate u.part pa = .slice h q → (u.tile (q / 4096)).poisoned = false →
      (u.tile (q / 4096)).resident = true → ∃ t, virtWrite v s a.toNat b = (t, .ok ()) ∧ t.mem = writeBytes u.mem q b) ∧
    (translate s (v.walkArg a.toNat) .w = (u, .ok pa) → permitted u v.master pa .w = true →
      permitted u v.master pa (writePerm u.part pa) = true → locate u.part pa = .slice h q → (u.tile (q / 4096)).poisoned = false →
      (u.tile (q / 4096)).resident = true → ∃ t, virtRmw v s a.toNat (fun y => y - 1) = (t, .ok ()) ∧
        t.mem = writeLE u.mem q 8 (BitVec.ofNat 64 (readLE u.mem q 8) - 1 : Word).toNat))

/-- R65, R71, R89, R90, R281, R302, R303, R305, R347, R380, R386: what each message does at a rank, how it leaves for another package, the chain of
a reduction, what a rank combines and delivers, the two phases of `x.allred.qb`, resending, the timeout, and the start, failure and completion of an
operation. What ranks of other packages have issued, and the flags they raise, are not
seen: that a completion does not wait for the one and that the others are free values is the model's choice (notes/assumptions/18.md, DEDUCED and
DESIGN CHOICE); the choice of link is notes/assumptions/31.md (DEDUCED). -/
def Obligations.BoomEvents : Prop :=
  (∀ (s u : State) (b : BoomMsg) (o : BoomOp) (g : GId) (id c n ph : Nat) (ws : List (Word × List Byte)) (own got : List Byte) (e : Nat × Nat)
    (ranks : List Nat),
    let ack : BoomMsg :=
      { kind := 2, coll := b.coll, k := b.k, src := b.dst, dst := b.src, seg := b.seg, phase := b.phase, payload := [], status := 0 }
    let acked := boomPost s (collWords s b.coll) [ack]
    let seen := { s with boomSent := s.boomSent.eraseP (fun m => m.1 == b) }
    let put := fun (o : BoomOp) => { seen with boomOps := s.boomOps.map (fun y => if y.id == o.id then o else y) }
    let due := fun (m : BoomMsg × Nat) => m.1 == b && decide (m.2 + 100000 ≤ s.dtime)
    let answers := fun (m : BoomMsg) => m.kind = 1 ∧ m.coll = b.coll ∧ m.k = b.k ∧ m.seg = b.seg ∧ m.phase = b.phase ∧ m.src = b.dst ∧ m.dst = b.src
    let by_ := byBoom (s.launch o.gid.tag) o
    let ended := fun (t : State) (o : BoomOp) =>
      retireWg { t with boomOps := t.boomOps.map (fun y => if y.id == o.id then { o with ended := true } else y) } o.gid.tag o.gid.core
    let mates := s.boomOps.filter (fun y => y.coll == o.coll && y.k == o.k && y.id != o.id && y.bind.isNone)
    (boomArrives s b = true →
      (b.kind = 1 → b.payload.length ≤ 8192 →
        (boomAt s b = none → b ∉ s.boomWaiting → exec (.boomData b) s = .next { acked with boomWaiting := s.boomWaiting ++ [b] }) ∧
        (boomAt s b = some o → o.started = false → b ∉ s.boomWaiting →
          exec (.boomData b) s = .next { acked with boomWaiting := s.boomWaiting ++ [b] }) ∧
        (boomAt s b = some o → o.started = true → o.ended = true → exec (.boomData b) s = .next acked) ∧
        (boomAt s b = some o → o.started = true → o.ended = false → o.status = none →
          exec (.boomData b) s = .next (boomAdvance (putBoom acked (actOn o b)) o.id))) ∧
      (b.kind = 2 → ∃ t, exec (.boomAcknowledgement b) s = .next { s with boomSent := t } ∧
        (∀ m ∈ t, m ∈ s.boomSent ∧ ¬answers m.1) ∧ ∀ m ∈ s.boomSent, m.1 ≠ b → ¬answers m.1 → m ∈ t) ∧
      (boomAt s b = none →
        (b.kind = 3 → exec (.boomHaltNotice b) s = .next { seen with boomWaiting := s.boomWaiting ++ [b] }) ∧
        (b.kind = 4 → exec (.boomResumeNotice b) s = .next { seen with boomWaiting := s.boomWaiting ++ [b] }) ∧
        (b.kind = 5 → exec (.boomFailure b) s = .next { seen with boomWaiting := s.boomWaiting ++ [b] })) ∧
      (boomAt s b = some o → o.ended = false →
        (b.kind = 3 → o.frozen = false → exec (.boomHaltNotice b) s = .next (put { o with frozen := true, left := o.left - (s.dtime - o.since) })) ∧
        (b.kind = 4 → o.frozen = true → exec (.boomResumeNotice b) s = .next (put { o with frozen := false, since := s.dtime })) ∧
        (b.kind = 5 → o.status = none → exec (.boomFailure b) s = .next (put { o with status := some b.status })))) ∧
    (b.kind = 1 → s.boomSent.any due = true → exec (.boomResend b) s
      = .next (boomPost { s with boomSent := s.boomSent.eraseP due } (collWords s b.coll) [b])) ∧
    ((b.kind ≠ 1 ∨ s.boomSent.any due = false) → exec (.boomResend b) s = .next s) ∧
    -- a message leaves: within the package, over Highlead, over a scale-out port
    (let kept := if b.kind = 1 then { s with boomSent := s.boomSent ++ [(b, s.dtime)] } else s
    let port := regLE s (peerBase (rankPkg ranks b.dst) + 16) 2
    let q := rankPkg ranks b.dst
    let bytes := boomBytes b
    let joins := fun (p : Nat × Nat) => p.1 == q && decide (p.2 < diesOf s.part)
    (q = s.part.package → boomPost s ranks [b] = { s with boomSent := s.boomSent ++ [(b, s.dtime)] }) ∧
    (∀ d, q ≠ s.part.package → s.part.joined.find? joins = some (q, d) → boomPost s ranks [b]
      = sendFlits kept d (headerFlit 0x10 (idBoom (dieOf (rankCore ranks b.src))) 0 (bytes.length - 1) 0 :: dataFlits bytes)) ∧
    (q ≠ s.part.package → s.part.joined.find? joins = none → boomPost s ranks [b] = if s.part.netx ∧ port < (if s.part.dies16 then 4 else 2)
      then { kept with datagrams := s.datagrams ++ [{ port := port, dest := regBytes s (peerBase q) 16, bytes := bytes }] } else kept) ∧
    at_ bytes 0 2 = 1 ∧ at_ bytes 2 2 = b.kind % 65536 ∧ at_ bytes 4 2 = b.coll % 65536 ∧ at_ bytes 6 2 = 0 ∧ at_ bytes 8 4 = b.k % 2 ^ 32 ∧
    at_ bytes 12 2 = b.src % 65536 ∧ at_ bytes 14 2 = b.dst % 65536 ∧ at_ bytes 16 4 = b.seg % 2 ^ 32 ∧ at_ bytes 20 1 = b.phase % 256 ∧
    at_ bytes 21 3 = 0 ∧ at_ bytes 24 4 = b.payload.length % 2 ^ 32 ∧
    at_ bytes 28 4 = (if b.kind = 5 then b.status % 2 ^ 32 else 0) ∧ bytes.drop 32 = b.payload) ∧
    -- a segment of a reduction passes along the chain; the last rank finishes it and sends it to all
    (heldSeg o (16 + ph) n o.rank = none → ownData o ph = some own →
      let mine := segOf o ph n own
      let last := o.ranks.length - 1
      let passes := fun (d : List Byte) (flags : Nat) =>
        let p := keepSeg o (16 + ph) n o.rank d
        let f := finishSeg p ph n d
        if o.rank < last then some (p, [dataMsg o (o.rank + 1) ph n d], flags)
        else some (keepSeg p (32 + ph) n o.rank f.1, ((List.range o.ranks.length).filter (fun y => y != o.rank)).map
          (fun y => dataMsg o y 3 ((if ph = 2 then segCount o 1 else 0) + n) f.1), flags ||| f.2)
      (o.rank = 0 → chainSeg o ph n = passes mine 0) ∧
      (0 < o.rank → heldSeg o ph n (o.rank - 1) = none → chainSeg o ph n = none) ∧
      (0 < o.rank → heldSeg o ph n (o.rank - 1) = some got →
        chainSeg o ph n = passes (combineSeg o ph got mine).1 (combineSeg o ph got mine).2)) ∧
    (ownData o ph = none ∨ heldSeg o (16 + ph) n o.rank ≠ none → chainSeg o ph n = none) ∧
    -- the timeout, and the completion
    (s.boomOps.find? (fun y => y.id == id && y.gid == g) = some o → o.ended = false →
      (o.status = none → o.frozen = false → o.started = true → o.left ≤ s.dtime - o.since → ∃ t, exec (.collectiveTimeout g id) s
          = .next (boomPost { s with boomOps := s.boomOps.map (fun y => if y.coll == o.coll && y.k == o.k && !y.ended && y.status == none then
            { y with status := some 0x3F } else y) } o.ranks t) ∧
        ∀ m, m ∈ t ↔ m = { kind := 5, coll := o.coll, k := o.k, src := o.rank, dst := m.dst, seg := 0, phase := 0, payload := [], status := 0x3F } ∧
          m.dst < o.ranks.length ∧ m.dst ≠ o.rank) ∧
      ((o.frozen = true ∨ s.dtime - o.since < o.left) → exec (.collectiveTimeout g id) s = .next s) ∧
      (o.status = some c → o.sig = 0 → exec (.boomOperationComplete g id) s = .next (ended s o)) ∧
      (o.status = some c → o.sig ≠ 0 → virtRmw by_.v (noteSignal by_ s o.sig) o.sig.toNat (fun _ => BitVec.ofInt 64 (-(c : Int))) = (u, .ok ()) →
        exec (.boomOperationComplete g id) s = .next (ended u o)) ∧
      (o.status = some c → o.sig ≠ 0 → virtRmw by_.v (noteSignal by_ s o.sig) o.sig.toNat (fun _ => BitVec.ofInt 64 (-(c : Int))) = (u, .error e) →
        exec (.boomOperationComplete g id) s = .next (ended u o)) ∧
      -- a bound command waits, goes or starts; an operation that differs from a matched one fails them all
      (o.status = none → (∃ k neg, o.bind = some { k := k, neg := neg, fate := none }) → o.started = false →
        exec (.boomOperationComplete g id) s = .next s) ∧
      (o.status = none → (∃ k neg, o.bind = some { k := k, neg := neg, fate := some false }) →
        exec (.boomOperationComplete g id) s = .next (boomDiscard s o)) ∧
      (o.status = none → (o.bind = none ∨ ∃ k neg, o.bind = some { k := k, neg := neg, fate := some true }) → o.started = false →
        behindBound s o = false → exec (.boomOperationComplete g id) s = .next (boomStart s id)) ∧
      (o.status = none → o.bind = none → o.started = false → behindBound s o = false → s.boomWaiting = [] → (∀ y ∈ s.boomOps, y.id = o.id → y = o) →
        (∀ y ∈ s.boomOps, y.coll = o.coll → y.k = o.k → y.status = none) → mates.any (boomDiffers o) = true →
        ∃ t, exec (.boomOperationComplete g id) s = .next t ∧ ∀ y ∈ t.boomOps, y.coll = o.coll → y.k = o.k → y.ended = false → y.status = some 0x19) ∧
      -- DST and the signal
      (o.status = none → o.bind = none → o.started = true →
        ((boomWrites o = none ∨ allIssued s o = false) → exec (.boomOperationComplete g id) s = .next s) ∧
        (boomWrites o = some ws → allIssued s o = true →
          (boomReady by_ s o ws = (u, .error e) → exec (.boomOperationComplete g id) s = .next (boomFault u o e)) ∧
          (boomReady by_ s o ws = (u, .ok ()) →
            let x := (engWrites by_ u (ws.map (fun w => (false, w.1, w.2)))).1
            let y := if o.sig = 0 then x else (virtRmw by_.v x o.sig.toNat (fun y => y - 1)).1
            exec (.boomOperationComplete g id) s
              = .next (ended (raiseFor y o.gid (o.flags.toNat ||| farFlagsOf y o)) { o with status := some 0 }))))) ∧
    -- what an operation writes, and the flags that may be raised elsewhere
    ((∃ k, xform o.op = .elem k) → (∀ a ty, o.op ≠ .xBcast a ty) → (∀ a ty, o.op ≠ .xGather a ty) → finished o 0 = some own →
      boomWrites o = some [(o.dst, own)]) ∧
    (∀ a ty, o.op = .xBcast a ty → o.rank ≠ o.root → o.dst ≠ o.src → joinSegs o 0 0 (segCount o 0) o.root = some own →
      boomWrites o = some [(o.dst, own)]) ∧
    (∀ a ty, o.op = .xBcast a ty → o.rank = o.root → o.dst ≠ o.src → heldSeg o 4 0 o.rank = some own → boomWrites o = some [(o.dst, own)]) ∧
    (∀ a ty, o.op = .xGather a ty → o.rank ≠ o.root → boomWrites o = some []) ∧
    (∀ a op w, o.op = .xAllred a op .qb w → rankPkg o.ranks (o.ranks.length - 1) = s.part.package → farFlagsOf s o = 0)) ∧
  -- a rank combines what it received with its own elements (R302)
  (∀ (o : BoomOp) (a : SReg) (op w : BitVec 4) (ty : Ty) (x y : List Byte) (n i m : Nat),
    let el := fun (b : List Byte) => ofBytes b / 2 ^ (8 * n * i) % 2 ^ (8 * n)
    0 < n → x.length = y.length → n * (i + 1) ≤ x.length → x.length % n = 0 →
    (o.op = .xAllred a op ty w → ty ≠ .qb → n = ty.width / 8 →
      (op = 0 → ty.width = 8 * n → el (combineSeg o 0 x y).1 = (el x + el y) % 2 ^ (8 * n)) ∧
      (op = 1 → ty.width = 8 * n → if ty.signed then
          signedBits (8 * n) (el (combineSeg o 0 x y).1) = min (signedBits (8 * n) (el x)) (signedBits (8 * n) (el y))
        else el (combineSeg o 0 x y).1 = min (el x) (el y)) ∧
      (op = 2 → ty.width = 8 * n → if ty.signed then
          signedBits (8 * n) (el (combineSeg o 0 x y).1) = max (signedBits (8 * n) (el x)) (signedBits (8 * n) (el y))
        else el (combineSeg o 0 x y).1 = max (el x) (el y)) ∧
      (op = 3 → ty.width = 8 * n → el (combineSeg o 0 x y).1 = el x &&& el y) ∧
      (op = 4 → ty.width = 8 * n → el (combineSeg o 0 x y).1 = el x ||| el y) ∧
      (op = 5 → ty.width = 8 * n → el (combineSeg o 0 x y).1 = el x ^^^ el y) ∧
      (op = 8 → n = 4 → el (combineSeg o 0 x y).1 = (fAdd fp32 0 (el x) (el y)).1 % 2 ^ 32) ∧
      (op = 9 → n = 4 → el (combineSeg o 0 x y).1 = (fMinMax fp32 false (el x) (el y)).1 % 2 ^ 32) ∧
      (op = 10 → n = 4 → el (combineSeg o 0 x y).1 = (fMinMax fp32 true (el x) (el y)).1 % 2 ^ 32)) ∧
    (o.op = .xAllmax a .f32 → n = 4 → el (combineSeg o 0 x y).1 = (fMinMax fp32 true (el x) (el y)).1 % 2 ^ 32) ∧
    -- the finished data: a NaN of an FP32 reduction is canonical
    ((o.op = .xAllred a op .f32 w ∨ o.op = .xAllmax a .f32) → n = 4 →
      el (finishSeg o 0 m x).1 = (if (unpack fp32 (el x)).isNan then fp32.nan else el x)) ∧
    ((∃ k, xform o.op = .elem k) → (∀ w, o.op ≠ .xAllred a op .f32 w) → o.op ≠ .xAllmax a .f32 → (o.op = .xAllred a op ty w ∨ o.op = .xAllmax a ty) →
      finishSeg o 0 m x = (x, 0)) ∧
    (o.op = .xAllmax a ty → ty ≠ .f32 → n = ty.width / 8 → ty.width = 8 * n → el (combineSeg o 0 x y).1
      = if (if ty.signed then signedBits ty.width (el x) < signedBits ty.width (el y) else el x < el y) then el y else el x)) ∧
  -- QB blocks: exponents by maximum, mantissas aligned and summed, blocks delivered (R75, R89, R90, R303)
  (∀ (o : BoomOp) (a : SReg) (op W : BitVec 4) (x y eg er ms b : List Byte) (qs : List Nat) (p eG eR i j k n : Nat) (m : Int),
    let w := W.toNat
    let P := o.ranks.length
    let el := fun (b : List Byte) => ofBytes b / 2 ^ (32 * i) % 2 ^ 32
    let u := 2 * o.outw
    (p ≤ 2 ^ headroom p ∧ (p ≤ 1 → headroom p = 0) ∧ (1 < p → 2 ^ (headroom p - 1) < p) ∧ alignL p w = 32 - headroom p - w) ∧
    (alignElem p w 0xFF eR m = 0) ∧
    (eG ≠ 0xFF → eR ≤ eG → eG - eR ≤ alignL p w → alignElem p w eG eR m = m * 2 ^ (alignL p w - (eG - eR))) ∧
    (eG ≠ 0xFF → eR ≤ eG → alignL p w < eG - eR →
      let f : Int := 2 ^ (eG - eR - alignL p w)
      let q := alignElem p w eG eR m
      2 * (q * f - m) ≤ f ∧ 2 * (m - q * f) ≤ f ∧ (2 * (q * f - m) = f ∨ 2 * (m - q * f) = f → q % 2 = 0)) ∧
    sumValue p w 0xFF k = .nan false ∧
    (eG ≠ 0xFF → sumValue p w eG k
      = .fin (decide (signedBits 32 k < 0)) (signedBits 32 k).natAbs ((eG : Int) - 127 - ((w : Int) - 1) - (alignL p w : Int))) ∧
    (o.op = .xAllred a op .qb W →
      (x.length = y.length → i < x.length → ((combineSeg o 1 x y).1.getD i 0).toNat = max (x.getD i 0).toNat (y.getD i 0).toNat) ∧
      (x.length = y.length → x.length % 4 = 0 → 4 * (i + 1) ≤ x.length → el (combineSeg o 2 x y).1 = (el x + el y) % 2 ^ 32) ∧
      ownData o 1 = heldSeg o 4 0 o.rank ∧ finishSeg o 1 n x = (x, 0) ∧
      (finished o 1 = none → ownData o 2 = none) ∧
      (finished o 1 = some eg → heldSeg o 4 0 o.rank = some er → heldSeg o 5 0 o.rank = some ms → ms.length = 2 * w * o.count →
        ∃ d, ownData o 2 = some d ∧ d.length = 64 * o.count ∧ ∀ b e, b < o.count → e < 16 →
          ofBytes d / 2 ^ (32 * (16 * b + e)) % 2 ^ 32
            = lowBits 32 (alignElem P w (eg.getD b 0).toNat (er.getD b 0).toNat (signedBits w (ofBytes ms / 2 ^ (16 * w * b + w * e) % 2 ^ w)))) ∧
      (finished o 1 = some eg → x.length = 64 * k → (finishSeg o 2 n x).1 = (List.range k).flatMap (fun j =>
        (deliverBlock o w (eg.getD (n * 128 + j) 0).toNat
          ((List.range 16).map (fun i => ofBytes x / 2 ^ (32 * (16 * j + i)) % 2 ^ 32))).1)) ∧
      (o.outw = 0 → i < qs.length → (deliverBlock o w eG qs).1.length = 4 * qs.length ∧
        el (deliverBlock o w eG qs).1 = (packFV fp32 0 (sumValue P w eG (qs.getD i 0))).1 % 2 ^ 32) ∧
      (o.outw ≠ 0 → o.outw ≤ 8 → qs.length = 16 →
        let q := quant o.outw (qs.map (sumValue P w eG))
        let d := (deliverBlock o w eG qs).1
        d.length = u + 1 ∧ (d.getD u 0).toNat = q.1 % 256 ∧ (deliverBlock o w eG qs).2 = q.2.2 ∧
        ∀ e, e < 16 → ofBytes d / 2 ^ (o.outw * e) % 2 ^ o.outw = lowBits o.outw (q.2.1.getD e 0)) ∧
      (finished o 2 = none → boomWrites o = none) ∧
      (finished o 2 = some b → o.outw = 0 → boomWrites o = some [(o.dst, b)]) ∧
      (finished o 2 = some b → o.outw ≠ 0 → b.length = (u + 1) * o.count → ∃ m e, boomWrites o = some [(o.dst, m), (o.dst + o.deoff, e)] ∧
        m.length = u * o.count ∧ e.length = o.count ∧ ∀ j, j < o.count → e.getD j 0 = b.getD ((u + 1) * j + u) 0 ∧
          ∀ i, i < u → m.getD (u * j + i) 0 = b.getD ((u + 1) * j + i) 0)) ∧
    ((∃ k, xform o.op = .elem k) → ownData o j = heldSeg o 4 0 o.rank))

/-! ## Queues -/

/-- R309, R310, R311: an arriving notify-block write of 64 bytes passes every check. -/
def Accepted (s : State) (off : Nat) (w : NWrite) : Prop :=
  w.die < diesOf s.part ∧ w.data.length = 64 ∧ (capOf w.data).ok = true ∧ notifyCtx s w = some (some (capOf w.data).owner) ∧
  zeroBytesOk off w.data = true ∧ rightOf (capOf w.data) off = true

/-- R309 to R313, R317 to R319, R322, R324, R388: the notify block's checks, forwarding and take-up, what each accepted write does to its
queue, the dispatch of each packet, and the re-reading of a barrier's signal. These clauses are the model's readings (notes/assumptions/13.md,
DEDUCED): NREFUSED counts modulo 2^32; ABORT command 1 makes a HALTED queue ABORTED; a queue is IDLE at Ri = Wl, also beside a packet with B = 1
in flight; a notify with W <= Wl has a stalled read tried again; the packets of a HALTED queue are passed over without a status when it is
rearmed; the record of a rejected LAUNCH has tag 0. -/
def Obligations.QueueEvents : Prop :=
  ∀ (s u x : State) (w : NWrite) (off die k n i pkt : Nat) (r : List (Nat × NWrite)) (m : Master) (v : Word) (b : List Byte)
    (bs : List (List Byte)) (e : Nat × Nat) (l : Launch) (p : Packet) (a : Word) (seen : Bool) (W : Nat),
    let c := capOf w.data
    let q := queueAt s k
    let q' := queueAt u k
    let h := at_ (bs.headD []) 0 2
    let d := k / 256
    let pk : LaunchPkt := { hdr := h, b0 := bs.headD [], b1 := (bs.drop 1).headD [] }
    let gone := fun (t : State) => writeRi t k (q'.ri + bs.length)
    let next := fun (t : State) => updQueue t k afterDispatch
    let ev : Nat → Instr := fun o => if o = 0 then .notify w else if o = 0x80 then .query w else if at_ w.data 32 1 = 2 then .rearm w else .abort w
    let reads := readPacket s d q = (u, .slots bs)
    let open_ := q.stalled = false ∧ q.ri < q.wl
    let takes := open_ ∧ q.state = .active ∧ q.inflight.any (fun y => y.b) = false ∧ q.inflight.length < 16
    let acted := actNotify s k c W
    let told := fun (t : State) (status va : Nat) => notice t d q.owner
      { kind := 3, tag := 0, status := status, base := q.base, rest := q.ri + q.wl * 2 ^ 64 + va * 2 ^ 128 }
    let rearmed := fun (t : State) => updQueue (writeRi t k q.wl) k (fun y => { y with state := .idle, stalled := false, covers := [] })
    let moved := fun (y : Queue) => { y with ri := n, covers := y.covers.filter (fun z => decide (n < z.1)) }
    let aligned := fun (a : Nat) => if a % 8 = 0 then BitVec.ofNat 64 a else (0 : Word)
    -- arrival
    ((off = 0 ∨ off = 0x40 ∨ off = 0x80) → w.die < diesOf s.part →
      (w.data.length = 64 → c.ok = false ∨ notifyCtx s w ≠ some (some c.owner) ∨ zeroBytesOk off w.data = false →
        exec (ev off) s = .next (countRefused s w.die)) ∧
      (w.data.length = 64 → c.ok = true → notifyCtx s w = some (some c.owner) → zeroBytesOk off w.data = true → rightOf c off = false →
        exec (ev off) s = .next (notice (countRefused s w.die) w.die c.owner
          { kind := 5, tag := 0, status := 0x8A, base := c.base, rest := off * 2 ^ 64 })) ∧
      (Accepted s off w → findQueue s c = some k → servingDie s.part c = w.die → sget [] s.forwarded w.die = [] →
        exec (ev off) s = .next (actWrite s k off w)) ∧
      (Accepted s off w → (findQueue s c = none ∨ servingDie s.part c ≠ w.die) → exec (ev off) s = .next { s with
        forwarded := sput [] s.forwarded (servingDie s.part c) (sget [] s.forwarded (servingDie s.part c) ++ [(off, w)]) })) ∧
    (sget [] s.forwarded die = (off, w) :: r →
      (findQueue s c = some k → exec (.notifyForward die) s
        = .next (actWrite { s with forwarded := sput [] s.forwarded die r } k off w)) ∧
      (findQueue s c = none → freeQueueEntry s die = some k →
        (virtRead (viaPacket die c.owner) { s with forwarded := sput [] s.forwarded die r } c.ridx.toNat 8 = (u, .ok b) →
          exec (.queueTakeUp die) s = .next (actWrite (updQueue u k (fun _ => { Queue.zero with
            base := c.base, ridx := c.ridx, logn := c.logn, owner := c.owner, ri := ofBytes b, wl := ofBytes b })) k off w)) ∧
        (virtRead (viaPacket die c.owner) { s with forwarded := sput [] s.forwarded die r } c.ridx.toNat 8 = (u, .error e) →
          exec (.queueTakeUp die) s = .next (notice u die c.owner { kind := 5, tag := 0, status := e.1, base := c.base, rest := e.2 })))) ∧
    (die < diesOf s.part → permitted s m (0x280000000000 + die * 0x1000 + 0xC0) .w = true → ∃ t, exec (.nrefusedClear die m v) s = .next t ∧
      t = { s with nrefused := t.nrefused } ∧ sget 0 t.nrefused die = sget 0 s.nrefused die &&& (2 ^ 32 - 1 - v.toNat % 2 ^ 32)) ∧
    (sget 0 (countRefused s die).nrefused die = (sget 0 s.nrefused die + 1) % 2 ^ 32) ∧
    -- what an accepted write does
    (actWrite s k 0 w = actNotify s k c (at_ w.data 32 8)) ∧
    (q.state = .halted → acted = s) ∧
    (q.state ≠ .halted → W ≤ q.wl → acted = updQueue s k (fun y => { y with stalled := false })) ∧
    (q.state ≠ .halted → q.wl < W → 2 ^ q.logn < W - q.ri → acted = told (updQueue s k (fun y => { y with state := .halted })) 0x88 (slotVa q q.ri)) ∧
    (q.state ≠ .halted → q.wl < W → W - q.ri ≤ 2 ^ q.logn → acted = updQueue s k (fun _ =>
      { q with wl := W, covers := q.covers ++ [(W, c.submit)], stalled := false
               state := if q.state = .idle ∨ (q.state = .waitslots ∧ q.need ≤ W - q.ri) then .active else q.state })) ∧
    (let answer := virtStore (viaPacket d q.owner) s (at_ w.data 32 8) (toBytes 8 q.ri ++ toBytes 8 q.wl ++ toBytes 4 (stateCode q.state)
        ++ toBytes 4 q.inflight.length ++ toBytes 8 0);
      (answer = (u, .ok ()) → actWrite s k 0x80 w = u) ∧ (answer = (u, .error e) → actWrite s k 0x80 w = accessNotice u d q e)) ∧
    (virtWrite (viaPacket d q.owner) (updQueue s k moved) q.ridx.toNat (toBytes 8 n) = (u, .ok ()) → writeRi s k n = u) ∧
    (virtWrite (viaPacket d q.owner) (updQueue s k moved) q.ridx.toNat (toBytes 8 n) = (u, .error e) →
      writeRi s k n = accessNotice u d (moved q) e) ∧
    (at_ w.data 32 1 = 1 → actWrite s k 0x40 w = (q.inflight.filter (fun y => y.typ == 1)).foldl (fun s y => terminate s y.tag 0x3F none 0)
      (told (updQueue s k (fun y => { y with state := .aborted })) 0x3F 0)) ∧
    (at_ w.data 32 1 = 2 → (q.state ≠ .aborted → q.state ≠ .halted → actWrite s k 0x40 w = s) ∧
      (q.state = .halted → actWrite s k 0x40 w = rearmed s) ∧ (q.state = .aborted → actWrite s k 0x40 w = rearmed (dropAll k (q.wl - q.ri) s))) ∧
    (¬open_ → dropAll k n s = s) ∧
    (open_ → (reads → dropAll k (n + 1) s = dropAll k n (completePacket (writeRi u k (q.ri + bs.length)) d q (bs.headD []) 0x8B)) ∧
      (readPacket s d q = (u, .short pkt) → dropAll k (n + 1) s = u) ∧
      (readPacket s d q = (u, .fault e) → dropAll k (n + 1) s = updQueue (accessNotice u d q e) k (fun y => { y with stalled := true }))) ∧
    (at_ w.data 32 1 = 2 → q.state = .halted → virtWrite (viaPacket d q.owner) (updQueue s k (fun y =>
        { y with ri := q.wl, covers := y.covers.filter (fun z => decide (q.wl < z.1)) })) q.ridx.toNat (toBytes 8 q.wl) = (u, .ok ()) →
      actWrite s k 0x40 w = updQueue u k (fun y => { y with state := .idle, stalled := false, covers := [] })) ∧
    -- dispatch
    (open_ → q.state = .active → q.inflight.any (fun y => y.b) = true →
      exec (.packetDispatch k) s = .next (updQueue s k (fun y => { y with state := .hold }))) ∧
    (open_ → q.state = .active → q.inflight.any (fun y => y.b) = false → 16 ≤ q.inflight.length → exec (.packetDispatch k) s = .next s) ∧
    (takes → readPacket s d q = (u, .short n) → exec (.packetDispatch k) s = .next (updQueue u k (fun y => { y with state := .waitslots, need := n }))) ∧
    (takes → readPacket s d q = (u, .fault e) → exec (.packetDispatch k) s
      = .next (updQueue (accessNotice u d q e) k (fun y => { y with stalled := true }))) ∧
    (takes → reads →
      (hdrType h = 0 → hdrOk h = true → exec (.packetDispatch k) s = .next (next (gone u))) ∧
      (hdrType h ≠ 1 → (hdrOk h && smallPktOk (bs.headD [])) = false →
        exec (.packetDispatch k) s = .next (next (completePacket (gone u) d q' (bs.headD []) 0x89))) ∧
      (hdrType h = 3 → hdrOk h = true → smallPktOk (bs.headD []) = true → virtRmw (viaPacket d q'.owner) (gone u) (at_ (bs.headD []) 8 8)
          (signalOp (at_ (bs.headD []) 0x18 1) (BitVec.ofNat 64 (at_ (bs.headD []) 0x10 8))) = (x, .ok ()) →
        exec (.packetDispatch k) s = .next (next x)) ∧
      (hdrType h = 2 → hdrOk h = true → smallPktOk (bs.headD []) = true → at_ (bs.headD []) 0x38 1 = 0 →
        exec (.packetDispatch k) s = .next (next (signalPacket (gone u) d q'.owner 0 (pktSignal (bs.headD [])) 0 q'.base))) ∧
      (hdrType h = 2 → hdrOk h = true → smallPktOk (bs.headD []) = true → at_ (bs.headD []) 0x38 1 = n + 1 → ∃ y,
        exec (.packetDispatch k) s = .next (next (updQueue (gone u) k (fun z => { z with inflight := z.inflight ++ [y] }))) ∧
        y.typ = 2 ∧ y.at_ = q'.ri ∧ y.watch = (List.range (n + 1)).map (fun j => (BitVec.ofNat 64 (at_ (bs.headD []) (8 + 8 * j) 8), false))) ∧
      (hdrType h = 1 → launchFate u d q' pk (governedBySubmit q' bs.length) = (x, .reject n) →
        exec (.packetDispatch k) s = .next (next (completePacket (writeRi x k (q'.ri + bs.length)) d q' (bs.headD []) n))) ∧
      (hdrType h = 1 → launchFate u d q' pk (governedBySubmit q' bs.length) = (x, .full) → exec (.packetDispatch k) s = .next x) ∧
      (hdrType h = 1 → launchFate u d q' pk (governedBySubmit q' bs.length) = (x, .accept l) → ∃ y,
        exec (.packetDispatch k) s = .next (updQueue (addLaunch (writeRi x k (q'.ri + bs.length)) l) k
          (fun z => afterDispatch { z with inflight := z.inflight ++ [y] })) ∧ y.typ = 1 ∧ y.tag = l.tag ∧ y.signal = l.signal)) ∧
    (open_ → q.state = .aborted → reads → exec (.packetDispatch k) s
      = .next (completePacket (writeRi u k (q.ri + bs.length)) d q (bs.headD []) 0x8B)) ∧
    ((afterDispatch q).state = if q.ri = q.wl then .idle else if q.inflight.any (fun y => y.b) then .hold else .active) ∧
    -- a packet that completes at once, and a barrier that fails
    (let head := bs.headD [];
      (hdrType h ≠ 1 → completePacket s d q head n
        = signalPacket s d q.owner 0 (if hdrType h = 2 then aligned (at_ head 0x30 8) else 0) n q.base) ∧
      (hdrType h = 1 → completePacket s d q head n = signalPacket (notice s d q.owner
          { kind := 1, tag := 0, status := n, base := q.base, rest := recordRest { Launch.zero with status := some n } 0 })
        d q.owner 0 (aligned (at_ head 0x28 8)) n q.base)) ∧
    (let t := signalPacket s d q.owner 0 p.signal 0x8B q.base
      let z := queueAt t k
      failBarrier s k p = notice (updQueue t k (fun y => { y with inflight := y.inflight.filter (fun y => y.at_ != p.at_), state := .aborted }))
        d z.owner { kind := 3, tag := 0, status := 0x8B, base := z.base, rest := z.ri + z.wl * 2 ^ 64 + slotVa q p.at_ * 2 ^ 128 }) ∧
    -- a barrier's signal
    (q.inflight.find? (fun y => y.at_ == pkt && y.typ == 2) = some p → p.watch[i]? = some (a, seen) →
      let watch := p.watch.set i (a, true)
      let now := fun (wt : List (Word × Bool)) => updQueue u k (fun y =>
        { y with inflight := y.inflight.map (fun z => if z.at_ == pkt && z.typ == 2 then { z with watch := wt } else z) })
      (virtRead (viaPacket d q.owner) s a.toNat 8 = (u, .ok b) →
        let val : Word := BitVec.ofNat 64 (ofBytes b)
        (val.toInt < 0 → exec (.barrierSignalRead k pkt i) s = .next (failBarrier u k p)) ∧
        (val = 0 → watch.all (fun y => y.2) = false → exec (.barrierSignalRead k pkt i) s = .next (now watch)) ∧
        (val = 0 → watch.all (fun y => y.2) = true →
          exec (.barrierSignalRead k pkt i) s = .next (finishPacket (signalPacket (now watch) d q.owner 0 p.signal 0 q.base) k pkt)) ∧
        (0 < val.toInt → p.watch.all (fun y => y.2) = false → exec (.barrierSignalRead k pkt i) s = .next (now p.watch))) ∧
      (virtRead (viaPacket d q.owner) s a.toNat 8 = (u, .error e) →
        exec (.barrierSignalRead k pkt i) s = .next (failBarrier (accessNotice u d q e) k p))) ∧
    -- signals (R317)
    (signalPacket s d n pkt 0 i v = s) ∧
    (a ≠ 0 → virtRmw { die := d, ident := idDealer d, ctx := n, tag := 0 } s a.toNat
        (fun y => if i = 0 then y - 1 else BitVec.ofInt 64 (-(i : Int))) = (u, .ok ()) → signalPacket s d n pkt a i v = u)

/-! ## Launches -/

/-- R13, R15, R38, R40, R44, R183, R184, R192, R197, R317, R320, R321, R326, R327, R329, R337, R342, R344, R349, R381: the checks of a LAUNCH in order
and the demand test, the core set of a waiting launch and whom it asks for cores, placement of a new or saved launch in its two steps, with its
stages, shoe and safe points, the entry state of its groups, which core is free, pre-emption and the swap of a saved workgroup, budgets, the end of a
launch whose workgroups have retired, that the cycles of a core are charged to one launch, and completion. That the masks m1 to m7 are 0 at entry is the model's choice
(notes/assumptions/7.md, DESIGN CHOICE), and so are the taking up of one launch at a time, the launches that a saved one asks, and the engine commands of a workgroup without a saved
group, which finish on their core (notes/assumptions/14.md, DEDUCED), and the lowest-numbered kind of several budgets below 0, an overdrawn budget in the
demand test, the fields of a record that no group has caused, and the launch that pays for a save (notes/assumptions/14.md, DESIGN CHOICE). -/
def Obligations.LaunchEvents : Prop :=
  ∀ (s u : State) (p tag c kind : Nat) (l : Launch) (r : List Launch) (v : Via) (k : LaunchPkt) (x : Selected) (e : Nat) (g : Group) (pt : Word),
    let free := (partCores s p).filter (coreFree s)
    let L := s.launch tag
    let all64 := BitVec.allOnes 64
    let n := newGroup l
    let part := at_ k.b0 5 1
    let cnt := at_ k.b0 2 2
    let ok := bits (rootsEntry s v.ctx) 0 1 = 1
    let formed := launchFormOk k = true
    let fits := part < 16 ∧ partEntry s part ≠ 0 ∧ bits (ctxPmask s v.ctx) part 1 = 1 ∧ cnt ≠ 0 ∧ cnt ≤ (partCores s part).length
    let sel := fun (y : State) (z : Res Selected) =>
      selectKernel s v (BitVec.ofNat 64 (at_ k.b0 8 8)) (at_ k.b0 6 2) (at_ k.b0 4 1) = (y, z)
    -- the launch has left its cores, and a group of it is saved
    let left := fun (t : State) => (∀ y ∈ L.cores, (t.core y).tag ≠ tag ∨ wgRetired t tag y = true) ∧ ∃ z ∈ launchGroups L, isSaved (s.group z) = true
    let ovr := fun (t : State) => t.updLaunch tag (fun l => { l with enforced := false, deadline := 0 })
    -- the demand test of R321
    let due := at_ k.b0 0x18 8
    let all : List Demand := (partLaunches s part).map (fun y => { r := y.budget.headD 0, c := y.c, deadline := y.deadline, npre := y.npre })
      ++ [{ r := (pktBudget k).headD 0, c := cnt, deadline := due, npre := hdrNpre k.hdr }]
    let finite := all.filter (fun y => y.deadline != 0)
    let sum := fun (ys : List Demand) => (ys.map Demand.r).sum
    let later := fun (d : Nat) => sum (all.filter (fun y => y.npre && (y.deadline == 0 || decide (d < y.deadline))))
    let room := fun (n d : Nat) => (n : Int) * clk2 s.clkCur * ((d : Int) - s.dtime)
    let passes := fun (blocking : Bool) => (∀ y ∈ finite, 2 * y.r ≤ room y.c y.deadline) ∧ ∀ y ∈ finite,
      2 * (sum (finite.filter (fun z => decide (z.deadline ≤ y.deadline))) + if blocking then later y.deadline else 0)
        ≤ room (partCores s part).length y.deadline
    -- the core set of R327
    let fixed := l.reserved ++ free.filter (fun y => !l.reserved.contains y)
    let going := (partLaunches s p).flatMap (fun y => if y.state == .running && y.asked then heldCores s y else [])
    let held := fixed ++ going.filter (fun y => !fixed.contains y)
    let asks := (coreSet s p l).2
    let open_ := (askable s p l).filter (fun y => !y.asked)
    let total := fun (ys : List Launch) => (ys.map (fun y => (heldCores s y).length)).sum
    -- the checks of R320 in their order
    (∀ b, (¬ok ∨ b = false) → launchChecks s v k b = (s, .error 0x8A)) ∧
    (ok → ¬formed → launchChecks s v k true = (s, .error 0x89)) ∧
    (ok → formed → ¬fits → launchChecks s v k true = (s, .error 0x84)) ∧
    (ok → formed → fits → sel u (.error e) → launchChecks s v k true = (u, .error e)) ∧
    (ok → formed → fits → sel u (.ok x) →
      (cnt < x.kernel.stages → launchChecks s v k true = (u, .error 0x84)) ∧
      (x.kernel.stages ≤ cnt → poolOk x.kernel = false → launchChecks s v k true = (u, .error 0x85)) ∧
      (x.kernel.stages ≤ cnt → poolOk x.kernel = true → at_ k.b0 0x20 4 = 0 → launchChecks s v k true = (u, .error 0x83)) ∧
      (x.kernel.stages ≤ cnt → poolOk x.kernel = true → at_ k.b0 0x20 4 ≠ 0 →
        launchChecks s v k true = (u, .ok { sel := x, stages := x.kernel.stages }))) ∧
    (at_ k.b0 0x18 8 ≠ 0 → at_ k.b0 0x18 8 ≤ s.dtime → admitCode s k = 0x82) ∧
    (at_ k.b0 0x18 8 = 0 → hdrNpre k.hdr = false → admitCode s k = 0) ∧
    ((due = 0 ∨ s.dtime < due) → (due ≠ 0 ∨ hdrNpre k.hdr = true) →
      (passes true → admitCode s k = 0) ∧
      (¬passes true → due = 0 ∨ passes false → admitCode s k = 0x87) ∧
      (¬passes true → due ≠ 0 → ¬passes false → admitCode s k = 0x81)) ∧
    (∀ a b, servedBefore a b = true ↔
      let d := fun (y : Launch) => if y.deadline = 0 then 2 ^ 64 else y.deadline
      d a < d b ∨ (d a = d b ∧ (b.prio < a.prio ∨ (a.prio = b.prio ∧ a.order < b.order)))) ∧
    (∀ y, y ∈ askable s p l ↔ y ∈ s.launches ∧ y.svc = false ∧ y.part = p ∧ y.state = .running ∧ y.npre = false ∧ l.deadline ≠ 0 ∧
      (y.deadline = 0 ∨ l.deadline < y.deadline) ∧ heldCores s y ≠ []) ∧
    (∀ y, c ∈ heldCores s y ↔ c ∈ y.cores ∧ (s.core c).tag = y.tag ∧ coreFree s c = false) ∧
    (coreFree s c = true ↔ (s.core c).tag = 0 ∨
      let y := s.launch (s.core c).tag
      y.state ≠ .admitted ∧ (∀ b, y.state ≠ .placing b) ∧ (s.wg (s.core c).tag c).retired = true ∧ ∀ z ∈ groupsOf y c, (s.group z).status = .retired) ∧
    ((askable s p l).Pairwise (fun a b => servedBefore a b = false)) ∧
    ((coreSet s p l).1 = (held ++ (asks.flatMap (heldCores s)).filter (fun y => !held.contains y)).take l.c) ∧
    (asks <+: open_ ∧ (asks ≠ open_ → l.c ≤ held.length + total asks) ∧
      ∀ ys y, asks = ys ++ [y] → held.length + total ys < l.c) ∧
    (let t := requestCores s p l
      let whom := if l.state = .saved then open_.filter (fun y => (heldCores s y).any (fun c => l.cores.contains c)) else asks
      ((s.launch l.tag).tag = l.tag → l.tag ≠ 0 → (t.launch l.tag).reserved = if l.state = .saved then l.cores else (coreSet s p l).1) ∧
      (∀ y ∈ whom, s.launch y.tag = y → y.tag ≠ 0 → (t.launch y.tag).asked = true ∧ (t.launch y.tag).askedAt = s.dtime ∧
        (t.launch y.tag).askedFor = l.tag) ∧
      ∀ n, (∀ y ∈ whom, y.tag ≠ n) → (t.launch n).asked = (s.launch n).asked) ∧
    -- entry state
    (n.status = .active ∧ n.root.pc = l.entry ∧ n.root.mask = all64 ∧ n.root.fmt = 0x88 ∧ n.flags = 0 ∧ n.helper = 0 ∧ n.gone = 0 ∧
      n.split = [] ∧ n.face = [] ∧ n.loops = [] ∧ n.h = false ∧ n.svc = l.svc ∧ n.spord = 0xFFFFFFFF ∧ n.ck.ckv = l.idem ∧
      (l.idem = true → n.ck.ckpc = l.entry ∧ n.ck.mask = all64) ∧ (∀ j, readGuard n j = .unres) ∧ (∀ j t, readV n j t = 0) ∧
      (∀ j, j ≠ 0 → readM n j = 0) ∧ readS n 1 = l.args ∧ readS n 61 = BitVec.ofNat 64 (spBytes l) ∧
      ∀ j, j ≠ 1 → j ≠ 61 → readS n j = 0) ∧
    -- the stage-0 shoe (R13, R40) and the stages (R38)
    ((launchOf s v.ctx pt k { sel := x, stages := x.kernel.stages }).shoes = [(0, { fifo := [], given := 0, ext := (List.range 4).map (fun i =>
      if at_ k.b0 (0x30 + 4 * i) 4 ≠ 0 then at_ k.b0 (0x30 + 4 * i) 4 else x.kernel.shoe.getD i 0) })]) ∧
    (stageOf l c = (l.cores.filter (fun y => decide (y < c))).length * l.s / l.c) ∧
    -- placement
    (let up := s.clkPend = false ∧ s.bringup = 3
    let idle := ∀ y ∈ partLaunches s p, y.state ≠ .placing true ∧ y.state ≠ .placing false
    let w := dropReserved s r
    (¬up → exec (.launchPlacement p) s = .next s) ∧
    (up → idle → unplaced s p = [] → exec (.launchPlacement p) s = .next s) ∧
    (up → (partLaunches s p).find? (fun y => y.state == .placing true || y.state == .placing false) = some l →
      exec (.launchPlacement p) s = .next (loadLaunch s l.tag)) ∧
    (up → idle → unplaced s p = l :: r →
      (l.state = .admitted → l.reserved = [] → l.c ≤ free.length → exec (.launchPlacement p) s = .next (placeNew w l (free.take l.c))) ∧
      (l.state = .admitted → fixed.length ≥ l.c → (∀ y ∈ fixed.take l.c, coreFree s y = true) →
        exec (.launchPlacement p) s = .next (placeNew w l (sortBy (fun a b => decide (a ≤ b)) (fixed.take l.c)))) ∧
      (l.state = .saved → (∀ y ∈ l.cores, coreFree s y = true) → exec (.launchPlacement p) s = .next (startPlacing w l true)) ∧
      (tryPlace w p l [] = none → requestCores w p l ≠ w → exec (.launchPlacement p) s = .next (requestCores w p l)) ∧
      (tryPlace w p l [] = none → requestCores w p l = w → exec (.launchPlacement p) s
        = .next ((r.findSome? (fun y => tryPlace w p { y with reserved := [] } (w.launch l.tag).reserved)).getD w)))) ∧
    -- the set of a waiting launch starts with the free cores (R327)
    (l.reserved = [] → (coreSet s p l).1.take free.length = free.take l.c ∧ (coreSet s p l).1.length ≤ l.c) ∧
    -- its cores stop for it, then they are loaded
    (∀ b, (s.launch l.tag).tag = l.tag → l.tag ≠ 0 → c ∈ l.cores →
      ((startPlacing s l b).core c).tag = l.tag ∧ ((startPlacing s l b).core c).active = [] ∧ ((startPlacing s l b).launch l.tag).state = .placing b) ∧
    (∀ pts, L.tag = tag → tag ≠ 0 → L.state = .placing false → L.groups ≤ 32 → (∀ y ∈ L.cores, y < 512) → c ∈ L.cores →
      readPoints s { die := dealerOf s L, ident := idDealer (dealerOf s L), ctx := L.ctx, tag := 0 } L.sp L.spCount = (u, pts) →
      (u.launch tag).tag = tag →
      let t := loadLaunch s tag
      (t.core c).tag = tag ∧ (t.wg tag c).stage = stageOf L c ∧ (t.launch tag).state = .running ∧ (t.launch tag).points = pts ∧
      ∀ j, j < L.groups → t.group { tag := tag, core := c, grp := j } = newGroup L) ∧
    -- pre-emption
    (L.tag ≠ 0 → L.asked = true → L.state = .running → s.dtime < L.askedAt + 1000 * ctxPolite s L.ctx →
      exec (.politeWindowExpiry tag) s = .next s) ∧
    (L.tag ≠ 0 → L.asked = true → L.state = .running → L.askedAt + 1000 * ctxPolite s L.ctx ≤ s.dtime →
      let y := (launchGroups L).foldl evictGroup s
      let left := (launchGroups L).filter (fun g => (y.group g).status == .active)
      (left = [] → exec (.politeWindowExpiry tag) s = .next y) ∧
      ((∃ z ∈ left, (y.group z).ck.ckv = false) → exec (.politeWindowExpiry tag) s = .next (terminate y tag 0x3F none 0)) ∧
      ((∀ z ∈ left, (y.group z).ck.ckv = true) → exec (.politeWindowExpiry tag) s
        = .next (left.foldl finishCut (left.foldl (fun s g => s.updGroup g (fun x => { x with cutback := true })) y)))) ∧
    ((cutBack g).root = { Path.zero with mask := g.ck.mask &&& ~~~g.gone, pc := g.ck.ckpc, fmt := g.ck.fmt } ∧ (cutBack g).split = [] ∧
      (cutBack g).face = [] ∧ (cutBack g).loops = g.ck.loops ∧ (cutBack g).flags = g.ck.flags ∧ (cutBack g).guards = g.ck.guards ∧
      (cutBack g).h = false ∧ (cutBack g).sregs = g.sregs ∧ (cutBack g).vregs = g.vregs ∧ (cutBack g).mregs = g.mregs) ∧
    (L.tag ≠ 0 → L.asked = true → L.state = .running → (s.core c).tag = tag → (s.wg tag c).retired = false → wgSaved s L c = true →
      mayLeave s L c = true → ∃ t, exec (.shadowSwap tag c) s = .next t ∧
      (t.core c).tag = 0 ∧ (t.core c).active = [] ∧ t.groups = s.groups ∧ t.mem = s.mem ∧
      ((t.launch tag).state = .saved ↔ left t)) ∧
    -- budgets
    ((List.range 4).find? (fun j => decide (L.budget.getD j 0 < 0)) = none → exec (.budgetOverrun tag) s = .next s) ∧
    ((List.range 4).find? (fun j => decide (L.budget.getD j 0 < 0)) = some kind → L.tag ≠ 0 → L.enforced = true → L.state ≠ .completing →
      (L.handler.isSome = true → groupsMade L = false → exec (.budgetOverrun tag) s = .next ((ovr s).updLaunch tag (fun l =>
        { l with owed := l.owed ++ [{ code := 0x20, arg := kind, addr := 0 }] }))) ∧
      (L.handler.isSome = true → groupsMade L = true → exec (.budgetOverrun tag) s
        = .next ((launchGroups L).foldl (fun s g => holdEvent s g { code := 0x20, arg := kind, addr := 0 }) (ovr s))) ∧
      (L.handler = none → ctxOvr s L.ctx = true → exec (.budgetOverrun tag) s = .next (ovr s)) ∧
      (L.handler = none → ctxOvr s L.ctx = false → exec (.budgetOverrun tag) s = .next (terminate (ovr s) tag 0x20 none 0))) ∧
    (L.tag ≠ 0 → ∃ t, exec (.budgetReport tag) s = .next t ∧ t = { s with groups := t.groups } ∧
      ∀ z ∈ launchGroups L, (t.group z).budleft = (List.range 4).map (fun j =>
        if j = 3 then (L.budget.getD j 0).toNat else (L.budget.getD j 0).toNat / 1024)) ∧
    -- the end of a launch whose workgroups have retired, and completion
    (L.tag = tag → tag ≠ 0 → L.state = .running → c ∈ L.cores → wgDrained s tag c = true → (s.wg tag c).retired = false →
      let t := retireWg s tag c
      (t.wg tag c).retired = true ∧ t.mem = s.mem ∧ t.groups = s.groups ∧ (t.launch tag).status = L.status ∧
      ((∀ y ∈ L.cores, y ≠ c → (s.wg tag y).retired = true) → (t.launch tag).state = .completing) ∧
      ((∃ y ∈ L.cores, y ≠ c ∧ (s.wg tag y).retired = false) →
        (L.asked = true → left t → (t.launch tag).state = .saved) ∧ (L.asked = false ∨ ¬left t → (t.launch tag).state = .running))) ∧
    -- what a core's cycles are charged to (R328)
    ((s.launches.map Launch.tag).Nodup → (∀ a ∈ s.launches, a.tag ≠ 0) →
      (∀ a ∈ s.launches, ∀ b ∈ s.launches, c ∈ a.reserved → c ∈ b.reserved → a = b) →
      let charged := fun (y : Launch) => holdsWork s y c = true ∨ stopsFor s y c = true
      (∀ a ∈ s.launches, ∀ b ∈ s.launches, charged a → charged b → a = b) ∧
      ∀ y ∈ s.launches, (s.core c).tag = y.tag → savedHere s y c = true → ∃ a ∈ s.launches, charged a) ∧
    (L.state ≠ .completing → mayComplete s L = false) ∧
    (mayComplete s L = false → exec (.launchCompletion tag) s = .next s) ∧
    (mayComplete s L = true → writeDump s L = (u, pt) →
      let st := L.status.getD 0
      let d := dealerOf s L
      let rec_ : Notice := { kind := 1, tag := tag, status := st, base := L.queue, rest := recordRest { L with status := some st } pt }
      let w := signalPacket (notice u d L.ctx rec_) d L.ctx tag L.signal st L.queue
      ∃ t, exec (.launchCompletion tag) s = .next t ∧ t.mem = w.mem ∧ t.launches.map (fun y => { y with stopped := [], askedFor := 0 })
          = (w.launches.filter (fun y => y.tag != L.tag)).map (fun y => { y with stopped := [], askedFor := 0 }) ∧
        t.queues = w.queues.map (fun y => (y.1, packetDone y.2 (fun q => q.typ == 1 && q.tag == tag))) ∧
        ∀ y ∈ L.cores, (t.core y).tag ≠ tag)

/-! ## Registers, debugger and platform -/

/-- R193, R310, R348, R372, R374, R376, R377, R379, R381, R383, R384: an 8-byte write that the tables permit reaches its register and reads
back; a refused one has no effect; the registers with rules of their own; shootdown, minting, attestation and the control of service groups. That
Yarder 0 of a die (of die 0 for a quote) performs the firmware's services, at once and with its own identity, that a write of the wrong form
is ignored, and that the die's other Yarder resumes no group and ends no launch that stands stopped by `halt`, is the model's choice
(notes/assumptions/30.md, DEDUCED). -/
def Obligations.RegisterEvents : Prop :=
  ∀ (s u : State) (m : Master) (a die grp win p len ctx base : Nat) (v : Word) (data : List Byte) (r : List (Nat × Nat × Nat)),
    let out := at_ data 32 8
    let wa := dieBase die + 0x4000 + 256 * grp + 16 * win + 8
    let ta := atBase die (atselOf s die) + 0x4000 + 256 * grp + 16 * win
    let free := notifyReg s.part a = none ∧ block64 s m a = none ∧ svcDieAt s.part a = none
    let inWin := fun (x : Nat) => 0x200000000000 ≤ x ∧ x < 0x400000000000
    let svc := fun (t : State) (l : Launch) => t.launch (bits v.toNat 16 16) = l ∧ l.tag ≠ 0 ∧ l.svc = true ∧ bits v.toNat 2 14 = 0 ∧
      bits v.toNat 53 11 = 0 ∧ permitted t m (yctlBase die + 0x80) .w = true ∧ die < diesOf t.part ∧ m.ident = 0x600 + l.svcBy ∧ l.svcBy / 2 = die
    -- one register
    (inWin a → a % 8 = 0 → free → permitted s m a .w = true → exec (.registerWrite m a (toBytes 8 v.toNat)) s = .next (setReg8 s a v.toNat)) ∧
    (inWin a → free → permitted s m a .w = false → exec (.registerWrite m a data) s = .next s) ∧
    (regAt s.part a = .table a → reg8 (setReg8 s a v.toNat) a = v.toNat ∧
      (∀ x, x + 8 ≤ a ∨ a + 8 ≤ x → regLE (setReg8 s a v.toNat) x 8 = regLE s x 8) ∧ setReg8 s a v.toNat = { s with regs := (setReg8 s a v.toNat).regs }) ∧
    -- clock, power, partitions
    (permitted s m pkgBase .w = true →
      (4 ≤ v.toNat → exec (.clklockWrite m v) s = .next s) ∧
      (v.toNat < 4 → v.toNat = s.clkCur.toNat → s.clkPend = false → exec (.clklockWrite m v) s = .next s) ∧
      (v.toNat < 4 → v.toNat ≠ s.clkCur.toNat ∨ s.clkPend = true →
        exec (.clklockWrite m v) s = .next { s with clkSet := v.setWidth 2, clkPend := true })) ∧
    (reg8 s pkgBase = s.clkSet.toNat + if s.clkPend then 4 else 0) ∧
    (s.clkPend = false → exec .clockChange s = .next s) ∧
    (s.clkPend = true → s.clkSet = s.clkCur → exec .clockChange s = .next { s with clkPend := false }) ∧
    (s.clkPend = true → s.clkSet ≠ s.clkCur → exec .clockChange s
      = .next ((List.range 16).foldl retest { s with clkPend := false, clkCur := s.clkSet })) ∧
    (s.clkPend = true → s.clkSet ≠ s.clkCur → s.launches = [] → exec .clockChange s = .next { s with clkPend := false, clkCur := s.clkSet }) ∧
    (die < diesOf s.part → permitted s m (dieBase die + 0x10000) .w = true →
      ((∃ c q, c < 4 ∧ q < 16 ∧ v.getLsbD c = true ∧ bits (partEntry s q) (4 * die + c) 1 = 1) → exec (.pwrgateWrite m die v) s = .next s) ∧
      ((∀ c q, c < 4 → q < 16 → v.getLsbD c = true → bits (partEntry s q) (4 * die + c) 1 = 0) → ∃ t,
        exec (.pwrgateWrite m die v) s = .next t ∧ t = { s with pwrgate := t.pwrgate } ∧ sget 0 t.pwrgate die = v.setWidth 4)) ∧
    (p < 16 → permitted s m (partBase p) .w = true →
      (partIgnored s p v.toNat = true → exec (.partitionWrite m p v) s = .next s) ∧
      (partIgnored s p v.toNat = false → ∃ t, exec (.partitionWrite m p v) s = .next t ∧ t = { s with regs := t.regs } ∧
        ∀ q, q < 16 → partEntry t q = if q = p then v.toNat else partEntry s q)) ∧
    (partIgnored s p v.toNat = true ↔ partLaunches s p ≠ [] ∨ ∃ k, k < 64 ∧ v.getLsbD k = true ∧
      (clusterOff s k = true ∨ ∃ q, q < 16 ∧ q ≠ p ∧ bits (partEntry s q) k 1 = 1)) ∧
    -- an access window takes effect whole
    (die < diesOf s.part → grp < 64 → win < 16 → hasTarget s.part die (atselOf s die) = true → permitted s m wa .w = true → ∃ t,
      exec (.accessWindowWrite m die grp win v) s = .next t ∧ t = { s with atab := t.atab, atLow := t.atLow } ∧
      readLE t.atab (ta + 8) 8 = v.toNat ∧ readLE t.atab ta 8 = (readLE s.atab ta 8 ^^^ (sget 0 s.atLow ta).toNat) % 2 ^ 64 ∧
      ∀ x, x < ta ∨ ta + 16 ≤ x → readByte t.atab x = readByte s.atab x) ∧
    -- shootdown
    (data.length = 64 → permitted s m (pkgBase + 0x40) .w = true → exec (.shootdownRequest m data) s
      = .next { s with sdreqs := s.sdreqs ++ [(at_ data 0 2, at_ data 8 8, at_ data 16 8)] }) ∧
    (s.sdreqs = [] → exec .shootdownCompletion s = .next s) ∧
    (s.sdreqs = (ctx, base, len) :: r →
      (shotPending s ctx base len = true → exec .shootdownCompletion s = .next s) ∧
      (shotPending s ctx base len = false → ∃ t, exec .shootdownCompletion s = .next t ∧
        t = { s with sdreqs := r, sdstat := s.sdstat + 1, tlb := t.tlb, cores := t.cores } ∧
        (∀ x, x ∈ t.tlb ↔ x ∈ s.tlb ∧ ¬(x.ctx = ctx ∧ len ≠ 0 ∧ overlaps x.vbase x.bytes base len = true)) ∧
        ∀ c ∈ t.cores, ∀ x ∈ c.2.icache, ¬(x.ctx = ctx ∧ shotAddr s ctx base len (x.line * 128) = true))) ∧
    -- minting, attestation, service mode
    (data.length = 64 → permitted s m (pkgBase + 0xC0) .w = true → 1 ≤ s.bringup → s.bringup ≤ 3 → out % 64 = 0 →
      let body := quoteBody s (data.take 32)
      body.length = 380 ∧ body.take 32 = data.take 32 ∧ (body.drop 0x20).take 64 = fit 64 (sha512 s.firmware) ∧ at_ body 0x60 8 = (capsOf s.part).toNat ∧ at_ body 0x68 1 = s.part.stepping.toNat ∧
      (body.drop 0x70).take 64 = fit 64 Config.fusedDigest ∧ at_ body 0xB0 8 = s.dtime % 2 ^ 64 ∧ at_ body 0xB8 4 = 1 ∧ at_ body 0xC0 1 = 4 ∧
      (body.drop 0xC0).take 133 = ecdsaPublic Config.attestPrivate ∧
      (let h := sha512 body;
      physWriteAll s { ident := 0x600, ctx := none } out (body ++ ecdsaSign Config.attestPrivate (Config.attestNonce h) h) = (u, .ok ()) →
        exec (.attestationRequest m data) s = .next u)) ∧
    (die < diesOf s.part → data.length = 64 → permitted s m (yctlBase die + 0x40) .w = true → 1 ≤ s.bringup → s.bringup ≤ 3 → out % 64 = 0 →
      let cap := at_ data 0 20
      let w : Master := { ident := 0x600 + 2 * die, ctx := none }
      (mintOk s m cap = true → physWriteAll s w out (toBytes 32 (cap + (Config.sealMac (BitVec.ofNat 160 cap)).toNat * 2 ^ 160) ++ toBytes 8 0
        ++ toBytes 24 0) = (u, .ok ()) → exec (.mintreq m die data) s = .next u) ∧
      (mintOk s m cap = false → physWriteAll s w out (toBytes 32 0 ++ toBytes 8 0x8A ++ toBytes 24 0) = (u, .ok ()) →
        exec (.mintreq m die data) s = .next u)) ∧
    (∀ l, svc s l → (bits v.toNat 0 2 = 2 → exec (.svcEnd m die v) s = .next (terminate s l.tag 0x3F none 0)) ∧
      (bits v.toNat 0 2 = 1 → let g : GId := { tag := l.tag, core := bits v.toNat 32 16, grp := bits v.toNat 48 5 }
        g.core ∈ l.cores → (s.group g).status = .halted → (s.group g).byHalt = true → ∃ t, exec (.svcResume m die v) s = .next t ∧
          t.group g = { s.group g with status := .active } ∧ t.mem = s.mem ∧ t.launches = s.launches)) ∧
    (let l := s.launch (bits v.toNat 16 16);
      die < diesOf s.part → permitted s m (yctlBase die + 0x80) .w = true →
      (m.ident ≠ 0x600 + 2 * die → m.ident ≠ 0x600 + 2 * die + 1 → exec (.svcResume m die v) s = .next s ∧ exec (.svcEnd m die v) s = .next s) ∧
      (m.ident = 0x600 + 2 * die ∨ m.ident = 0x600 + 2 * die + 1 → m.ident ≠ 0x600 + l.svcBy →
        exec (.svcResume m die v) s = .next s ∧
        (haltedBySelf s l = true → exec (.svcEnd m die v) s = .next s) ∧
        (haltedBySelf s l = false → l.tag ≠ 0 → l.svc = true → bits v.toNat 2 14 = 0 → bits v.toNat 53 11 = 0 → bits v.toNat 0 2 = 2 →
          exec (.svcEnd m die v) s = .next (terminate s l.tag 0x3F none 0))) ∧
      (haltedBySelf s l = true ↔ ∃ g ∈ launchGroups l, (s.group g).byHalt = true ∧
        ((s.group g).status = .halted ∨ (s.group g).status = .saved true)))

/-- R349 to R358: halting and resuming a launch or a group, the state and pool windows of a halted group, the causes of a halt, the halt before a
safe point, and the sampler's count, tag and record. A word at which a resumed path still stands neither ends a step nor meets again the breakpoint
it halted at, the tag counts the words of a core as they issue, and a record that faults is dropped: the model's readings (notes/assumptions/24.md,
DEDUCED, with the marks of a record that is cut off and of one whose word still waits; the LFSR's taps are notes/assumptions/19.md, DESIGN CHOICE). -/
def Obligations.DebugEvents : Prop :=
  ∀ (s u : State) (m : Master) (ctx off core gran k n : Nat) (v w : Word) (g : GId) (l : Launch) (f : Fetched) (t0 : SampleTimes) (r : TagRec)
    (x : Group) (img : List Byte) (sk : Skip),
    let cmd := fun (c : Nat) => bits v.toNat 0 2 = c ∧ dbgcmdOk v.toNat = true ∧ ctx < 65536 ∧ permitted s m (dbgBase ctx + 8) .w = true ∧
      dbgLaunch s ctx v.toNat = some l
    let sstep := regLE s (dbgBase ctx) 8 / 2 % 2 == 1
    let back := fun (y : Group) => { y with status := .active, stepReq := sstep }
    let win := fun (o : Nat) => off % 8 = 0 ∧ off + 8 ≤ 0x10000 ∧ ctx < 65536 ∧ permitted s m (dbgBase ctx + o + off) .w = true
    let one : GId := { tag := l.tag, core := bits v.toNat 32 16, grp := bits v.toNat 48 5 }
    let lr := s.launch r.gid.tag
    let ring := dbgBase lr.ctx
    let idx := regLE s (ring + 0x110) 8
    (cmd 1 → ∃ t, exec (.debugHaltLaunch m ctx v) s = .next t ∧ t = { s with groups := t.groups } ∧ ∀ z ∈ launchGroups l, t.group z
      = if groupDone (s.group z) = true ∨ (s.group z).status = .halted then s.group z else { s.group z with haltReq := true }) ∧
    (cmd 2 → ∃ t, exec (.debugResumeLaunch m ctx v) s = .next t ∧ t.mem = s.mem ∧ t.launches = s.launches ∧
      ∀ z ∈ launchGroups l, t.group z = if (s.group z).status = .halted ∧ (s.group z).byHalt = false then back (s.group z) else s.group z) ∧
    (cmd 3 → one.core ∈ l.cores → one.grp < l.groups → ∃ t, exec (.debugResumeGroup m ctx v) s = .next t ∧ t.mem = s.mem ∧
      t.group one = if (s.group one).status = .halted ∧ (s.group one).byHalt = false then back (s.group one) else s.group one) ∧
    (dbgcmdOk v.toNat = false → ctx < 65536 → permitted s m (dbgBase ctx + 8) .w = true → exec (.debugHaltLaunch m ctx v) s = .next s ∧
      exec (.debugResumeLaunch m ctx v) s = .next s ∧ exec (.debugResumeGroup m ctx v) s = .next s) ∧
    -- the windows
    (win 0x10000 → gstateGroup s ctx = some g → exec (.gstateWrite m ctx off (toBytes 8 v.toNat)) s
      = .next (s.updGroup g (fun y => fromImage y (s.launch g.tag).vregs (patch (groupImage s g) off (toBytes 8 v.toNat))))) ∧
    (win 0x10000 → gstateGroup s ctx = none → exec (.gstateWrite m ctx off (toBytes 8 v.toNat)) s = .next s) ∧
    (off + 8 ≤ img.length → imgWord (patch img off (toBytes 8 v.toNat)) off = v) ∧
    (let y := fromImage x n img;
      y = { x with sregs := y.sregs, mregs := y.mregs, vregs := y.vregs, guards := y.guards, flags := y.flags, elcause := y.elcause
                   elcode := y.elcode, xpc := y.xpc, faultmask := y.faultmask, root := { x.root with fmt := y.root.fmt } } ∧
      (∀ j : SReg, readS y j = if j = 0 then 0 else imgWord img (0x240 + 8 * j.toNat)) ∧
      (∀ j : MReg, readM y j = if j = 0 then BitVec.allOnes 64 else imgWord img (0x440 + 8 * j.toNat)) ∧
      (∀ (j : VReg) (t : Nat), t < 64 → n ≤ 128 →
        readV y j t = if j.toNat < n then BitVec.ofNat 32 (imgNat img (0x800 + 256 * j.toNat + 4 * t) 4) else readV x j t) ∧
      y.flags = imgWord img 0x490 &&& 63 ∧ y.xpc = (if x.h then imgWord img 0x10 else x.xpc) ∧
      y.faultmask = if x.h then imgWord img 0x20 else x.faultmask) ∧
    (win 0x20000 → gpoolSel s ctx = some (n, core, true, gran) → ∃ t, exec (.gpoolWrite m ctx off (toBytes 8 v.toNat)) s = .next t ∧
      t = { s with wgs := t.wgs } ∧ (t.wg n core).acc = (s.wg n core).acc ∧ (∀ i, i < 8 → readByte (t.wg n core).scratch (65536 * gran + off + i)
        = if poolBusy s n core true gran (off + i) then readByte (s.wg n core).scratch (65536 * gran + off + i) else v.extractLsb' (8 * i) 8) ∧
      ∀ b, b < 65536 * gran + off ∨ 65536 * gran + off + 8 ≤ b → readByte (t.wg n core).scratch b = readByte (s.wg n core).scratch b) ∧
    (win 0x20000 → gpoolSel s ctx = none → exec (.gpoolWrite m ctx off (toBytes 8 v.toNat)) s = .next s) ∧
    (poolBusy s n core true gran off = true ↔ (∃ y ∈ (s.wg n core).locks, y.loc = true ∧ y.lo ≤ (65536 * gran + off : Nat) ∧ (65536 * gran + off : Nat) ≤ y.hi) ∨
      ∃ z ∈ (s.launch n).cores, ∃ y ∈ (s.wg n z).copyq, copyNames core (65536 * gran + off) y = true) ∧
    -- a safe point
    (let G := s.group g
    let L := s.launch g.tag
    (breakpointAt s L n = true ↔ regLE s (dbgBase L.ctx + 0xC0) 8 = L.deckId.toNat ∧ ∃ i, i < 16 ∧
      (let b := regLE s (dbgBase L.ctx + 0x40 + 8 * i) 8; b / 2 ^ 63 % 2 = 1 ∧ b % 2 ^ 32 = n)) ∧
    (sk ∈ resuming G ↔ sk ∈ G.skip ∧ sk.path ∈ pathKeys G ∧ (pathOf G sk.path).pc = sk.word) ∧
    (haltCause s g k n = true ↔ G.haltReq = true ∨ (G.stepReq = true ∧ resuming G = []) ∨
      (breakpointAt s L n = true ∧ ∀ y ∈ resuming G, ¬(y.path = k ∧ y.points = true)))) ∧
    ((readyPaths s g).contains k = true → (pathOf (s.group g) k).pc = w → fetchWord s g w = (u, .ok f) → stopBit f = true →
      ordinalAt (u.launch g.tag) w = some n →
      (haltCause u g k n = false → exec (.safePointHalt g k) s = .next u) ∧
      (haltCause u g k n = true → (u.group g).region = none → ∃ t, exec (.safePointHalt g k) s = .next t ∧ t.mem = u.mem ∧
        t.group g = { u.group g with status := .halted, haltReq := false, stepReq := false, byHalt := false, spord := BitVec.ofNat 32 n
                                     skip := (u.group g).skip.filter (fun y => y.path != k) ++ [{ path := k, word := w, points := true }] })) ∧
    -- the sampler
    (let c := s.core g.core
    let t := sampleWord s g k w f
    (sampling s g.core = false ∨ c.sample ≠ none ∨ c.due ≠ none → t = sampleLeft s g k) ∧
    ((∀ q, c.sample = some q ∨ c.due = some q → ¬(q.gid = g ∧ q.path = k ∧ q.id1 ≠ 0)) → sampleLeft s g k = s) ∧
    (sampling s g.core = true → c.sample = none → c.due = none →
      (1 < c.countdown → t = s.updCore g.core (fun y => { y with countdown := c.countdown - 1 })) ∧
      (c.countdown ≤ 1 → t = { s with cores := t.cores } ∧ ∃ q, (t.core g.core).due = some q ∧ q.gid = g ∧ q.path = k ∧
        q.dtime = BitVec.ofNat 64 s.dtime ∧ q.deck = (s.launch g.tag).deckId ∧ q.offs = (w - (s.launch g.tag).code).setWidth 32 ∧
        q.spord = (s.group g).spord ∧ q.lq = (s.group g).lc ∧ q.sq = (s.group g).sc ∧ q.cq = (s.wg g.tag g.core).copyq.length ∧
        q.tq = (s.wg g.tag g.core).tileq.length ∧ q.vs = followsVector f ∧ q.gf = guardFails (s.group g) f ∧
        (t.core g.core).countdown = c.lfsr.toNat % 2 ^ (bits (smpctl s (coreLaunch s g.core).ctx) 8 5 + 1) + 1)) ∧
    (∀ q, c.due = some q → q.gid = g → q.path = k → exec (.samplerTag g k) s
      = .next (s.updCore g.core (fun y => { y with due := none, sample := some q }))) ∧
    (c.due = none → exec (.samplerTag g k) s = .next s) ∧
    -- the waits that the word leaves its path keep its record open
    (∀ q, c.due = some q → q.gid = g → q.path = k → q.id1 = 0 → ((sampleIssued s g k).core g.core).due
      = some { q with id1 := s.nextId + 1, waits := (pathOf (s.group g) k).waits })) ∧
    (∀ y ∈ r.waits, y ∈ (pathOf (s.group r.gid) r.path).waits → waitDone s r.gid y = false → sampleOpen s r = true) ∧
    ((s.core core).sample = none → exec (.sampleRecord core t0) s = .next s) ∧
    ((s.core core).sample = some r → sampleOpen s r = true → lr.state ≠ .completing → exec (.sampleRecord core t0) s = .next s) ∧
    ((s.core core).sample = some r → sampleOpen s r = false →
      virtWrite { die := core / 32, ident := core, ctx := lr.ctx, tag := 0 } s
        (regLE s (ring + 0x108) 8 + 64 * (idx % 2 ^ bits (regLE s (ring + 0x118) 8) 0 5)) (toBytes 64 (sampleNat r t0)) = (u, .ok ()) →
      ∃ t, exec (.sampleRecord core t0) s = .next t ∧ t.mem = u.mem ∧ (t.core core).sample = none ∧ regLE t (ring + 0x110) 8 = (idx + 1) % 2 ^ 64) ∧
    -- a stage that a fault cut short ends the record; one that the launch's end left unfinished reads 0xFFFF
    (let field := fun (b n : Nat) => sampleNat r t0 / 2 ^ b % 2 ^ n;
      field 192 16 = (if r.fate = .inExec then 0xFFFF else t0.exec.toNat) ∧
      field 176 16 = (if r.fate = .whole then t0.wb.toNat else if r.fate = .inWb then 0xFFFF else 0) ∧
      field 256 1 = (if (t0.sat = true ∧ [176, 192, 208, 224, 240].any (fun b => field b 16 == 0xFFFF) = true) ∨ r.fate = .inExec ∨ r.fate = .inWb then 1 else 0) ∧ field 278 3 = r.level % 8 ∧
      field 208 16 = t0.opnd.toNat ∧ field 224 16 = t0.issue.toNat ∧ field 240 16 = t0.fetch.toNat ∧ field 448 64 = r.dtime.toNat)

/-- R381, R382, R383, R387, R133, R323: what package reset leaves, the steps of bring-up, and the thermal trip, after which only a package
reset moves the machine. That tiles are non-resident after training is the model's choice (notes/assumptions/5.md, DESIGN CHOICE), and so are the
window that lets host node 0 in, and what a package reset does to THERMSTAT (notes/assumptions/12.md, DESIGN CHOICE), where the accepted image
lies (notes/assumptions/20.md, DESIGN CHOICE), and the sender that a stop flit names (notes/assumptions/31.md, DEDUCED). -/
def Obligations.BringUpAndReset : Prop :=
  let r := State.reset
  (r.dtime = 0 ∧ r.clkCur = 3 ∧ r.clkSet = 3 ∧ r.clkPend = false ∧ r.launches = [] ∧ r.bringup = 0 ∧ r.stopped = false ∧ r.sdstat = 0 ∧
    (∀ d, sget 0 r.nrefused d = 0 ∧ sget 0 r.escidx d = 0 ∧ sget 0 r.pwrgate d = 0 ∧ sget 0 r.thermstat d = 0) ∧
    (∀ c, c < 65536 → bits (ctxEntry r c) 32 10 = 15 ∧ ctxPmask r c = 0 ∧ ctxNrbase r c = 0 ∧ rootsEntry r c = 0) ∧
    (∀ p, partEntry r p = 0) ∧ (∀ b, readByte r.atab b = 0)) ∧
  ∀ (s : State) (image : List Byte) (d a : Nat) (m : Master) (q : Perm),
    (∃ t, exec .packageReset s = .next t ∧
      t = { r with part := s.part, sched := s.sched, cur := s.cur, thermstat := if s.stopped then s.thermstat else [] }) ∧
    (let c := Config.firmwareCard image;
      firmwareOk image = true ↔ sha512 c.1 = fit 64 Config.fusedDigest ∧ ecdsaOk c.1 c.2.1 (sha512 c.2.2) = true) ∧
    (s.bringup = 0 → firmwareOk image = true → ∃ t, exec (.firmwareCheck image) s = .next t ∧
      t = { s with bringup := 1, firmware := image, yarders := t.yarders } ∧ ∀ y, y < 2 * diesOf s.part →
        t.yarder y = { s.yarder y with sram := (t.yarder y).sram } ∧
        ∀ i, readByte (t.yarder y).sram i = if i < image.length ∧ i < 0x40000 then image.getD i 0 else readByte (s.yarder y).sram i) ∧
    (s.bringup = 0 → firmwareOk image = false → ∃ t, exec (.firmwareCheck image) s = .next t ∧
      t = { s with bringup := 9, thermstat := t.thermstat } ∧ ∀ e, e < diesOf s.part → sget 0 t.thermstat e = 0xE100000000000000) ∧
    (s.bringup = 1 → ∃ t, exec .memoryTraining s = .next t ∧ t = { s with bringup := 2, mem := [], tiles := [] } ∧
      (∀ b, readByte t.mem b = 0) ∧ ∀ k, (t.tile k).log = [] ∧ (t.tile k).resident = false) ∧
    (s.bringup = 2 → ∃ t, exec .linkUp s = .next t ∧ t = { s with bringup := 3, atab := t.atab } ∧
      (m.ident = 0x800 → locate s.part a = .register d a → q = .r ∨ q = .w → permitted t m a q = true) ∧
      ∀ b, (∀ e, e < diesOf s.part → b ≠ atBase e 8 + 0x2800 ∧ (b < atBase e 8 + 0x7F00 ∨ atBase e 8 + 0x7F10 ≤ b)) →
        readByte t.atab b = readByte s.atab b) ∧
    (s.bringup ≠ 0 → exec (.firmwareCheck image) s = .next s) ∧ (s.bringup ≠ 1 → exec .memoryTraining s = .next s) ∧
    (s.bringup ≠ 2 → exec .linkUp s = .next s) ∧
    (d < diesOf s.part → ∃ t, exec (.thermalTrip d) s = .next t ∧ t = { s with stopped := true, ports := t.ports, thermstat := t.thermstat } ∧
      (∀ e, e < diesOf s.part → sget 0 t.thermstat e = BitVec.ofNat 64 (d * 2 ^ 56 + s.dtime % 2 ^ 56)) ∧
      ∀ e, e < diesOf s.part → (sget .zero t.ports e).wire = (sget .zero s.ports e).wire ++ [headerFlit 0x05 (0x1000 + s.part.package) 0 0 0]) ∧
    (s.stopped = true → s.sched.head? ≠ some (.event .packageReset) → step s = .fault .thermalStop) ∧
    (∀ rest, s.sched = .event .packageReset :: rest → ∃ t, step s = .next t ∧ t.stopped = false ∧ t.dtime = 0 ∧ t.bringup = 0 ∧ t.sched = rest)

/-- R385: every read and write that arrives in form is performed at its target and answered once with its TAG; a malformed or refused one
is answered so; responses, the stop flit, and replay in both directions. That a response names the package as its sender and that replay is by whole
flits is the model's choice (notes/assumptions/31.md, DEDUCED), and so is the answer to a read of poison (notes/assumptions/20.md, DEDUCED). -/
def Obligations.HighleadEvents : Prop :=
  ∀ (s u : State) (r : HlReq) (die n : Nat) (b : List Byte) (e : Nat) (tag : BitVec 16) (st : Byte),
    let in_ := { s with ports := sput .zero s.ports r.die { sget .zero s.ports r.die with discarding := false, replayAsked := false } }
    let m : Master := { ident := r.srcid.toNat, ctx := none }
    let port := sget .zero s.ports die
    let put := fun (p : Port) => { s with ports := sput .zero s.ports die p }
    let answer := fun (t : State) (opc status : Nat) (d : List Byte) =>
      sendFlits t r.die (headerFlit opc (0x1000 + t.part.package) r.tag.toNat (d.length - 1) status :: dataFlits d)
    (r.die < diesOf s.part →
      (r.opc = 1 → reqOk r = true → physRead in_ m 0 r.addr.toNat (r.len.toNat + 1) = (u, .ok b) →
        exec (.highleadRead r) s = .next (answer u 3 0 b)) ∧
      (r.opc = 1 → reqOk r = true → physRead in_ m 0 r.addr.toNat (r.len.toNat + 1) = (u, .error e) →
        exec (.highleadRead r) s = .next (answer u 3 0x0C [])) ∧
      (r.opc = 1 → reqOk r = false → exec (.highleadRead r) s = .next (answer in_ 3 3 [])) ∧
      (r.opc = 2 → reqOk r = true → r.data.length = r.len.toNat + 1 → notifyMisused s.part r.addr.toNat r.data.length = false →
        devWrite in_ m r.addr.toNat r.data = (u, .ok ()) →
        exec (.highleadWrite r) s = .next (answer u 4 0 [])) ∧
      (r.opc = 2 → reqOk r = true → r.data.length = r.len.toNat + 1 → notifyMisused s.part r.addr.toNat r.data.length = false →
        devWrite in_ m r.addr.toNat r.data = (u, .error e) → exec (.highleadWrite r) s = .next (answer u 4 0x0C [])) ∧
      -- NOTIFY, ABORT and QUERY take one write of 64 bytes each
      (r.opc = 2 → reqOk r = true → r.data.length = r.len.toNat + 1 → notifyMisused s.part r.addr.toNat r.data.length = true →
        exec (.highleadWrite r) s = .next (answer (devWrite in_ m r.addr.toNat r.data).1 4 3 [])) ∧
      (notifyMisused s.part r.addr.toNat n = true ↔ ∃ d o, regAt s.part r.addr.toNat = .notify d o ∧ o < 0xC0 ∧ ¬(o % 64 = 0 ∧ n = 64)) ∧
      (r.opc = 2 → (reqOk r = false ∨ r.data.length ≠ r.len.toNat + 1) → exec (.highleadWrite r) s = .next (answer in_ 4 3 [])) ∧
      (hlOther r.opc = false → r.opc ≠ 2 → exec (.highleadWrite r) s = .next (answer in_ 4 3 []))) ∧
    (∀ opc src t len status, opc < 256 → src < 2 ^ 24 → t < 2 ^ 16 → len < 2 ^ 16 → status < 256 → (headerFlit opc src t len status).length = 32 ∧
      ofBytes (headerFlit opc src t len status) = opc * 2 ^ 248 + src * 2 ^ 224 + t * 2 ^ 208 + len * 2 ^ 192 + status * 2 ^ 184) ∧
    (∀ i, i < b.length → ((dataFlits b).getD (i / 32) []).getD (i % 32) 0 = b.getD i 0) ∧
    (die < diesOf s.part → port.outstanding.any (fun x => x.1 == tag.toNat) = true →
      (∃ t, exec (.highleadReadResponse die tag st b) s = .next t ∧
        t = put { port with discarding := false, replayAsked := false, outstanding := (sget .zero t.ports die).outstanding
                            answers := port.answers ++ [(tag.toNat, st :: b)] } ∧
        ∀ x, x ∈ (sget .zero t.ports die).outstanding ↔ x ∈ port.outstanding ∧ x.1 ≠ tag.toNat) ∧
      ∃ t, exec (.highleadWriteResponse die tag st) s = .next t ∧ (sget .zero t.ports die).answers = port.answers ++ [(tag.toNat, [st])]) ∧
    (die < diesOf s.part → port.outstanding.any (fun x => x.1 == tag.toNat) = false → exec (.highleadReadResponse die tag st b) s
      = .next (put { port with discarding := false, replayAsked := false })) ∧
    (die < diesOf s.part → exec (.highleadStop die) s = .next (put { port with stopped := true }) ∧
      exec (.highleadReplay die) s = .next (put { port with discarding := true, replayAsked := true }) ∧
      exec (.senderReplay die n) s = .next (put { port with wire := port.wire ++ port.sent.drop n })) ∧
    (diesOf s.part ≤ die → exec (.highleadReadResponse die tag st b) s = .next s ∧ exec (.highleadWriteResponse die tag st) s = .next s ∧
      exec (.highleadStop die) s = .next s ∧ exec (.highleadReplay die) s = .next s ∧ exec (.senderReplay die n) s = .next s) ∧
    (∀ fs, (sget .zero (sendFlits s die fs).ports die).wire = port.wire ++ fs ∧
      (sget .zero (sendFlits s die fs).ports die).sent = (port.sent ++ fs).drop (port.sent.length + fs.length - 512))

/-! ## The invariant -/

/-- The byte lists of the machine are in canonical form at reset. -/
def Obligations.CanonAtReset : Prop := State.reset.Canon

/-- Every step keeps the byte lists in canonical form: no byte of memory, of the register windows or of the access tables is ever held
twice or held at its default, whatever moves. -/
def Obligations.CanonStep : Prop := ∀ s t, s.Canon → step s = .next t → t.Canon
end

