-- ==== Sys2Proof/Laws/Bytes.lean ====
section
/-!
SUPPORT. Little-endian byte strings (R68): the length and the value of what `toBytes` writes, and bit fields of a number
below another part.
-/

namespace Sys2Proof

@[simp] theorem length_toBytes (n w : Nat) : (toBytes n w).length = n := by
  induction n generalizing w with
  | zero => rfl
  | succ n ih => simp [toBytes, ih]

/-- The bytes of a number give its residue. -/
theorem ofBytes_toBytes (n w : Nat) : ofBytes (toBytes n w) = w % 256 ^ n := by
  induction n generalizing w with
  | zero => simp [toBytes, ofBytes, Nat.mod_one]
  | succ n ih =>
    simp only [toBytes, ofBytes, ih, BitVec.toNat_ofNat]
    exact (Nat.pow_succ' ▸ Nat.mod_mul).symm

theorem ofBytes_lt (b : List Byte) : ofBytes b < 256 ^ b.length := by
  induction b with
  | nil => simp [ofBytes]
  | cons x r ih =>
    have := x.isLt
    simp only [ofBytes, List.length_cons, Nat.pow_succ']
    omega

/-- The low bytes of a longer string. -/
theorem take_toBytes_append (n w : Nat) (r : List Byte) : (toBytes n w ++ r).take n = toBytes n w := by
  rw [List.take_left' (length_toBytes n w)]
theorem drop_toBytes_append (n w : Nat) (r : List Byte) : (toBytes n w ++ r).drop n = r := by
  rw [List.drop_left' (length_toBytes n w)]

namespace Machine

theorem bits_lt (w lo n : Nat) : bits w lo n < 2 ^ n := Nat.mod_lt _ (Nat.pow_pos (by decide))

/-- A field that lies below bit k does not see what stands from there on. -/
theorem bits_add_high (w m k lo n : Nat) (h : lo + n ≤ k) : bits (w + m * 2 ^ k) lo n = bits w lo n := by
  obtain ⟨d, rfl⟩ := Nat.exists_eq_add_of_le h
  have e : m * 2 ^ (lo + n + d) = 2 ^ lo * (m * 2 ^ d * 2 ^ n) := by rw [Nat.pow_add, Nat.pow_add]; ac_rfl
  simp only [bits]
  rw [e, Nat.add_mul_div_left _ _ (Nat.pow_pos (by decide)), Nat.add_mul_mod_self_right]

/-- The field from bit k on is what stands there. -/
theorem bits_high (w m k n : Nat) (hw : w < 2 ^ k) (hm : m < 2 ^ n) : bits (w + m * 2 ^ k) k n = m := by
  simp only [bits]
  rw [Nat.mul_comm, Nat.add_mul_div_left _ _ (Nat.pow_pos (by decide)), Nat.div_eq_of_lt hw, Nat.zero_add, Nat.mod_eq_of_lt hm]

/-- Both parts together stay below the sum of their widths. -/
theorem add_high_lt (w m k n : Nat) (hw : w < 2 ^ k) (hm : m < 2 ^ n) : w + m * 2 ^ k < 2 ^ (k + n) := by
  have h : (m + 1) * 2 ^ k ≤ 2 ^ n * 2 ^ k := Nat.mul_le_mul_right _ hm
  rw [Nat.add_mul] at h
  rw [Nat.pow_add, Nat.mul_comm (2 ^ k)]
  omega

end Machine

end Sys2Proof
end

