-- ==== Sys2Proof/Laws/Canon.lean ====
section
/-!
SUPPORT. Every shared operation keeps the byte lists canonical: memory, the register windows and the access tables. Each lemma says
so of one operation, whatever state it starts from; a proof about an instruction cites these and unfolds no callee.
-/

namespace Sys2Proof.Machine

/-- The byte lists are all that the canonical form speaks of. -/
theorem canon_of {s t : State} (h : s.Canon) (hm : t.mem = s.mem) (hr : t.regs = s.regs) (ha : t.atab = s.atab) : t.Canon := by
  unfold State.Canon at *; rw [hm, hr, ha]; exact h

theorem canon_mem {s : State} {m : Memory} (h : s.Canon) (hm : Memory.wf m = true) : State.Canon { s with mem := m } := ⟨hm, h.2⟩

theorem canon_regs {s : State} {m : Memory} (h : s.Canon) (hm : Memory.wf m = true) : State.Canon { s with regs := m } :=
  ⟨h.1, hm, h.2.2⟩

theorem canon_atab {s : State} {m : Memory} (h : s.Canon) (hm : Memory.wf m = true) : State.Canon { s with atab := m } :=
  ⟨h.1, h.2.1, hm⟩

theorem canon_foldl {α : Type} {f : State → α → State} (hf : ∀ s x, s.Canon → (f s x).Canon) :
    ∀ (l : List α) (s : State), s.Canon → (l.foldl f s).Canon
  | [], _, h => h
  | x :: l, s, h => canon_foldl hf l (f s x) (hf s x h)

theorem canon_ite {c : Prop} [Decidable c] {s t : State} (hs : s.Canon) (ht : t.Canon) : (if c then s else t).Canon := by
  split <;> assumption

theorem canon_fst {α : Type} {p : State × α} {s : State} {a : α} (h : p.1.Canon) (e : p = (s, a)) : s.Canon := by rw [e] at h; exact h

/-! ## Parts of the state -/

theorem canon_setGroup {s : State} {g : GId} {v : Group} (h : s.Canon) : (s.setGroup g v).Canon := h
theorem canon_updGroup {s : State} {g : GId} {f : Group → Group} (h : s.Canon) : (s.updGroup g f).Canon := h
theorem canon_updWg {s : State} {t c : Nat} {f : Workgroup → Workgroup} (h : s.Canon) : (s.updWg t c f).Canon := h
theorem canon_updCore {s : State} {c : Nat} {f : Core → Core} (h : s.Canon) : (s.updCore c f).Canon := h
theorem canon_updLaunch {s : State} {t : Nat} {f : Launch → Launch} (h : s.Canon) : (s.updLaunch t f).Canon := h
theorem canon_updYarder {s : State} {y : Nat} {f : Yarder → Yarder} (h : s.Canon) : (s.updYarder y f).Canon := h
theorem canon_updTile {s : State} {k : Nat} {f : Tile → Tile} (h : s.Canon) : (s.updTile k f).Canon := h
theorem canon_updCg {s : State} {f : Group → Group} (h : s.Canon) : (updCg s f).Canon := h
theorem canon_updPath {s : State} {f : Path → Path} (h : s.Canon) : (updPath s f).Canon := h
theorem canon_ws {s : State} {r : SReg} {v : Word} (h : s.Canon) : (ws s r v).Canon := h
theorem canon_resolveGuard {s : State} {g : GId} {k : GReg} {v : Bool} (h : s.Canon) : (resolveGuard s g k v).Canon := h
theorem canon_goNext {s : State} {t : Word} (h : s.Canon) : (goNext s t).Canon := h
theorem canon_goTo {s : State} {t : Word} (h : s.Canon) : (goTo s t).Canon := h
theorem canon_endWord {s : State} (h : s.Canon) : (endWord s).Canon := h
theorem canon_keepTlb {s : State} {t : TlbEntry} (h : s.Canon) : (keepTlb s t).Canon := h
theorem canon_healTile {s : State} {k o n : Nat} (h : s.Canon) : (healTile s k o n).Canon := h
theorem canon_resumeTiles {s : State} {g : GId} {c : Nat} {a : Word} (h : s.Canon) : (resumeTiles s g c a).Canon := h
theorem canon_countRefused {s : State} {d : Nat} (h : s.Canon) : (countRefused s d).Canon := h

theorem canon_chargeBudget {s : State} {t k n : Nat} (h : s.Canon) : (chargeBudget s t k n).Canon := by
  unfold chargeBudget; split <;> exact h

theorem canon_writeBackLine {s : State} {l : Nat} {k : Option Nat} (h : s.Canon) : (writeBackLine s l k).Canon := by
  unfold writeBackLine; split
  · exact h
  · split <;> exact h

theorem canon_writeBackRange {s : State} {a n : Nat} (h : s.Canon) : (writeBackRange s a n).Canon :=
  canon_foldl (fun _ _ h => canon_writeBackLine h) _ _ h

theorem canon_evictTile {s : State} {k : Nat} (h : s.Canon) : (evictTile s k).Canon := canon_updTile (canon_writeBackRange h)

theorem canon_makeResident {s : State} {k : Nat} (h : s.Canon) : (makeResident s k).Canon := by
  unfold makeResident; dsimp only; apply canon_updTile; split
  · exact h
  · split
    · exact canon_evictTile h
    · exact h

theorem canon_unreserve {s : State} {b : Bool} {a n : Nat} (h : s.Canon) : (unreserve s b a n).Canon :=
  canon_foldl (fun _ _ h => canon_updYarder h) _ _ h

theorem canon_escalate {s : State} {d : Nat} {b : List Byte} (h : s.Canon) : (escalate s d b).Canon := by
  unfold escalate; dsimp only
  generalize sramAddr _ = a
  exact canon_unreserve (b := true) (a := a) (n := 64) h

theorem canon_sendFlits {s : State} {d : Nat} {f : List (List Byte)} (h : s.Canon) : (sendFlits s d f).Canon := h

theorem canon_boomLink {r : List Nat} {s : State} {m : BoomMsg} (h : s.Canon) : (boomLink r s m).Canon := by
  unfold boomLink; dsimp only; split
  · exact h
  · split
    · exact canon_sendFlits h
    · split <;> exact h

theorem canon_boomPost {s : State} {r : List Nat} {m : List BoomMsg} (h : s.Canon) : (boomPost s r m).Canon :=
  canon_foldl (fun _ _ h => canon_boomLink h) m { s with boomSent := s.boomSent ++ _ } h

theorem canon_freezeBoom {s : State} {g : GId} {b : Bool} (h : s.Canon) : (freezeBoom s g b).Canon :=
  canon_foldl (fun _ _ h => canon_boomPost h) _ { s with boomOps := _ } h

theorem canon_resumeGroup {s : State} {g : GId} (h : s.Canon) : (resumeGroup s g).Canon := canon_freezeBoom (canon_updGroup h)

theorem canon_abortRegion {s : State} {g : GId} {c : BitVec 4} {e : Byte} (h : s.Canon) : (abortRegion s g c e).Canon := by
  unfold abortRegion; dsimp only; split
  · exact h
  · exact canon_resolveGuard h

theorem canon_conflict {s : State} {w : Option GId} {a n : Nat} (h : s.Canon) : (conflict s w a n).Canon :=
  canon_foldl (fun _ _ h => canon_abortRegion h) _ _ (canon_unreserve h)

theorem canon_failAcc {s : State} {g : GId} {i j c : Nat} (h : s.Canon) : (failAcc s g i j c).Canon := by
  unfold failAcc; dsimp only; split
  · exact canon_abortRegion (canon_updGroup h)
  · exact canon_updGroup h

theorem canon_placeAtomic {s : State} {d c t a : Nat} {r : Bool} (h : s.Canon) : (placeAtomic s d c t a r).1.Canon := by
  have hp : ∀ v, State.Canon { s with predictor := v } := fun _ => h
  unfold placeAtomic; dsimp only; repeat' split
  all_goals first
    | exact canon_updCore (canon_writeBackLine (hp _))
    | exact canon_writeBackLine (hp _)
    | exact h

theorem canon_readSetLine {s : State} {g : GId} {o : QOp} {a : Nat} (h : s.Canon) : (readSetLine s g o a).Canon := by
  unfold readSetLine; split
  · exact h
  · split
    · exact h
    · split
      · exact canon_abortRegion h
      · exact h

/-! ## Tile logs and accesses -/

theorem wf_applyEntry {m : Memory} {b : Nat} {e : LogEntry} (h : Memory.wf m = true) : Memory.wf (applyEntry m b e) = true := by
  unfold applyEntry; dsimp only
  split
  · exact wf_writeLE _ _ _ _ h
  · split
    · exact wf_writeLE _ _ _ _ h
    · split <;> exact wf_writeLE _ _ _ _ h

theorem wf_applyEntries : ∀ (l : List LogEntry) (m : Memory) (b : Nat), Memory.wf m = true → Memory.wf (applyEntries m b l) = true
  | [], _, _, h => h
  | e :: l, m, b, h => wf_applyEntries l (applyEntry m b e) b (wf_applyEntry h)

theorem canon_applyTile {s : State} {w : Option GId} {k t : Nat} (h : s.Canon) : (applyTile s w k t).Canon := by
  have h1 := canon_chargeBudget (t := t) (k := 3) (n := (s.tile k).log.length) (canon_foldl
    (f := fun s e => conflict s w (4096 * k + (entryAt e).1) (entryAt e).2) (fun _ _ h => canon_conflict h) (s.tile k).log s h)
  exact canon_makeResident (canon_mem h1 (wf_applyEntries _ _ _ h1.1))

theorem canon_performMem {s : State} {g : GId} {i j l : Nat} {b : Bool} (h : s.Canon) : (performMem s g i j l b).Canon := by
  unfold performMem
  split
  · exact h
  · split
    · exact h
    · next o _ a _ =>
      dsimp only; split
      · exact h
      · have hb : (if b then s else writeBackRange s a.pa a.size).Canon := canon_ite h (canon_writeBackRange h)
        generalize (if b then s else writeBackRange s a.pa a.size) = u at hb ⊢
        have hw : ∀ v, State.Canon { u with mem := writeLE u.mem a.pa a.size v } := fun v => canon_mem hb (wf_writeLE _ _ _ _ hb.1)
        split <;> (try apply canon_readSetLine) <;> exact canon_updGroup (canon_ite (canon_conflict (hw _)) hb)

theorem canon_performAt {s : State} {g : GId} {i j k l : Nat} {r : Bool} (h : s.Canon) : (performAt s g i j k l r).Canon := by
  unfold performAt; split
  · split
    · exact canon_performMem (canon_placeAtomic h)
    · exact canon_performMem h
  · exact h

theorem canon_loseLog {s : State} {k : Nat} (h : s.Canon) : (loseLog s k).Canon :=
  canon_foldl (fun _ _ h => canon_failAcc h) _ _ (canon_updTile (s := { s with bad := _, lost := _ }) h)

theorem canon_fetchNow {s : State} {w : Option GId} {k t : Nat} (h : s.Canon) : (fetchNow s w k t).Canon := by
  unfold fetchNow; dsimp only; split
  · exact h
  · split
    · exact canon_loseLog h
    · exact canon_foldl (fun _ _ h => canon_performAt h) _ _ (canon_updTile (canon_applyTile h))

/-! ## Registers of the windows -/

theorem canon_putRegByte {s : State} {a : Nat} {v : Byte} (h : s.Canon) : (putRegByte s a v).Canon :=
  canon_regs h (wf_writeByte _ _ _ h.2.1)

theorem canon_putRegBytes : ∀ (d : List Byte) (s : State) (a : Nat), s.Canon → (putRegBytes s a d).Canon
  | [], _, _, h => h
  | _ :: d, _, a, h => canon_putRegBytes d _ (a + 1) (canon_putRegByte h)

theorem canon_putReg {s : State} {a n v : Nat} (h : s.Canon) : (putReg s a n v).Canon := canon_putRegBytes _ _ _ h

theorem canon_writePart {s : State} {p v : Nat} (h : s.Canon) : (writePart s p v).Canon := by
  unfold writePart; split
  · exact h
  · exact canon_putReg h

theorem canon_writeClklock {s : State} {v : Nat} (h : s.Canon) : (writeClklock s v).Canon := by
  unfold writeClklock; split
  · exact h
  · split <;> exact h

theorem canon_writePwrgate {s : State} {d v : Nat} (h : s.Canon) : (writePwrgate s d v).Canon := by
  unfold writePwrgate; dsimp only; split <;> exact h

theorem canon_writeAtab {s : State} {d o v : Nat} (h : s.Canon) : (writeAtab s d o v).Canon := by
  unfold writeAtab; dsimp only
  split
  · exact h
  · split
    · exact h
    · split
      · exact canon_atab h (wf_writeLE _ _ _ _ h.2.2)
      · split
        · exact h
        · exact ⟨h.1, h.2.1, wf_writeLE _ _ _ _ (wf_writeLE _ _ _ _ h.2.2)⟩

theorem canon_debugResume {s : State} {c : Nat} {g : GId} (h : s.Canon) : (debugResume s c g).Canon := by
  unfold debugResume; split
  · exact canon_updGroup (canon_resumeGroup h)
  · exact h

theorem canon_writeDbgcmd {s : State} {c v : Nat} (h : s.Canon) : (writeDbgcmd s c v).Canon := by
  unfold writeDbgcmd; split
  · exact h
  · split
    · unfold dbgHaltLaunch; split
      · exact canon_foldl (fun s g h => by split <;> exact h) _ _ h
      · exact h
    · unfold dbgResumeLaunch; split
      · exact canon_foldl (fun _ _ h => canon_debugResume h) _ _ h
      · exact h
    · unfold dbgResumeGroup; split
      · dsimp only; split
        · exact canon_debugResume h
        · exact h
      · exact h
    · exact h

theorem canon_writeDebug {s : State} {c o v : Nat} (h : s.Canon) : (writeDebug s c o v).Canon := by
  unfold writeDebug; split
  · exact canon_writeDbgcmd h
  · split
    · unfold gstateWrite; split <;> exact h
    · split
      · unfold gpoolWrite; split <;> exact h
      · split
        · split
          · exact canon_putReg h
          · exact h
        · exact h

theorem canon_writeDie {s : State} {d o v : Nat} (h : s.Canon) : (writeDie s d o v).Canon := by
  unfold writeDie; split
  · exact canon_writeAtab h
  · split
    · exact canon_writePwrgate h
    · split
      · exact canon_putReg h
      · exact h

theorem canon_writePkg {s : State} {o v : Nat} (h : s.Canon) : (writePkg s o v).Canon := by
  unfold writePkg; split
  · exact canon_writeClklock h
  · split
    · exact canon_writePart h
    · exact h

theorem canon_setReg8 {s : State} {a v : Nat} (h : s.Canon) : (setReg8 s a v).Canon := by
  unfold setReg8; split
  · exact canon_writeDie h
  · exact canon_putReg h
  · exact canon_writePkg h
  · exact canon_writeDebug h
  · split <;> exact h
  · exact h

theorem canon_winWrite {s : State} {a : Nat} {d : List Byte} (h : s.Canon) : (winWrite s a d).Canon := by
  unfold winWrite; split
  · split <;> exact h
  · exact canon_foldl (fun _ _ h => canon_setReg8 h) _ _ h

theorem canon_denied {s : State} {a : Nat} (h : s.Canon) : (denied s a).Canon := by
  unfold denied; split <;> exact h

/-! ## Accesses of other masters -/

theorem canon_physReadAs {w : Option GId} {p : Perm} {s : State} {m : Master} {t a n : Nat} (h : s.Canon) : (physReadAs w p s m t a n).1.Canon := by
  unfold physReadAs; split
  · exact h
  · split
    · split
      · exact h
      · dsimp only; split
        · exact canon_fetchNow h
        · exact canon_writeBackRange (canon_fetchNow h)
    · exact h
    · exact h

theorem canon_physRead {s : State} {m : Master} {t a n : Nat} (h : s.Canon) : (physRead s m t a n).1.Canon := canon_physReadAs h

theorem canon_sliceReady {s : State} {t k : Nat} {w : Bool} (h : s.Canon) : (sliceReady s t k w).1.Canon := by
  unfold sliceReady; split
  · exact h
  · exact canon_fetchNow h

theorem canon_physReady {s : State} {m : Master} {t a : Nat} (h : s.Canon) : (physReady s m t a).1.Canon := by
  unfold physReady; split
  · exact canon_denied h
  · split
    · exact canon_sliceReady h
    · exact h
    · exact h

theorem canon_putPhys {s : State} {a : Nat} {d : List Byte} (h : s.Canon) : (putPhys s a d).Canon := by
  unfold putPhys; split
  · next q _ =>
    have h2 := canon_writeBackRange (a := q) (n := d.length) h
    have h3 := canon_conflict (w := none) (a := q) (n := d.length) (canon_mem h2 (wf_writeBytes d _ q h2.1))
    exact canon_ite (canon_healTile h3) h3
  · exact canon_conflict (canon_winWrite h)

theorem canon_physWrite {s : State} {m : Master} {t a : Nat} {d : List Byte} (h : s.Canon) : (physWrite s m t a d).1.Canon := by
  unfold physWrite; split <;> next e => first
    | exact canon_putPhys (canon_fst (canon_physReady h) e)
    | exact canon_fst (canon_physReady h) e

theorem canon_physWriteGo (m : Master) (t : Nat) : ∀ (f : Nat) (s : State) (a : Nat) (d : List Byte), s.Canon →
    (physWriteGo m t f s a d).1.Canon
  | 0, _, _, _, h => h
  | f + 1, s, a, d, h => by
    unfold physWriteGo; split
    · exact h
    · dsimp only
      have h1 := canon_physWrite (m := m) (t := t) (a := a) (d := d.take (min d.length (4096 - a % 4096))) h
      split
      · next e => rw [e] at h1; exact h1
      · next e => rw [e] at h1; exact canon_physWriteGo m t f _ _ _ h1

theorem canon_physWriteAll {s : State} {m : Master} {a : Nat} {d : List Byte} (h : s.Canon) : (physWriteAll s m a d).1.Canon :=
  canon_physWriteGo _ _ _ _ _ _ h

/-! ## Translation -/

theorem canon_walkGo (a : WalkArg) : ∀ (l : Nat) (s : State) (b : Nat), s.Canon → (walkGo a l s b).1.Canon
  | 0, _, _, h => h
  | l + 1, s, b, h => by
    unfold walkGo
    have h1 := canon_physRead (m := { ident := idWalker a.die, ctx := some a.ctx }) (t := a.tag)
      (a := b + 8 * bits a.va (levelLo l) (levelW l)) (n := 8) h
    split
    · next e => rw [e] at h1; exact h1
    · next e =>
      rw [e] at h1; dsimp only; split
      · exact h1
      · exact h1
      · exact canon_walkGo a l _ _ h1

theorem canon_walk {s : State} {a : WalkArg} (h : s.Canon) : (walk s a).1.Canon := by
  unfold walk; dsimp only; split
  · exact h
  · exact canon_walkGo _ _ _ _ h

theorem canon_translate {s : State} {a : WalkArg} {n : Need} (h : s.Canon) : (translate s a n).1.Canon := by
  unfold translate; split
  · exact h
  · cases lookupTlb s a.die a.ctx a.va with
    | some t => dsimp only; split <;> exact h
    | none =>
      have h1 := canon_walk (a := a) h
      dsimp only
      generalize walk s a = r at h1 ⊢
      obtain ⟨s1, c | t⟩ := r
      · exact h1
      · dsimp only; split <;> exact h1

theorem canon_virtReadGo (v : Via) : ∀ (f : Nat) (s : State) (a n : Nat), s.Canon → (virtReadGo v f s a n).1.Canon
  | 0, _, _, _, h => h
  | f + 1, s, a, n, h => by
    unfold virtReadGo; split
    · exact h
    · dsimp only
      have h1 := canon_translate (a := v.walkArg a) (n := .r) h
      split
      · next e => rw [e] at h1; exact h1
      · next s1 pa e =>
        rw [e] at h1
        have h2 := canon_physRead (m := v.master) (t := v.tag) (a := pa) (n := min n (4096 - a % 4096)) h1
        dsimp only at h2 ⊢
        split
        · next e => rw [e] at h2; exact h2
        · next s2 b e =>
          rw [e] at h2
          have h3 := canon_virtReadGo v f s2 (a + min n (4096 - a % 4096)) (n - min n (4096 - a % 4096)) h2
          split <;> next e => rw [e] at h3; exact h3

theorem canon_virtRead {v : Via} {s : State} {a n : Nat} (h : s.Canon) : (virtRead v s a n).1.Canon := canon_virtReadGo _ _ _ _ _ h

theorem canon_virtWriteGo (v : Via) : ∀ (f : Nat) (s : State) (a : Nat) (d : List Byte), s.Canon → (virtWriteGo v f s a d).1.Canon
  | 0, _, _, _, h => h
  | f + 1, s, a, d, h => by
    unfold virtWriteGo; split
    · exact h
    · dsimp only
      have h1 := canon_translate (a := v.walkArg a) (n := .w) h
      split
      · next e => rw [e] at h1; exact h1
      · next s1 pa e =>
        rw [e] at h1
        have h2 := canon_physWrite (m := v.master) (t := v.tag) (a := pa) (d := d.take (min d.length (4096 - a % 4096))) h1
        dsimp only at h2 ⊢
        split
        · next e => rw [e] at h2; exact h2
        · next e => rw [e] at h2; exact canon_virtWriteGo v f _ _ _ h2

theorem canon_virtWrite {v : Via} {s : State} {a : Nat} {d : List Byte} (h : s.Canon) : (virtWrite v s a d).1.Canon :=
  canon_virtWriteGo _ _ _ _ _ h

theorem canon_rmwReady {v : Via} {s : State} {a : Nat} (h : s.Canon) : (rmwReady v s a).1.Canon := by
  unfold rmwReady
  have h1 := canon_translate (a := v.walkArg a) (n := .w) h
  split
  · next e => exact canon_fst h1 e
  · next s1 pa e =>
    have h2 := canon_fst h1 e
    split
    · exact h2
    · split <;> next e => exact canon_fst (canon_physReady h2) e

theorem canon_virtRmw {v : Via} {s : State} {a : Nat} {f : Word → Word} (h : s.Canon) : (virtRmw v s a f).1.Canon := by
  unfold virtRmw; split <;> next e => first
    | exact canon_putPhys (canon_fst (canon_rmwReady h) e)
    | exact canon_fst (canon_rmwReady h) e

theorem canon_virtReadyGo (v : Via) : ∀ (f : Nat) (s : State) (a n : Nat), s.Canon → (virtReadyGo v f s a n).1.Canon
  | 0, _, _, _, h => h
  | f + 1, s, a, n, h => by
    unfold virtReadyGo; split
    · exact h
    · dsimp only
      have h1 := canon_translate (a := v.walkArg a) (n := .w) h
      split
      · next e => exact canon_fst h1 e
      · next s1 pa e =>
        have h2 := canon_fst h1 e
        split <;> next e => first
          | exact canon_virtReadyGo v f _ _ _ (canon_fst (canon_physReady h2) e)
          | exact canon_fst (canon_physReady h2) e

theorem canon_virtReady {v : Via} {s : State} {a n : Nat} (h : s.Canon) : (virtReady v s a n).1.Canon := canon_virtReadyGo _ _ _ _ _ h

/-! ## Notices, fetching, faults -/

theorem canon_ringWrite {s : State} {v : Via} {b : List Byte} (h : s.Canon) : (ringWrite s v b).1.Canon := by
  unfold ringWrite; dsimp only; split
  · next e => exact canon_fst (canon_virtRead h) e
  · next e =>
    have h1 := canon_fst (canon_virtRead h) e
    split
    · next e => exact canon_fst (canon_virtReady h1) e
    · next e =>
      have h2 := canon_fst (canon_virtReady h1) e
      split
      · next e => exact canon_fst (canon_virtReady h2) e
      · next e => exact canon_virtWrite (canon_virtWrite (canon_fst (canon_virtReady h2) e))

theorem canon_notice {s : State} {d c : Nat} {n : Notice} (h : s.Canon) : (notice s d c n).Canon := by
  unfold notice; dsimp only
  have hr : ∀ v b, (if (ctxNrbase s c == 0) = true then (s, false) else ringWrite s v b).1.Canon := fun v b => by
    split
    · exact h
    · exact canon_ringWrite h
  exact canon_ite (hr _ _) (canon_escalate (hr _ _))

theorem canon_signalPacket {s : State} {d c t : Nat} {g : Word} {st : Nat} {b : Word} (h : s.Canon) :
    (signalPacket s d c t g st b).Canon := by
  unfold signalPacket; split
  · exact h
  · dsimp only; split
    · next e => exact canon_fst (canon_virtRmw h) e
    · next e => exact canon_notice (canon_fst (canon_virtRmw h) e)

theorem canon_fillLine {s : State} {core ctx tag line : Nat} (h : s.Canon) : (fillLine s core ctx tag line).1.Canon := by
  unfold fillLine; dsimp only
  have h1 := canon_translate (a := { die := dieOf core, ctx := ctx, tag := tag, va := line * 128 % 2 ^ 64 }) (n := .x) h
  split
  · next e => rw [e] at h1; exact h1
  · next s1 pa e =>
    rw [e] at h1
    have h2 := canon_physReadAs (w := none) (p := .x) (m := { ident := idChute (dieOf core), ctx := some ctx }) (t := tag) (a := pa) (n := 128) h1
    dsimp only at h2
    split
    · next e => rw [e] at h2; exact h2
    · next e => rw [e] at h2; exact canon_updCore h2

theorem canon_fetchUnit {s : State} {core ctx tag : Nat} {va : Word} (h : s.Canon) : (fetchUnit s core ctx tag va).1.Canon := by
  unfold fetchUnit; split
  · exact h
  · dsimp only; split
    · exact h
    · have h1 := canon_fillLine (core := core) (ctx := ctx) (tag := tag) (line := va.toNat / 128) h
      split <;> next e => rw [e] at h1; exact h1

theorem canon_retireIfDead {s : State} {g : GId} (h : s.Canon) : (retireIfDead s g).Canon := by
  unfold retireIfDead; dsimp only; split <;> exact h

theorem canon_raiseFor {s : State} {g : GId} {f : Nat} (h : s.Canon) : (raiseFor s g f).Canon := by
  unfold raiseFor; split <;> exact h

theorem canon_noteLevel {s : State} {g : GId} {n l : Nat} (h : s.Canon) : (noteLevel s g n l).Canon := canon_updCore h

theorem canon_noteRun {e : EngBy} {d : Need} : ∀ (f : Nat) (s : State) (a n : Nat), s.Canon → (noteRun e d f s a n).Canon
  | 0, _, _, _, h => h
  | f + 1, s, a, n, h => by
    unfold noteRun; dsimp only; split
    · exact h
    · split
      · next x => exact canon_fst (canon_translate h) x
      · next x => exact canon_noteRun f _ _ _ (canon_noteLevel (canon_fst (canon_translate h) x))

theorem canon_copyFailSignal {s : State} {l : Launch} {c : Nat} {o : CopyOp} {e : Nat} (h : s.Canon) :
    (copyFailSignal s l c o e).Canon := by
  unfold copyFailSignal; split
  · exact canon_virtRmw (canon_noteRun _ _ _ _ h)
  · exact h

theorem canon_freeLocks {s : State} {t : Nat} {l : List Nat} (h : s.Canon) : (freeLocks s t l).Canon :=
  canon_foldl (fun _ _ h => canon_updWg h) _ _ h

theorem canon_abandonEngines {s : State} {l : Launch} {c e : Nat} {b : Bool} {p : Nat → Bool} (h : s.Canon) :
    (abandonEngines s l c e b p).Canon := by
  unfold abandonEngines; dsimp only
  apply canon_updLaunch
  apply canon_foldl (fun _ _ h => canon_updGroup h)
  apply canon_foldl (fun _ _ h => canon_raiseFor (canon_updGroup h))
  split
  · exact canon_foldl (fun _ _ h => canon_copyFailSignal h) _ _ (canon_freeLocks (canon_updWg h))
  · exact canon_freeLocks (canon_updWg h)

theorem canon_failBoom {s : State} {p : BoomOp → Bool} {c : Nat} (h : s.Canon) : (failBoom s p c).Canon := by
  have h1 := canon_foldl (f := fun (s : State) (o : BoomOp) => s.updLaunch o.gid.tag (fun l => { l with pwt := l.pwt ++
      [({ kind := 6, grp := o.gid.grp, core := o.gid.core, word := o.word, done := 0, where_ := 0 } : PwEntry)] }))
    (fun _ _ h => canon_updLaunch h) (s.boomOps.filter (fun o => p o && !o.ended && o.status == none)) s h
  exact canon_foldl (fun _ _ h => canon_boomPost h) _ { List.foldl _ s _ with boomOps := _ } h1

theorem canon_haltGroup {s : State} {g : GId} {x : Skip} {b : Bool} (h : s.Canon) : (haltGroup s g x b).Canon :=
  canon_freezeBoom (canon_putReg (canon_updGroup (canon_abortRegion h)))

theorem canon_stopGroup {s : State} {g : GId} (h : s.Canon) : (stopGroup s g).Canon := by
  unfold stopGroup; dsimp only; split
  · exact canon_abortRegion h
  · exact canon_updLaunch (canon_setGroup (canon_abortRegion h))

theorem canon_cutTags {s : State} {c : Nat} {p : GId → Bool} (h : s.Canon) : (cutTags s c p).Canon := canon_updCore h

theorem canon_terminate {s : State} {t st : Nat} {c : Option GId} {f : Nat} (h : s.Canon) : (terminate s t st c f).Canon := by
  unfold terminate; dsimp only; split
  · exact h
  · apply canon_failBoom
    apply canon_foldl (fun _ _ h => canon_abandonEngines h)
    apply canon_foldl (fun _ _ h => canon_stopGroup h)
    apply canon_foldl (fun _ _ h => canon_cutTags h)
    exact canon_updLaunch h

theorem canon_enterHandler {s : State} {g : GId} {k : Nat} {t : Trap} {ha : Word} {w : List Wait} (h : s.Canon) :
    (enterHandler s g k t ha w).Canon := by
  unfold enterHandler; dsimp only
  split
  · next e => exact canon_fst (canon_fetchUnit (canon_updGroup (canon_abortRegion h))) e
  · next e => exact canon_terminate (canon_fst (canon_fetchUnit (canon_updGroup (canon_abortRegion h))) e)

/-- Taking a fault keeps the byte lists canonical, whether the word's region aborts, a handler is entered or the launch ends. -/
theorem canon_takeTrap {s : State} {t : Trap} (h : s.Canon) : (takeTrap s t).Canon := by
  have ht : ∀ f c, (endWord (terminate (s.setGroup s.iss.gid (setFault (cg s) t)) s.iss.gid.tag c (some s.iss.gid) f)).Canon :=
    fun _ _ => canon_endWord (canon_terminate (canon_setGroup h))
  unfold takeTrap
  refine canon_ite (canon_endWord (canon_abortRegion h)) (canon_ite (ht _ _) ?_)
  split
  · exact canon_endWord (canon_enterHandler h)
  · exact ht _ _

theorem canon_holdEvent {s : State} {g : GId} {e : HeldEv} (h : s.Canon) : (holdEvent s g e).Canon := by
  unfold holdEvent; dsimp only; split
  · split
    · exact h
    · exact canon_terminate h
  · split <;> exact h

theorem canon_returnFrom {s : State} {g : GId} {k : Kept} {m : Nat} (h : s.Canon) : (returnFrom s g k m).Canon :=
  canon_retireIfDead (canon_resumeTiles (canon_setGroup h))

end Sys2Proof.Machine
end

