-- ==== Sys2Proof/Laws/Exec.lean ====
section
/-!
SUPPORT. What `exec` does with each constructor: one equation per arm, so that no proof unfolds the dispatch.
-/

namespace Sys2Proof.Machine

@[simp] theorem exec_nop s : exec .nop s = execNop s := rfl
@[simp] theorem exec_sAdd d a b s : exec (.sAdd d a b) s = execSAdd d a b s := rfl
@[simp] theorem exec_sSub d a b s : exec (.sSub d a b) s = execSSub d a b s := rfl
@[simp] theorem exec_sAddi d a imm s : exec (.sAddi d a imm) s = execSAddi d a imm s := rfl
@[simp] theorem exec_sMul d a b s : exec (.sMul d a b) s = execSMul d a b s := rfl
@[simp] theorem exec_sMulh d a b s : exec (.sMulh d a b) s = execSMulh d a b s := rfl
@[simp] theorem exec_sMulhz d a b s : exec (.sMulhz d a b) s = execSMulhz d a b s := rfl
@[simp] theorem exec_sDiv d a b s : exec (.sDiv d a b) s = execSDiv d a b s := rfl
@[simp] theorem exec_sDivz d a b s : exec (.sDivz d a b) s = execSDivz d a b s := rfl
@[simp] theorem exec_sRem d a b s : exec (.sRem d a b) s = execSRem d a b s := rfl
@[simp] theorem exec_sRemz d a b s : exec (.sRemz d a b) s = execSRemz d a b s := rfl
@[simp] theorem exec_sAnd d a b s : exec (.sAnd d a b) s = execSAnd d a b s := rfl
@[simp] theorem exec_sOr d a b s : exec (.sOr d a b) s = execSOr d a b s := rfl
@[simp] theorem exec_sXor d a b s : exec (.sXor d a b) s = execSXor d a b s := rfl
@[simp] theorem exec_sAndi d a imm s : exec (.sAndi d a imm) s = execSAndi d a imm s := rfl
@[simp] theorem exec_sOri d a imm s : exec (.sOri d a imm) s = execSOri d a imm s := rfl
@[simp] theorem exec_sXori d a imm s : exec (.sXori d a imm) s = execSXori d a imm s := rfl
@[simp] theorem exec_sNot d a s : exec (.sNot d a) s = execSNot d a s := rfl
@[simp] theorem exec_sShl d a n s : exec (.sShl d a n) s = execSShl d a n s := rfl
@[simp] theorem exec_sShr d a n s : exec (.sShr d a n) s = execSShr d a n s := rfl
@[simp] theorem exec_sSra d a n s : exec (.sSra d a n) s = execSSra d a n s := rfl
@[simp] theorem exec_sRot d a n s : exec (.sRot d a n) s = execSRot d a n s := rfl
@[simp] theorem exec_sClz d a s : exec (.sClz d a) s = execSClz d a s := rfl
@[simp] theorem exec_sPopc d a s : exec (.sPopc d a) s = execSPopc d a s := rfl
@[simp] theorem exec_sBfx d a sx len pos s : exec (.sBfx d a sx len pos) s = execSBfx d a sx len pos s := rfl
@[simp] theorem exec_sBfi d a len pos s : exec (.sBfi d a len pos) s = execSBfi d a len pos s := rfl
@[simp] theorem exec_sMin d a b s : exec (.sMin d a b) s = execSMin d a b s := rfl
@[simp] theorem exec_sMax d a b s : exec (.sMax d a b) s = execSMax d a b s := rfl
@[simp] theorem exec_sMinz d a b s : exec (.sMinz d a b) s = execSMinz d a b s := rfl
@[simp] theorem exec_sMaxz d a b s : exec (.sMaxz d a b) s = execSMaxz d a b s := rfl
@[simp] theorem exec_sSel d a b c s : exec (.sSel d a b c) s = execSSel d a b c s := rfl
@[simp] theorem exec_sCmp d a b code s : exec (.sCmp d a b code) s = execSCmp d a b code s := rfl
@[simp] theorem exec_sMovi d imm s : exec (.sMovi d imm) s = execSMovi d imm s := rfl
@[simp] theorem exec_sMovhi d a imm s : exec (.sMovhi d a imm) s = execSMovhi d a imm s := rfl
@[simp] theorem exec_sLea d imm s : exec (.sLea d imm) s = execSLea d imm s := rfl
@[simp] theorem exec_sSetfmtImm imm s : exec (.sSetfmtImm imm) s = execSSetfmtImm imm s := rfl
@[simp] theorem exec_sSetfmtReg a s : exec (.sSetfmtReg a) s = execSSetfmtReg a s := rfl
@[simp] theorem exec_sGetfmt d s : exec (.sGetfmt d) s = execSGetfmt d s := rfl
@[simp] theorem exec_sGset k a b code s : exec (.sGset k a b code) s = execSGset k a b code s := rfl
@[simp] theorem exec_sGclr k s : exec (.sGclr k) s = execSGclr k s := rfl
@[simp] theorem exec_br off s : exec (.br off) s = execBr off s := rfl
@[simp] theorem exec_bcc a b code off s : exec (.bcc a b code off) s = execBcc a b code off s := rfl
@[simp] theorem exec_jmp a imm s : exec (.jmp a imm) s = execJmp a imm s := rfl
@[simp] theorem exec_brx a b limit s : exec (.brx a b limit) s = execBrx a b limit s := rfl
@[simp] theorem exec_call mt off s : exec (.call mt off) s = execCall mt off s := rfl
@[simp] theorem exec_callx mt a s : exec (.callx mt a) s = execCallx mt a s := rfl
@[simp] theorem exec_ret a s : exec (.ret a) s = execRet a s := rfl
@[simp] theorem exec_loopS d off s : exec (.loopS d off) s = execLoopS d off s := rfl
@[simp] theorem exec_sYield s : exec .sYield s = execSYield s := rfl
@[simp] theorem exec_sEnd s : exec .sEnd s = execSEnd s := rfl
@[simp] theorem exec_barGrp kind s : exec (.barGrp kind) s = execBarGrp kind s := rfl
@[simp] theorem exec_barBlk kind n s : exec (.barBlk kind n) s = execBarBlk kind n s := rfl
@[simp] theorem exec_barClu kind n s : exec (.barClu kind n) s = execBarClu kind n s := rfl
@[simp] theorem exec_barGrid kind n s : exec (.barGrid kind n) s = execBarGrid kind n s := rfl
@[simp] theorem exec_wait c s : exec (.wait c) s = execWait c s := rfl
@[simp] theorem exec_gLd k a b off scope acc code s : exec (.gLd k a b off scope acc code) s = execGLd k a b off scope acc code s := rfl
@[simp] theorem exec_draw n k s : exec (.draw n k) s = execDraw n k s := rfl
@[simp] theorem exec_deal n s : exec (.deal n) s = execDeal n s := rfl
@[simp] theorem exec_idem s : exec .idem s = execIdem s := rfl
@[simp] theorem exec_sGetsr d num s : exec (.sGetsr d num) s = execSGetsr d num s := rfl
@[simp] theorem exec_sSetsr num a s : exec (.sSetsr num a) s = execSSetsr num a s := rfl
@[simp] theorem exec_sSys d sel s : exec (.sSys d sel) s = execSSys d sel s := rfl
@[simp] theorem exec_trap e s : exec (.trap e) s = execTrap e s := rfl
@[simp] theorem exec_brk e s : exec (.brk e) s = execBrk e s := rfl
@[simp] theorem exec_rett mode s : exec (.rett mode) s = execRett mode s := rfl
@[simp] theorem exec_sBudget d sel s : exec (.sBudget d sel) s = execSBudget d sel s := rfl
@[simp] theorem exec_halt s : exec .halt s = execHalt s := rfl
@[simp] theorem exec_ifence a b s : exec (.ifence a b) s = execIfence a b s := rfl
@[simp] theorem exec_mZero d s : exec (.mZero d) s = execMZero d s := rfl
@[simp] theorem exec_mMma d a b k la lb s : exec (.mMma d a b k la lb) s = execMMma d a b k la lb s := rfl
@[simp] theorem exec_mMmas d a b k la lb i nc s : exec (.mMmas d a b k la lb i nc) s = execMMmas d a b k la lb i nc s := rfl
@[simp] theorem exec_mLd d a ty w l s : exec (.mLd d a ty w l) s = execMLd d a ty w l s := rfl
@[simp] theorem exec_mSt d a ty w l s : exec (.mSt d a ty w l) s = execMSt d a ty w l s := rfl
@[simp] theorem exec_mXpose d r s : exec (.mXpose d r) s = execMXpose d r s := rfl
@[simp] theorem exec_mPerm d r p s : exec (.mPerm d r p) s = execMPerm d r p s := rfl
@[simp] theorem exec_mRsum d r s : exec (.mRsum d r) s = execMRsum d r s := rfl
@[simp] theorem exec_mScale d r v s : exec (.mScale d r v) s = execMScale d r v s := rfl
@[simp] theorem exec_cCopy d a b ldst lsrc ord s : exec (.cCopy d a b ldst lsrc ord) s = execCCopy d a b ldst lsrc ord s := rfl
@[simp] theorem exec_cCopyt d a b ldst lsrc ord g s : exec (.cCopyt d a b ldst lsrc ord g) s = execCCopyt d a b ldst lsrc ord g s := rfl
@[simp] theorem exec_cFill d a byte ldst s : exec (.cFill d a byte ldst) s = execCFill d a byte ldst s := rfl
@[simp] theorem exec_cSend d a b lsrc ord tm treg s : exec (.cSend d a b lsrc ord tm treg) s = execCSend d a b lsrc ord tm treg s := rfl
@[simp] theorem exec_cSig a s : exec (.cSig a) s = execCSig a s := rfl
@[simp] theorem exec_xAllred a op ty w s : exec (.xAllred a op ty w) s = execXAllred a op ty w s := rfl
@[simp] theorem exec_xAllmax a ty s : exec (.xAllmax a ty) s = execXAllmax a ty s := rfl
@[simp] theorem exec_xBcast a ty s : exec (.xBcast a ty) s = execXBcast a ty s := rfl
@[simp] theorem exec_xGather a ty s : exec (.xGather a ty) s = execXGather a ty s := rfl
@[simp] theorem exec_xWait d s : exec (.xWait d) s = execXWait d s := rfl
@[simp] theorem exec_vNop s : exec .vNop s = execVNop s := rfl
@[simp] theorem exec_vAdd m o t s : exec (.vAdd m o t) s = execVAdd m o t s := rfl
@[simp] theorem exec_vSub m o t s : exec (.vSub m o t) s = execVSub m o t s := rfl
@[simp] theorem exec_vMul m o t s : exec (.vMul m o t) s = execVMul m o t s := rfl
@[simp] theorem exec_vMad m o t s : exec (.vMad m o t) s = execVMad m o t s := rfl
@[simp] theorem exec_vMulhi m o t s : exec (.vMulhi m o t) s = execVMulhi m o t s := rfl
@[simp] theorem exec_vMin m o t s : exec (.vMin m o t) s = execVMin m o t s := rfl
@[simp] theorem exec_vMax m o t s : exec (.vMax m o t) s = execVMax m o t s := rfl
@[simp] theorem exec_vAbs m o t s : exec (.vAbs m o t) s = execVAbs m o t s := rfl
@[simp] theorem exec_vNeg m o t s : exec (.vNeg m o t) s = execVNeg m o t s := rfl
@[simp] theorem exec_vAnd m o t s : exec (.vAnd m o t) s = execVAnd m o t s := rfl
@[simp] theorem exec_vOr m o t s : exec (.vOr m o t) s = execVOr m o t s := rfl
@[simp] theorem exec_vXor m o t s : exec (.vXor m o t) s = execVXor m o t s := rfl
@[simp] theorem exec_vNot m o t s : exec (.vNot m o t) s = execVNot m o t s := rfl
@[simp] theorem exec_vShl m o t s : exec (.vShl m o t) s = execVShl m o t s := rfl
@[simp] theorem exec_vShr m o t s : exec (.vShr m o t) s = execVShr m o t s := rfl
@[simp] theorem exec_vSra m o t s : exec (.vSra m o t) s = execVSra m o t s := rfl
@[simp] theorem exec_vClz m o t s : exec (.vClz m o t) s = execVClz m o t s := rfl
@[simp] theorem exec_vPopc m o t s : exec (.vPopc m o t) s = execVPopc m o t s := rfl
@[simp] theorem exec_vAddImm m o t s : exec (.vAddImm m o t) s = execVAddImm m o t s := rfl
@[simp] theorem exec_vSubImm m o t s : exec (.vSubImm m o t) s = execVSubImm m o t s := rfl
@[simp] theorem exec_vMulImm m o t s : exec (.vMulImm m o t) s = execVMulImm m o t s := rfl
@[simp] theorem exec_vMinImm m o t s : exec (.vMinImm m o t) s = execVMinImm m o t s := rfl
@[simp] theorem exec_vMaxImm m o t s : exec (.vMaxImm m o t) s = execVMaxImm m o t s := rfl
@[simp] theorem exec_vAndImm m o t s : exec (.vAndImm m o t) s = execVAndImm m o t s := rfl
@[simp] theorem exec_vOrImm m o t s : exec (.vOrImm m o t) s = execVOrImm m o t s := rfl
@[simp] theorem exec_vXorImm m o t s : exec (.vXorImm m o t) s = execVXorImm m o t s := rfl
@[simp] theorem exec_vShlImm m o t s : exec (.vShlImm m o t) s = execVShlImm m o t s := rfl
@[simp] theorem exec_vShrImm m o t s : exec (.vShrImm m o t) s = execVShrImm m o t s := rfl
@[simp] theorem exec_vSraImm m o t s : exec (.vSraImm m o t) s = execVSraImm m o t s := rfl
@[simp] theorem exec_vBfx m fq vd va t len pos s : exec (.vBfx m fq vd va t len pos) s = execVBfx m fq vd va t len pos s := rfl
@[simp] theorem exec_vSel m fq vd va vb k s : exec (.vSel m fq vd va vb k) s = execVSel m fq vd va vb k s := rfl
@[simp] theorem exec_vMov m o s : exec (.vMov m o) s = execVMov m o s := rfl
@[simp] theorem exec_vMovi m fq vd t imm s : exec (.vMovi m fq vd t imm) s = execVMovi m fq vd t imm s := rfl
@[simp] theorem exec_vMovs m fq vd r hi s : exec (.vMovs m fq vd r hi) s = execVMovs m fq vd r hi s := rfl
@[simp] theorem exec_vLane m fq vd sel s : exec (.vLane m fq vd sel) s = execVLane m fq vd sel s := rfl
@[simp] theorem exec_vCmpEq m fq k va vb t s : exec (.vCmpEq m fq k va vb t) s = execVCmpEq m fq k va vb t s := rfl
@[simp] theorem exec_vCmpNe m fq k va vb t s : exec (.vCmpNe m fq k va vb t) s = execVCmpNe m fq k va vb t s := rfl
@[simp] theorem exec_vCmpLt m fq k va vb t s : exec (.vCmpLt m fq k va vb t) s = execVCmpLt m fq k va vb t s := rfl
@[simp] theorem exec_vCmpLe m fq k va vb t s : exec (.vCmpLe m fq k va vb t) s = execVCmpLe m fq k va vb t s := rfl
@[simp] theorem exec_vCmpGt m fq k va vb t s : exec (.vCmpGt m fq k va vb t) s = execVCmpGt m fq k va vb t s := rfl
@[simp] theorem exec_vCmpGe m fq k va vb t s : exec (.vCmpGe m fq k va vb t) s = execVCmpGe m fq k va vb t s := rfl
@[simp] theorem exec_vCmpEqImm m fq k va t imm s : exec (.vCmpEqImm m fq k va t imm) s = execVCmpEqImm m fq k va t imm s := rfl
@[simp] theorem exec_vCmpNeImm m fq k va t imm s : exec (.vCmpNeImm m fq k va t imm) s = execVCmpNeImm m fq k va t imm s := rfl
@[simp] theorem exec_vCmpLtImm m fq k va t imm s : exec (.vCmpLtImm m fq k va t imm) s = execVCmpLtImm m fq k va t imm s := rfl
@[simp] theorem exec_vCmpLeImm m fq k va t imm s : exec (.vCmpLeImm m fq k va t imm) s = execVCmpLeImm m fq k va t imm s := rfl
@[simp] theorem exec_vCmpGtImm m fq k va t imm s : exec (.vCmpGtImm m fq k va t imm) s = execVCmpGtImm m fq k va t imm s := rfl
@[simp] theorem exec_vCmpGeImm m fq k va t imm s : exec (.vCmpGeImm m fq k va t imm) s = execVCmpGeImm m fq k va t imm s := rfl
@[simp] theorem exec_vFadd m o t s : exec (.vFadd m o t) s = execVFadd m o t s := rfl
@[simp] theorem exec_vFsub m o t s : exec (.vFsub m o t) s = execVFsub m o t s := rfl
@[simp] theorem exec_vFmul m o t s : exec (.vFmul m o t) s = execVFmul m o t s := rfl
@[simp] theorem exec_vFma m o t s : exec (.vFma m o t) s = execVFma m o t s := rfl
@[simp] theorem exec_vFmin m o t s : exec (.vFmin m o t) s = execVFmin m o t s := rfl
@[simp] theorem exec_vFmax m o t s : exec (.vFmax m o t) s = execVFmax m o t s := rfl
@[simp] theorem exec_vFclass m fq vd va t s : exec (.vFclass m fq vd va t) s = execVFclass m fq vd va t s := rfl
@[simp] theorem exec_vTwosum m fq vd va vb vc s : exec (.vTwosum m fq vd va vb vc) s = execVTwosum m fq vd va vb vc s := rfl
@[simp] theorem exec_vFcmpEq m fq k va vb t s : exec (.vFcmpEq m fq k va vb t) s = execVFcmpEq m fq k va vb t s := rfl
@[simp] theorem exec_vFcmpNe m fq k va vb t s : exec (.vFcmpNe m fq k va vb t) s = execVFcmpNe m fq k va vb t s := rfl
@[simp] theorem exec_vFcmpLt m fq k va vb t s : exec (.vFcmpLt m fq k va vb t) s = execVFcmpLt m fq k va vb t s := rfl
@[simp] theorem exec_vFcmpLe m fq k va vb t s : exec (.vFcmpLe m fq k va vb t) s = execVFcmpLe m fq k va vb t s := rfl
@[simp] theorem exec_vFcmpGt m fq k va vb t s : exec (.vFcmpGt m fq k va vb t) s = execVFcmpGt m fq k va vb t s := rfl
@[simp] theorem exec_vFcmpGe m fq k va vb t s : exec (.vFcmpGe m fq k va vb t) s = execVFcmpGe m fq k va vb t s := rfl
@[simp] theorem exec_vCvt m fq vd va src dst s : exec (.vCvt m fq vd va src dst) s = execVCvt m fq vd va src dst s := rfl
@[simp] theorem exec_vPack m fq vd va vb t s : exec (.vPack m fq vd va vb t) s = execVPack m fq vd va vb t s := rfl
@[simp] theorem exec_vUnpack m fq vd va hi t s : exec (.vUnpack m fq vd va hi t) s = execVUnpack m fq vd va hi t s := rfl
@[simp] theorem exec_vQpack m fq vd va vc w s : exec (.vQpack m fq vd va vc w) s = execVQpack m fq vd va vc w s := rfl
@[simp] theorem exec_vQunpack m fq vd va vb w s : exec (.vQunpack m fq vd va vb w) s = execVQunpack m fq vd va vb w s := rfl
@[simp] theorem exec_vRcp m o t s : exec (.vRcp m o t) s = execVRcp m o t s := rfl
@[simp] theorem exec_vRsqrt m o t s : exec (.vRsqrt m o t) s = execVRsqrt m o t s := rfl
@[simp] theorem exec_vSqrt m o t s : exec (.vSqrt m o t) s = execVSqrt m o t s := rfl
@[simp] theorem exec_vExp2 m o t s : exec (.vExp2 m o t) s = execVExp2 m o t s := rfl
@[simp] theorem exec_vLog2 m o t s : exec (.vLog2 m o t) s = execVLog2 m o t s := rfl
@[simp] theorem exec_vSinpi m o t s : exec (.vSinpi m o t) s = execVSinpi m o t s := rfl
@[simp] theorem exec_vCospi m o t s : exec (.vCospi m o t) s = execVCospi m o t s := rfl
@[simp] theorem exec_vShfl m fq vd va src mode s : exec (.vShfl m fq vd va src mode) s = execVShfl m fq vd va src mode s := rfl
@[simp] theorem exec_vBcast m fq vd va src s : exec (.vBcast m fq vd va src) s = execVBcast m fq vd va src s := rfl
@[simp] theorem exec_vRedx m fq vd va op t s : exec (.vRedx m fq vd va op t) s = execVRedx m fq vd va op t s := rfl
@[simp] theorem exec_vScan m fq vd va x op t s : exec (.vScan m fq vd va x op t) s = execVScan m fq vd va x op t s := rfl
@[simp] theorem exec_vBallot m fq k va t s : exec (.vBallot m fq k va t) s = execVBallot m fq k va t s := rfl
@[simp] theorem exec_kAnd m fq d a b s : exec (.kAnd m fq d a b) s = execKAnd m fq d a b s := rfl
@[simp] theorem exec_kOr m fq d a b s : exec (.kOr m fq d a b) s = execKOr m fq d a b s := rfl
@[simp] theorem exec_kXor m fq d a b s : exec (.kXor m fq d a b) s = execKXor m fq d a b s := rfl
@[simp] theorem exec_kNot m fq d a s : exec (.kNot m fq d a) s = execKNot m fq d a s := rfl
@[simp] theorem exec_kMov m fq d a s : exec (.kMov m fq d a) s = execKMov m fq d a s := rfl
@[simp] theorem exec_kPopc m fq vd a s : exec (.kPopc m fq vd a) s = execKPopc m fq vd a s := rfl
@[simp] theorem exec_kFirst m fq d a s : exec (.kFirst m fq d a) s = execKFirst m fq d a s := rfl
@[simp] theorem exec_ld o s : exec (.ld o) s = execLd o s := rfl
@[simp] theorem exec_st o s : exec (.st o) s = execSt o s := rfl
@[simp] theorem exec_ldv o s : exec (.ldv o) s = execLdv o s := rfl
@[simp] theorem exec_stv o s : exec (.stv o) s = execStv o s := rfl
@[simp] theorem exec_lds o s : exec (.lds o) s = execLds o s := rfl
@[simp] theorem exec_sts o s : exec (.sts o) s = execSts o s := rfl
@[simp] theorem exec_ldsv o s : exec (.ldsv o) s = execLdsv o s := rfl
@[simp] theorem exec_stsv o s : exec (.stsv o) s = execStsv o s := rfl
@[simp] theorem exec_rdc o s : exec (.rdc o) s = execRdc o s := rfl
@[simp] theorem exec_stLog o s : exec (.stLog o) s = execStLog o s := rfl
@[simp] theorem exec_tlogFlush o s : exec (.tlogFlush o) s = execTlogFlush o s := rfl
@[simp] theorem exec_tlogLen o s : exec (.tlogLen o) s = execTlogLen o s := rfl
@[simp] theorem exec_fence o s : exec (.fence o) s = execFence o s := rfl
@[simp] theorem exec_waitw o s : exec (.waitw o) s = execWaitw o s := rfl
@[simp] theorem exec_pf o s : exec (.pf o) s = execPf o s := rfl
@[simp] theorem exec_ipf o s : exec (.ipf o) s = execIpf o s := rfl
@[simp] theorem exec_atomAdd o s : exec (.atomAdd o) s = execAtomAdd o s := rfl
@[simp] theorem exec_atomMin o s : exec (.atomMin o) s = execAtomMin o s := rfl
@[simp] theorem exec_atomMax o s : exec (.atomMax o) s = execAtomMax o s := rfl
@[simp] theorem exec_atomAnd o s : exec (.atomAnd o) s = execAtomAnd o s := rfl
@[simp] theorem exec_atomOr o s : exec (.atomOr o) s = execAtomOr o s := rfl
@[simp] theorem exec_atomXor o s : exec (.atomXor o) s = execAtomXor o s := rfl
@[simp] theorem exec_atomXchg o s : exec (.atomXchg o) s = execAtomXchg o s := rfl
@[simp] theorem exec_atomCas o s : exec (.atomCas o) s = execAtomCas o s := rfl
@[simp] theorem exec_redAdd o s : exec (.redAdd o) s = execRedAdd o s := rfl
@[simp] theorem exec_redMin o s : exec (.redMin o) s = execRedMin o s := rfl
@[simp] theorem exec_redMax o s : exec (.redMax o) s = execRedMax o s := rfl
@[simp] theorem exec_redAnd o s : exec (.redAnd o) s = execRedAnd o s := rfl
@[simp] theorem exec_redOr o s : exec (.redOr o) s = execRedOr o s := rfl
@[simp] theorem exec_redXor o s : exec (.redXor o) s = execRedXor o s := rfl
@[simp] theorem exec_redFadd o s : exec (.redFadd o) s = execRedFadd o s := rfl
@[simp] theorem exec_redFaddc o s : exec (.redFaddc o) s = execRedFaddc o s := rfl
@[simp] theorem exec_elide o s : exec (.elide o) s = execElide o s := rfl
@[simp] theorem exec_elidend o s : exec (.elidend o) s = execElidend o s := rfl
@[simp] theorem exec_eliabort o s : exec (.eliabort o) s = execEliabort o s := rfl
@[simp] theorem exec_brv k off s : exec (.brv k off) s = execBrv k off s := rfl
@[simp] theorem exec_join s : exec .join s = execJoin s := rfl
@[simp] theorem exec_meld k off s : exec (.meld k off) s = execMeld k off s := rfl
@[simp] theorem exec_meldend s : exec .meldend s = execMeldend s := rfl
@[simp] theorem exec_demote fq k s : exec (.demote fq k) s = execDemote fq k s := rfl
@[simp] theorem exec_exit fq k s : exec (.exit fq k) s = execExit fq k s := rfl
@[simp] theorem exec_loopv v off s : exec (.loopv v off) s = execLoopv v off s := rfl
@[simp] theorem exec_loopvEnd s : exec .loopvEnd s = execLoopvEnd s := rfl
@[simp] theorem exec_bany k off s : exec (.bany k off) s = execBany k off s := rfl
@[simp] theorem exec_ball k off s : exec (.ball k off) s = execBall k off s := rfl
@[simp] theorem exec_yRfetch d a b s : exec (.yRfetch d a b) s = execYRfetch d a b s := rfl
@[simp] theorem exec_yBfx d a b s : exec (.yBfx d a b) s = execYBfx d a b s := rfl
@[simp] theorem exec_ySwait d a b s : exec (.ySwait d a b) s = execYSwait d a b s := rfl
@[simp] theorem exec_yDisp d a b s : exec (.yDisp d a b) s = execYDisp d a b s := rfl
@[simp] theorem exec_ySwaitWake y s : exec (.ySwaitWake y) s = execYSwaitWake y s := rfl
@[simp] theorem exec_spinDemotion g s : exec (.spinDemotion g) s = execSpinDemotion g s := rfl
@[simp] theorem exec_loadCompletion g s : exec (.loadCompletion g) s = execLoadCompletion g s := rfl
@[simp] theorem exec_storeCompletion g s : exec (.storeCompletion g) s = execStoreCompletion g s := rfl
@[simp] theorem exec_homeSliceAccess g op acc s : exec (.homeSliceAccess g op acc) s = execHomeSliceAccess g op acc s := rfl
@[simp] theorem exec_tileFetch tile bad s : exec (.tileFetch tile bad) s = execTileFetch tile bad s := rfl
@[simp] theorem exec_tileEviction tile s : exec (.tileEviction tile) s = execTileEviction tile s := rfl
@[simp] theorem exec_lineBufferWriteBack core line s : exec (.lineBufferWriteBack core line) s = execLineBufferWriteBack core line s := rfl
@[simp] theorem exec_translationWalk die ctx va s : exec (.translationWalk die ctx va) s = execTranslationWalk die ctx va s := rfl
@[simp] theorem exec_chuteFill core line s : exec (.chuteFill core line) s = execChuteFill core line s := rfl
@[simp] theorem exec_ifenceDiscard g path s : exec (.ifenceDiscard g path) s = execIfenceDiscard g path s := rfl
@[simp] theorem exec_skidderCompletion core s : exec (.skidderCompletion core) s = execSkidderCompletion core s := rfl
@[simp] theorem exec_matrixKStep core s : exec (.matrixKStep core) s = execMatrixKStep core s := rfl
@[simp] theorem exec_tileOperationComplete core s : exec (.tileOperationComplete core) s = execTileOperationComplete core s := rfl
@[simp] theorem exec_boomOperationComplete g id s : exec (.boomOperationComplete g id) s = execBoomOperationComplete g id s := rfl
@[simp] theorem exec_barrierArrivalSignal g level n s : exec (.barrierArrivalSignal g level n) s = execBarrierArrivalSignal g level n s := rfl
@[simp] theorem exec_waitwWake g path s : exec (.waitwWake g path) s = execWaitwWake g path s := rfl
@[simp] theorem exec_drawWake g path s : exec (.drawWake g path) s = execDrawWake g path s := rfl
@[simp] theorem exec_dealEntry g path s : exec (.dealEntry g path) s = execDealEntry g path s := rfl
@[simp] theorem exec_elisionCommit g s : exec (.elisionCommit g) s = execElisionCommit g s := rfl
@[simp] theorem exec_eventDelivery g s : exec (.eventDelivery g) s = execEventDelivery g s := rfl
@[simp] theorem exec_launchCompletion tag s : exec (.launchCompletion tag) s = execLaunchCompletion tag s := rfl
@[simp] theorem exec_notify w s : exec (.notify w) s = execNotify w s := rfl
@[simp] theorem exec_notifyForward die s : exec (.notifyForward die) s = execNotifyForward die s := rfl
@[simp] theorem exec_queueTakeUp die s : exec (.queueTakeUp die) s = execQueueTakeUp die s := rfl
@[simp] theorem exec_abort w s : exec (.abort w) s = execAbort w s := rfl
@[simp] theorem exec_rearm w s : exec (.rearm w) s = execRearm w s := rfl
@[simp] theorem exec_query w s : exec (.query w) s = execQuery w s := rfl
@[simp] theorem exec_nrefusedClear die m v s : exec (.nrefusedClear die m v) s = execNrefusedClear die m v s := rfl
@[simp] theorem exec_packetDispatch q s : exec (.packetDispatch q) s = execPacketDispatch q s := rfl
@[simp] theorem exec_barrierSignalRead q pkt idx s : exec (.barrierSignalRead q pkt idx) s = execBarrierSignalRead q pkt idx s := rfl
@[simp] theorem exec_launchPlacement part s : exec (.launchPlacement part) s = execLaunchPlacement part s := rfl
@[simp] theorem exec_politeWindowExpiry tag s : exec (.politeWindowExpiry tag) s = execPoliteWindowExpiry tag s := rfl
@[simp] theorem exec_shadowSwap tag core s : exec (.shadowSwap tag core) s = execShadowSwap tag core s := rfl
@[simp] theorem exec_budgetOverrun tag s : exec (.budgetOverrun tag) s = execBudgetOverrun tag s := rfl
@[simp] theorem exec_budgetReport tag s : exec (.budgetReport tag) s = execBudgetReport tag s := rfl
@[simp] theorem exec_clklockWrite m v s : exec (.clklockWrite m v) s = execClklockWrite m v s := rfl
@[simp] theorem exec_clockChange s : exec .clockChange s = execClockChange s := rfl
@[simp] theorem exec_pwrgateWrite m die v s : exec (.pwrgateWrite m die v) s = execPwrgateWrite m die v s := rfl
@[simp] theorem exec_partitionWrite m p v s : exec (.partitionWrite m p v) s = execPartitionWrite m p v s := rfl
@[simp] theorem exec_accessWindowWrite m die group win v s : exec (.accessWindowWrite m die group win v) s = execAccessWindowWrite m die group win v s := rfl
@[simp] theorem exec_registerWrite m addr data s : exec (.registerWrite m addr data) s = execRegisterWrite m addr data s := rfl
@[simp] theorem exec_shootdownRequest m data s : exec (.shootdownRequest m data) s = execShootdownRequest m data s := rfl
@[simp] theorem exec_shootdownCompletion s : exec .shootdownCompletion s = execShootdownCompletion s := rfl
@[simp] theorem exec_attestationRequest m data s : exec (.attestationRequest m data) s = execAttestationRequest m data s := rfl
@[simp] theorem exec_mintreq m die data s : exec (.mintreq m die data) s = execMintreq m die data s := rfl
@[simp] theorem exec_svcResume m die v s : exec (.svcResume m die v) s = execSvcResume m die v s := rfl
@[simp] theorem exec_svcEnd m die v s : exec (.svcEnd m die v) s = execSvcEnd m die v s := rfl
@[simp] theorem exec_debugHaltLaunch m ctx v s : exec (.debugHaltLaunch m ctx v) s = execDebugHaltLaunch m ctx v s := rfl
@[simp] theorem exec_debugResumeLaunch m ctx v s : exec (.debugResumeLaunch m ctx v) s = execDebugResumeLaunch m ctx v s := rfl
@[simp] theorem exec_debugResumeGroup m ctx v s : exec (.debugResumeGroup m ctx v) s = execDebugResumeGroup m ctx v s := rfl
@[simp] theorem exec_gstateWrite m ctx off data s : exec (.gstateWrite m ctx off data) s = execGstateWrite m ctx off data s := rfl
@[simp] theorem exec_gpoolWrite m ctx off data s : exec (.gpoolWrite m ctx off data) s = execGpoolWrite m ctx off data s := rfl
@[simp] theorem exec_safePointHalt g path s : exec (.safePointHalt g path) s = execSafePointHalt g path s := rfl
@[simp] theorem exec_samplerTag g path s : exec (.samplerTag g path) s = execSamplerTag g path s := rfl
@[simp] theorem exec_sampleRecord core t s : exec (.sampleRecord core t) s = execSampleRecord core t s := rfl
@[simp] theorem exec_thermalTrip die s : exec (.thermalTrip die) s = execThermalTrip die s := rfl
@[simp] theorem exec_packageReset s : exec .packageReset s = execPackageReset s := rfl
@[simp] theorem exec_firmwareCheck image s : exec (.firmwareCheck image) s = execFirmwareCheck image s := rfl
@[simp] theorem exec_memoryTraining s : exec .memoryTraining s = execMemoryTraining s := rfl
@[simp] theorem exec_linkUp s : exec .linkUp s = execLinkUp s := rfl
@[simp] theorem exec_highleadRead r s : exec (.highleadRead r) s = execHighleadRead r s := rfl
@[simp] theorem exec_highleadWrite r s : exec (.highleadWrite r) s = execHighleadWrite r s := rfl
@[simp] theorem exec_highleadReadResponse die tag status data s : exec (.highleadReadResponse die tag status data) s = execHighleadReadResponse die tag status data s := rfl
@[simp] theorem exec_highleadWriteResponse die tag status s : exec (.highleadWriteResponse die tag status) s = execHighleadWriteResponse die tag status s := rfl
@[simp] theorem exec_highleadStop die s : exec (.highleadStop die) s = execHighleadStop die s := rfl
@[simp] theorem exec_highleadReplay die s : exec (.highleadReplay die) s = execHighleadReplay die s := rfl
@[simp] theorem exec_boomData b s : exec (.boomData b) s = execBoomData b s := rfl
@[simp] theorem exec_boomAcknowledgement b s : exec (.boomAcknowledgement b) s = execBoomAcknowledgement b s := rfl
@[simp] theorem exec_boomHaltNotice b s : exec (.boomHaltNotice b) s = execBoomHaltNotice b s := rfl
@[simp] theorem exec_boomResumeNotice b s : exec (.boomResumeNotice b) s = execBoomResumeNotice b s := rfl
@[simp] theorem exec_boomFailure b s : exec (.boomFailure b) s = execBoomFailure b s := rfl
@[simp] theorem exec_boomResend b s : exec (.boomResend b) s = execBoomResend b s := rfl
@[simp] theorem exec_collectiveTimeout g id s : exec (.collectiveTimeout g id) s = execCollectiveTimeout g id s := rfl
@[simp] theorem exec_senderReplay die n s : exec (.senderReplay die n) s = execSenderReplay die n s := rfl

end Sys2Proof.Machine
end

