-- ==== Sys2Proof/Laws/PerInstr.lean ====
section
/-!
SUPPORT. Statements made once per instruction, as syntax: an instruction is encoded in at most one place, the scalar slot, the vector
slot or a Yarder's word; an event in none (R94, R112, R114, R378).
-/

namespace Sys2Proof.Laws.OneSlot

/-- `i` has an encoding in at most one of the three places. -/
def Statement (i : Instr) : Prop :=
  (encodeScalar i = none ∨ encodeVector i = none) ∧ (encodeYarder i = none ∨ (encodeScalar i = none ∧ encodeVector i = none))

theorem nop : Statement .nop := ⟨.inr rfl, .inl rfl⟩
theorem sAdd d a b : Statement (.sAdd d a b) := ⟨.inr rfl, .inl rfl⟩
theorem sSub d a b : Statement (.sSub d a b) := ⟨.inr rfl, .inl rfl⟩
theorem sAddi d a imm : Statement (.sAddi d a imm) := ⟨.inr rfl, .inl rfl⟩
theorem sMul d a b : Statement (.sMul d a b) := ⟨.inr rfl, .inl rfl⟩
theorem sMulh d a b : Statement (.sMulh d a b) := ⟨.inr rfl, .inl rfl⟩
theorem sMulhz d a b : Statement (.sMulhz d a b) := ⟨.inr rfl, .inl rfl⟩
theorem sDiv d a b : Statement (.sDiv d a b) := ⟨.inr rfl, .inl rfl⟩
theorem sDivz d a b : Statement (.sDivz d a b) := ⟨.inr rfl, .inl rfl⟩
theorem sRem d a b : Statement (.sRem d a b) := ⟨.inr rfl, .inl rfl⟩
theorem sRemz d a b : Statement (.sRemz d a b) := ⟨.inr rfl, .inl rfl⟩
theorem sAnd d a b : Statement (.sAnd d a b) := ⟨.inr rfl, .inl rfl⟩
theorem sOr d a b : Statement (.sOr d a b) := ⟨.inr rfl, .inl rfl⟩
theorem sXor d a b : Statement (.sXor d a b) := ⟨.inr rfl, .inl rfl⟩
theorem sAndi d a imm : Statement (.sAndi d a imm) := ⟨.inr rfl, .inl rfl⟩
theorem sOri d a imm : Statement (.sOri d a imm) := ⟨.inr rfl, .inl rfl⟩
theorem sXori d a imm : Statement (.sXori d a imm) := ⟨.inr rfl, .inl rfl⟩
theorem sNot d a : Statement (.sNot d a) := ⟨.inr rfl, .inl rfl⟩
theorem sShl d a n : Statement (.sShl d a n) := ⟨.inr rfl, .inl rfl⟩
theorem sShr d a n : Statement (.sShr d a n) := ⟨.inr rfl, .inl rfl⟩
theorem sSra d a n : Statement (.sSra d a n) := ⟨.inr rfl, .inl rfl⟩
theorem sRot d a n : Statement (.sRot d a n) := ⟨.inr rfl, .inl rfl⟩
theorem sClz d a : Statement (.sClz d a) := ⟨.inr rfl, .inl rfl⟩
theorem sPopc d a : Statement (.sPopc d a) := ⟨.inr rfl, .inl rfl⟩
theorem sBfx d a sx len pos : Statement (.sBfx d a sx len pos) := ⟨.inr rfl, .inl rfl⟩
theorem sBfi d a len pos : Statement (.sBfi d a len pos) := ⟨.inr rfl, .inl rfl⟩
theorem sMin d a b : Statement (.sMin d a b) := ⟨.inr rfl, .inl rfl⟩
theorem sMax d a b : Statement (.sMax d a b) := ⟨.inr rfl, .inl rfl⟩
theorem sMinz d a b : Statement (.sMinz d a b) := ⟨.inr rfl, .inl rfl⟩
theorem sMaxz d a b : Statement (.sMaxz d a b) := ⟨.inr rfl, .inl rfl⟩
theorem sSel d a b c : Statement (.sSel d a b c) := ⟨.inr rfl, .inl rfl⟩
theorem sCmp d a b code : Statement (.sCmp d a b code) := ⟨.inr rfl, .inl rfl⟩
theorem sMovi d imm : Statement (.sMovi d imm) := ⟨.inr rfl, .inl rfl⟩
theorem sMovhi d a imm : Statement (.sMovhi d a imm) := ⟨.inr rfl, .inl rfl⟩
theorem sLea d imm : Statement (.sLea d imm) := ⟨.inr rfl, .inl rfl⟩
theorem sSetfmtImm imm : Statement (.sSetfmtImm imm) := ⟨.inr rfl, .inl rfl⟩
theorem sSetfmtReg a : Statement (.sSetfmtReg a) := ⟨.inr rfl, .inl rfl⟩
theorem sGetfmt d : Statement (.sGetfmt d) := ⟨.inr rfl, .inl rfl⟩
theorem sGset k a b code : Statement (.sGset k a b code) := ⟨.inr rfl, .inl rfl⟩
theorem sGclr k : Statement (.sGclr k) := ⟨.inr rfl, .inl rfl⟩
theorem br off : Statement (.br off) := ⟨.inr rfl, .inl rfl⟩
theorem bcc a b code off : Statement (.bcc a b code off) := ⟨.inr rfl, .inl rfl⟩
theorem jmp a imm : Statement (.jmp a imm) := ⟨.inr rfl, .inl rfl⟩
theorem brx a b limit : Statement (.brx a b limit) := ⟨.inr rfl, .inl rfl⟩
theorem call mt off : Statement (.call mt off) := ⟨.inr rfl, .inl rfl⟩
theorem callx mt a : Statement (.callx mt a) := ⟨.inr rfl, .inl rfl⟩
theorem ret a : Statement (.ret a) := ⟨.inr rfl, .inl rfl⟩
theorem loopS d off : Statement (.loopS d off) := ⟨.inr rfl, .inl rfl⟩
theorem sYield : Statement .sYield := ⟨.inr rfl, .inl rfl⟩
theorem sEnd : Statement .sEnd := ⟨.inr rfl, .inl rfl⟩
theorem barGrp kind : Statement (.barGrp kind) := ⟨.inr rfl, .inl rfl⟩
theorem barBlk kind n : Statement (.barBlk kind n) := ⟨.inr rfl, .inl rfl⟩
theorem barClu kind n : Statement (.barClu kind n) := ⟨.inr rfl, .inl rfl⟩
theorem barGrid kind n : Statement (.barGrid kind n) := ⟨.inr rfl, .inl rfl⟩
theorem wait c : Statement (.wait c) := ⟨.inr rfl, .inl rfl⟩
theorem gLd k a b off scope acc code : Statement (.gLd k a b off scope acc code) := ⟨.inr rfl, .inl rfl⟩
theorem draw n k : Statement (.draw n k) := ⟨.inr rfl, .inl rfl⟩
theorem deal n : Statement (.deal n) := ⟨.inr rfl, .inl rfl⟩
theorem idem : Statement .idem := ⟨.inr rfl, .inl rfl⟩
theorem sGetsr d num : Statement (.sGetsr d num) := ⟨.inr rfl, .inl rfl⟩
theorem sSetsr num a : Statement (.sSetsr num a) := ⟨.inr rfl, .inl rfl⟩
theorem sSys d sel : Statement (.sSys d sel) := ⟨.inr rfl, .inl rfl⟩
theorem trap e : Statement (.trap e) := ⟨.inr rfl, .inl rfl⟩
theorem brk e : Statement (.brk e) := ⟨.inr rfl, .inl rfl⟩
theorem rett mode : Statement (.rett mode) := ⟨.inr rfl, .inl rfl⟩
theorem sBudget d sel : Statement (.sBudget d sel) := ⟨.inr rfl, .inl rfl⟩
theorem halt : Statement .halt := ⟨.inr rfl, .inl rfl⟩
theorem ifence a b : Statement (.ifence a b) := ⟨.inr rfl, .inl rfl⟩
theorem mZero d : Statement (.mZero d) := ⟨.inr rfl, .inl rfl⟩
theorem mMma d a b k la lb : Statement (.mMma d a b k la lb) := ⟨.inr rfl, .inl rfl⟩
theorem mMmas d a b k la lb i nc : Statement (.mMmas d a b k la lb i nc) := ⟨.inr rfl, .inl rfl⟩
theorem mLd d a ty w l : Statement (.mLd d a ty w l) := ⟨.inr rfl, .inl rfl⟩
theorem mSt d a ty w l : Statement (.mSt d a ty w l) := ⟨.inr rfl, .inl rfl⟩
theorem mXpose d r : Statement (.mXpose d r) := ⟨.inr rfl, .inl rfl⟩
theorem mPerm d r p : Statement (.mPerm d r p) := ⟨.inr rfl, .inl rfl⟩
theorem mRsum d r : Statement (.mRsum d r) := ⟨.inr rfl, .inl rfl⟩
theorem mScale d r v : Statement (.mScale d r v) := ⟨.inr rfl, .inl rfl⟩
theorem cCopy d a b ldst lsrc ord : Statement (.cCopy d a b ldst lsrc ord) := ⟨.inr rfl, .inl rfl⟩
theorem cCopyt d a b ldst lsrc ord g : Statement (.cCopyt d a b ldst lsrc ord g) := ⟨.inr rfl, .inl rfl⟩
theorem cFill d a byte ldst : Statement (.cFill d a byte ldst) := ⟨.inr rfl, .inl rfl⟩
theorem cSend d a b lsrc ord tm treg : Statement (.cSend d a b lsrc ord tm treg) := ⟨.inr rfl, .inl rfl⟩
theorem cSig a : Statement (.cSig a) := ⟨.inr rfl, .inl rfl⟩
theorem xAllred a op ty w : Statement (.xAllred a op ty w) := ⟨.inr rfl, .inl rfl⟩
theorem xAllmax a ty : Statement (.xAllmax a ty) := ⟨.inr rfl, .inl rfl⟩
theorem xBcast a ty : Statement (.xBcast a ty) := ⟨.inr rfl, .inl rfl⟩
theorem xGather a ty : Statement (.xGather a ty) := ⟨.inr rfl, .inl rfl⟩
theorem xWait d : Statement (.xWait d) := ⟨.inr rfl, .inl rfl⟩
theorem vNop : Statement .vNop := ⟨.inl rfl, .inl rfl⟩
theorem vAdd m o t : Statement (.vAdd m o t) := ⟨.inl rfl, .inl rfl⟩
theorem vSub m o t : Statement (.vSub m o t) := ⟨.inl rfl, .inl rfl⟩
theorem vMul m o t : Statement (.vMul m o t) := ⟨.inl rfl, .inl rfl⟩
theorem vMad m o t : Statement (.vMad m o t) := ⟨.inl rfl, .inl rfl⟩
theorem vMulhi m o t : Statement (.vMulhi m o t) := ⟨.inl rfl, .inl rfl⟩
theorem vMin m o t : Statement (.vMin m o t) := ⟨.inl rfl, .inl rfl⟩
theorem vMax m o t : Statement (.vMax m o t) := ⟨.inl rfl, .inl rfl⟩
theorem vAbs m o t : Statement (.vAbs m o t) := ⟨.inl rfl, .inl rfl⟩
theorem vNeg m o t : Statement (.vNeg m o t) := ⟨.inl rfl, .inl rfl⟩
theorem vAnd m o t : Statement (.vAnd m o t) := ⟨.inl rfl, .inl rfl⟩
theorem vOr m o t : Statement (.vOr m o t) := ⟨.inl rfl, .inl rfl⟩
theorem vXor m o t : Statement (.vXor m o t) := ⟨.inl rfl, .inl rfl⟩
theorem vNot m o t : Statement (.vNot m o t) := ⟨.inl rfl, .inl rfl⟩
theorem vShl m o t : Statement (.vShl m o t) := ⟨.inl rfl, .inl rfl⟩
theorem vShr m o t : Statement (.vShr m o t) := ⟨.inl rfl, .inl rfl⟩
theorem vSra m o t : Statement (.vSra m o t) := ⟨.inl rfl, .inl rfl⟩
theorem vClz m o t : Statement (.vClz m o t) := ⟨.inl rfl, .inl rfl⟩
theorem vPopc m o t : Statement (.vPopc m o t) := ⟨.inl rfl, .inl rfl⟩
theorem vAddImm m o t : Statement (.vAddImm m o t) := ⟨.inl rfl, .inl rfl⟩
theorem vSubImm m o t : Statement (.vSubImm m o t) := ⟨.inl rfl, .inl rfl⟩
theorem vMulImm m o t : Statement (.vMulImm m o t) := ⟨.inl rfl, .inl rfl⟩
theorem vMinImm m o t : Statement (.vMinImm m o t) := ⟨.inl rfl, .inl rfl⟩
theorem vMaxImm m o t : Statement (.vMaxImm m o t) := ⟨.inl rfl, .inl rfl⟩
theorem vAndImm m o t : Statement (.vAndImm m o t) := ⟨.inl rfl, .inl rfl⟩
theorem vOrImm m o t : Statement (.vOrImm m o t) := ⟨.inl rfl, .inl rfl⟩
theorem vXorImm m o t : Statement (.vXorImm m o t) := ⟨.inl rfl, .inl rfl⟩
theorem vShlImm m o t : Statement (.vShlImm m o t) := ⟨.inl rfl, .inl rfl⟩
theorem vShrImm m o t : Statement (.vShrImm m o t) := ⟨.inl rfl, .inl rfl⟩
theorem vSraImm m o t : Statement (.vSraImm m o t) := ⟨.inl rfl, .inl rfl⟩
theorem vBfx m fq vd va t len pos : Statement (.vBfx m fq vd va t len pos) := ⟨.inl rfl, .inl rfl⟩
theorem vSel m fq vd va vb k : Statement (.vSel m fq vd va vb k) := ⟨.inl rfl, .inl rfl⟩
theorem vMov m o : Statement (.vMov m o) := ⟨.inl rfl, .inl rfl⟩
theorem vMovi m fq vd t imm : Statement (.vMovi m fq vd t imm) := ⟨.inl rfl, .inl rfl⟩
theorem vMovs m fq vd r hi : Statement (.vMovs m fq vd r hi) := ⟨.inl rfl, .inl rfl⟩
theorem vLane m fq vd sel : Statement (.vLane m fq vd sel) := ⟨.inl rfl, .inl rfl⟩
theorem vCmpEq m fq k va vb t : Statement (.vCmpEq m fq k va vb t) := ⟨.inl rfl, .inl rfl⟩
theorem vCmpNe m fq k va vb t : Statement (.vCmpNe m fq k va vb t) := ⟨.inl rfl, .inl rfl⟩
theorem vCmpLt m fq k va vb t : Statement (.vCmpLt m fq k va vb t) := ⟨.inl rfl, .inl rfl⟩
theorem vCmpLe m fq k va vb t : Statement (.vCmpLe m fq k va vb t) := ⟨.inl rfl, .inl rfl⟩
theorem vCmpGt m fq k va vb t : Statement (.vCmpGt m fq k va vb t) := ⟨.inl rfl, .inl rfl⟩
theorem vCmpGe m fq k va vb t : Statement (.vCmpGe m fq k va vb t) := ⟨.inl rfl, .inl rfl⟩
theorem vCmpEqImm m fq k va t imm : Statement (.vCmpEqImm m fq k va t imm) := ⟨.inl rfl, .inl rfl⟩
theorem vCmpNeImm m fq k va t imm : Statement (.vCmpNeImm m fq k va t imm) := ⟨.inl rfl, .inl rfl⟩
theorem vCmpLtImm m fq k va t imm : Statement (.vCmpLtImm m fq k va t imm) := ⟨.inl rfl, .inl rfl⟩
theorem vCmpLeImm m fq k va t imm : Statement (.vCmpLeImm m fq k va t imm) := ⟨.inl rfl, .inl rfl⟩
theorem vCmpGtImm m fq k va t imm : Statement (.vCmpGtImm m fq k va t imm) := ⟨.inl rfl, .inl rfl⟩
theorem vCmpGeImm m fq k va t imm : Statement (.vCmpGeImm m fq k va t imm) := ⟨.inl rfl, .inl rfl⟩
theorem vFadd m o t : Statement (.vFadd m o t) := ⟨.inl rfl, .inl rfl⟩
theorem vFsub m o t : Statement (.vFsub m o t) := ⟨.inl rfl, .inl rfl⟩
theorem vFmul m o t : Statement (.vFmul m o t) := ⟨.inl rfl, .inl rfl⟩
theorem vFma m o t : Statement (.vFma m o t) := ⟨.inl rfl, .inl rfl⟩
theorem vFmin m o t : Statement (.vFmin m o t) := ⟨.inl rfl, .inl rfl⟩
theorem vFmax m o t : Statement (.vFmax m o t) := ⟨.inl rfl, .inl rfl⟩
theorem vFclass m fq vd va t : Statement (.vFclass m fq vd va t) := ⟨.inl rfl, .inl rfl⟩
theorem vTwosum m fq vd va vb vc : Statement (.vTwosum m fq vd va vb vc) := ⟨.inl rfl, .inl rfl⟩
theorem vFcmpEq m fq k va vb t : Statement (.vFcmpEq m fq k va vb t) := ⟨.inl rfl, .inl rfl⟩
theorem vFcmpNe m fq k va vb t : Statement (.vFcmpNe m fq k va vb t) := ⟨.inl rfl, .inl rfl⟩
theorem vFcmpLt m fq k va vb t : Statement (.vFcmpLt m fq k va vb t) := ⟨.inl rfl, .inl rfl⟩
theorem vFcmpLe m fq k va vb t : Statement (.vFcmpLe m fq k va vb t) := ⟨.inl rfl, .inl rfl⟩
theorem vFcmpGt m fq k va vb t : Statement (.vFcmpGt m fq k va vb t) := ⟨.inl rfl, .inl rfl⟩
theorem vFcmpGe m fq k va vb t : Statement (.vFcmpGe m fq k va vb t) := ⟨.inl rfl, .inl rfl⟩
theorem vCvt m fq vd va src dst : Statement (.vCvt m fq vd va src dst) := ⟨.inl rfl, .inl rfl⟩
theorem vPack m fq vd va vb t : Statement (.vPack m fq vd va vb t) := ⟨.inl rfl, .inl rfl⟩
theorem vUnpack m fq vd va hi t : Statement (.vUnpack m fq vd va hi t) := ⟨.inl rfl, .inl rfl⟩
theorem vQpack m fq vd va vc w : Statement (.vQpack m fq vd va vc w) := ⟨.inl rfl, .inl rfl⟩
theorem vQunpack m fq vd va vb w : Statement (.vQunpack m fq vd va vb w) := ⟨.inl rfl, .inl rfl⟩
theorem vRcp m o t : Statement (.vRcp m o t) := ⟨.inl rfl, .inl rfl⟩
theorem vRsqrt m o t : Statement (.vRsqrt m o t) := ⟨.inl rfl, .inl rfl⟩
theorem vSqrt m o t : Statement (.vSqrt m o t) := ⟨.inl rfl, .inl rfl⟩
theorem vExp2 m o t : Statement (.vExp2 m o t) := ⟨.inl rfl, .inl rfl⟩
theorem vLog2 m o t : Statement (.vLog2 m o t) := ⟨.inl rfl, .inl rfl⟩
theorem vSinpi m o t : Statement (.vSinpi m o t) := ⟨.inl rfl, .inl rfl⟩
theorem vCospi m o t : Statement (.vCospi m o t) := ⟨.inl rfl, .inl rfl⟩
theorem vShfl m fq vd va src mode : Statement (.vShfl m fq vd va src mode) := ⟨.inl rfl, .inl rfl⟩
theorem vBcast m fq vd va src : Statement (.vBcast m fq vd va src) := ⟨.inl rfl, .inl rfl⟩
theorem vRedx m fq vd va op t : Statement (.vRedx m fq vd va op t) := ⟨.inl rfl, .inl rfl⟩
theorem vScan m fq vd va x op t : Statement (.vScan m fq vd va x op t) := ⟨.inl rfl, .inl rfl⟩
theorem vBallot m fq k va t : Statement (.vBallot m fq k va t) := ⟨.inl rfl, .inl rfl⟩
theorem kAnd m fq d a b : Statement (.kAnd m fq d a b) := ⟨.inl rfl, .inl rfl⟩
theorem kOr m fq d a b : Statement (.kOr m fq d a b) := ⟨.inl rfl, .inl rfl⟩
theorem kXor m fq d a b : Statement (.kXor m fq d a b) := ⟨.inl rfl, .inl rfl⟩
theorem kNot m fq d a : Statement (.kNot m fq d a) := ⟨.inl rfl, .inl rfl⟩
theorem kMov m fq d a : Statement (.kMov m fq d a) := ⟨.inl rfl, .inl rfl⟩
theorem kPopc m fq vd a : Statement (.kPopc m fq vd a) := ⟨.inl rfl, .inl rfl⟩
theorem kFirst m fq d a : Statement (.kFirst m fq d a) := ⟨.inl rfl, .inl rfl⟩
theorem ld o : Statement (.ld o) := ⟨.inl rfl, .inl rfl⟩
theorem st o : Statement (.st o) := ⟨.inl rfl, .inl rfl⟩
theorem ldv o : Statement (.ldv o) := ⟨.inl rfl, .inl rfl⟩
theorem stv o : Statement (.stv o) := ⟨.inl rfl, .inl rfl⟩
theorem lds o : Statement (.lds o) := ⟨.inl rfl, .inl rfl⟩
theorem sts o : Statement (.sts o) := ⟨.inl rfl, .inl rfl⟩
theorem ldsv o : Statement (.ldsv o) := ⟨.inl rfl, .inl rfl⟩
theorem stsv o : Statement (.stsv o) := ⟨.inl rfl, .inl rfl⟩
theorem rdc o : Statement (.rdc o) := ⟨.inl rfl, .inl rfl⟩
theorem stLog o : Statement (.stLog o) := ⟨.inl rfl, .inl rfl⟩
theorem tlogFlush o : Statement (.tlogFlush o) := ⟨.inl rfl, .inl rfl⟩
theorem tlogLen o : Statement (.tlogLen o) := ⟨.inl rfl, .inl rfl⟩
theorem fence o : Statement (.fence o) := ⟨.inl rfl, .inl rfl⟩
theorem waitw o : Statement (.waitw o) := ⟨.inl rfl, .inl rfl⟩
theorem pf o : Statement (.pf o) := ⟨.inl rfl, .inl rfl⟩
theorem ipf o : Statement (.ipf o) := ⟨.inl rfl, .inl rfl⟩
theorem atomAdd o : Statement (.atomAdd o) := ⟨.inl rfl, .inl rfl⟩
theorem atomMin o : Statement (.atomMin o) := ⟨.inl rfl, .inl rfl⟩
theorem atomMax o : Statement (.atomMax o) := ⟨.inl rfl, .inl rfl⟩
theorem atomAnd o : Statement (.atomAnd o) := ⟨.inl rfl, .inl rfl⟩
theorem atomOr o : Statement (.atomOr o) := ⟨.inl rfl, .inl rfl⟩
theorem atomXor o : Statement (.atomXor o) := ⟨.inl rfl, .inl rfl⟩
theorem atomXchg o : Statement (.atomXchg o) := ⟨.inl rfl, .inl rfl⟩
theorem atomCas o : Statement (.atomCas o) := ⟨.inl rfl, .inl rfl⟩
theorem redAdd o : Statement (.redAdd o) := ⟨.inl rfl, .inl rfl⟩
theorem redMin o : Statement (.redMin o) := ⟨.inl rfl, .inl rfl⟩
theorem redMax o : Statement (.redMax o) := ⟨.inl rfl, .inl rfl⟩
theorem redAnd o : Statement (.redAnd o) := ⟨.inl rfl, .inl rfl⟩
theorem redOr o : Statement (.redOr o) := ⟨.inl rfl, .inl rfl⟩
theorem redXor o : Statement (.redXor o) := ⟨.inl rfl, .inl rfl⟩
theorem redFadd o : Statement (.redFadd o) := ⟨.inl rfl, .inl rfl⟩
theorem redFaddc o : Statement (.redFaddc o) := ⟨.inl rfl, .inl rfl⟩
theorem elide o : Statement (.elide o) := ⟨.inl rfl, .inl rfl⟩
theorem elidend o : Statement (.elidend o) := ⟨.inl rfl, .inl rfl⟩
theorem eliabort o : Statement (.eliabort o) := ⟨.inl rfl, .inl rfl⟩
theorem brv k off : Statement (.brv k off) := ⟨.inl rfl, .inl rfl⟩
theorem join : Statement .join := ⟨.inl rfl, .inl rfl⟩
theorem meld k off : Statement (.meld k off) := ⟨.inl rfl, .inl rfl⟩
theorem meldend : Statement .meldend := ⟨.inl rfl, .inl rfl⟩
theorem demote fq k : Statement (.demote fq k) := ⟨.inl rfl, .inl rfl⟩
theorem exit fq k : Statement (.exit fq k) := ⟨.inl rfl, .inl rfl⟩
theorem loopv v off : Statement (.loopv v off) := ⟨.inl rfl, .inl rfl⟩
theorem loopvEnd : Statement .loopvEnd := ⟨.inl rfl, .inl rfl⟩
theorem bany k off : Statement (.bany k off) := ⟨.inl rfl, .inl rfl⟩
theorem ball k off : Statement (.ball k off) := ⟨.inl rfl, .inl rfl⟩
theorem yRfetch d a b : Statement (.yRfetch d a b) := ⟨.inl rfl, .inr ⟨rfl, rfl⟩⟩
theorem yBfx d a b : Statement (.yBfx d a b) := ⟨.inl rfl, .inr ⟨rfl, rfl⟩⟩
theorem ySwait d a b : Statement (.ySwait d a b) := ⟨.inl rfl, .inr ⟨rfl, rfl⟩⟩
theorem yDisp d a b : Statement (.yDisp d a b) := ⟨.inl rfl, .inr ⟨rfl, rfl⟩⟩
theorem ySwaitWake y : Statement (.ySwaitWake y) := ⟨.inr rfl, .inl rfl⟩
theorem spinDemotion g : Statement (.spinDemotion g) := ⟨.inr rfl, .inl rfl⟩
theorem loadCompletion g : Statement (.loadCompletion g) := ⟨.inr rfl, .inl rfl⟩
theorem storeCompletion g : Statement (.storeCompletion g) := ⟨.inr rfl, .inl rfl⟩
theorem homeSliceAccess g op acc : Statement (.homeSliceAccess g op acc) := ⟨.inr rfl, .inl rfl⟩
theorem tileFetch tile bad : Statement (.tileFetch tile bad) := ⟨.inr rfl, .inl rfl⟩
theorem tileEviction tile : Statement (.tileEviction tile) := ⟨.inr rfl, .inl rfl⟩
theorem lineBufferWriteBack core line : Statement (.lineBufferWriteBack core line) := ⟨.inr rfl, .inl rfl⟩
theorem translationWalk die ctx va : Statement (.translationWalk die ctx va) := ⟨.inr rfl, .inl rfl⟩
theorem chuteFill core line : Statement (.chuteFill core line) := ⟨.inr rfl, .inl rfl⟩
theorem ifenceDiscard g path : Statement (.ifenceDiscard g path) := ⟨.inr rfl, .inl rfl⟩
theorem skidderCompletion core : Statement (.skidderCompletion core) := ⟨.inr rfl, .inl rfl⟩
theorem matrixKStep core : Statement (.matrixKStep core) := ⟨.inr rfl, .inl rfl⟩
theorem tileOperationComplete core : Statement (.tileOperationComplete core) := ⟨.inr rfl, .inl rfl⟩
theorem boomOperationComplete g id : Statement (.boomOperationComplete g id) := ⟨.inr rfl, .inl rfl⟩
theorem barrierArrivalSignal g level n : Statement (.barrierArrivalSignal g level n) := ⟨.inr rfl, .inl rfl⟩
theorem waitwWake g path : Statement (.waitwWake g path) := ⟨.inr rfl, .inl rfl⟩
theorem drawWake g path : Statement (.drawWake g path) := ⟨.inr rfl, .inl rfl⟩
theorem dealEntry g path : Statement (.dealEntry g path) := ⟨.inr rfl, .inl rfl⟩
theorem elisionCommit g : Statement (.elisionCommit g) := ⟨.inr rfl, .inl rfl⟩
theorem eventDelivery g : Statement (.eventDelivery g) := ⟨.inr rfl, .inl rfl⟩
theorem launchCompletion tag : Statement (.launchCompletion tag) := ⟨.inr rfl, .inl rfl⟩
theorem notify w : Statement (.notify w) := ⟨.inr rfl, .inl rfl⟩
theorem notifyForward die : Statement (.notifyForward die) := ⟨.inr rfl, .inl rfl⟩
theorem queueTakeUp die : Statement (.queueTakeUp die) := ⟨.inr rfl, .inl rfl⟩
theorem abort w : Statement (.abort w) := ⟨.inr rfl, .inl rfl⟩
theorem rearm w : Statement (.rearm w) := ⟨.inr rfl, .inl rfl⟩
theorem query w : Statement (.query w) := ⟨.inr rfl, .inl rfl⟩
theorem nrefusedClear die m v : Statement (.nrefusedClear die m v) := ⟨.inr rfl, .inl rfl⟩
theorem packetDispatch q : Statement (.packetDispatch q) := ⟨.inr rfl, .inl rfl⟩
theorem barrierSignalRead q pkt idx : Statement (.barrierSignalRead q pkt idx) := ⟨.inr rfl, .inl rfl⟩
theorem launchPlacement part : Statement (.launchPlacement part) := ⟨.inr rfl, .inl rfl⟩
theorem politeWindowExpiry tag : Statement (.politeWindowExpiry tag) := ⟨.inr rfl, .inl rfl⟩
theorem shadowSwap tag core : Statement (.shadowSwap tag core) := ⟨.inr rfl, .inl rfl⟩
theorem budgetOverrun tag : Statement (.budgetOverrun tag) := ⟨.inr rfl, .inl rfl⟩
theorem budgetReport tag : Statement (.budgetReport tag) := ⟨.inr rfl, .inl rfl⟩
theorem clklockWrite m v : Statement (.clklockWrite m v) := ⟨.inr rfl, .inl rfl⟩
theorem clockChange : Statement .clockChange := ⟨.inr rfl, .inl rfl⟩
theorem pwrgateWrite m die v : Statement (.pwrgateWrite m die v) := ⟨.inr rfl, .inl rfl⟩
theorem partitionWrite m p v : Statement (.partitionWrite m p v) := ⟨.inr rfl, .inl rfl⟩
theorem accessWindowWrite m die group win v : Statement (.accessWindowWrite m die group win v) := ⟨.inr rfl, .inl rfl⟩
theorem registerWrite m addr data : Statement (.registerWrite m addr data) := ⟨.inr rfl, .inl rfl⟩
theorem shootdownRequest m data : Statement (.shootdownRequest m data) := ⟨.inr rfl, .inl rfl⟩
theorem shootdownCompletion : Statement .shootdownCompletion := ⟨.inr rfl, .inl rfl⟩
theorem attestationRequest m data : Statement (.attestationRequest m data) := ⟨.inr rfl, .inl rfl⟩
theorem mintreq m die data : Statement (.mintreq m die data) := ⟨.inr rfl, .inl rfl⟩
theorem svcResume m die v : Statement (.svcResume m die v) := ⟨.inr rfl, .inl rfl⟩
theorem svcEnd m die v : Statement (.svcEnd m die v) := ⟨.inr rfl, .inl rfl⟩
theorem debugHaltLaunch m ctx v : Statement (.debugHaltLaunch m ctx v) := ⟨.inr rfl, .inl rfl⟩
theorem debugResumeLaunch m ctx v : Statement (.debugResumeLaunch m ctx v) := ⟨.inr rfl, .inl rfl⟩
theorem debugResumeGroup m ctx v : Statement (.debugResumeGroup m ctx v) := ⟨.inr rfl, .inl rfl⟩
theorem gstateWrite m ctx off data : Statement (.gstateWrite m ctx off data) := ⟨.inr rfl, .inl rfl⟩
theorem gpoolWrite m ctx off data : Statement (.gpoolWrite m ctx off data) := ⟨.inr rfl, .inl rfl⟩
theorem safePointHalt g path : Statement (.safePointHalt g path) := ⟨.inr rfl, .inl rfl⟩
theorem samplerTag g path : Statement (.samplerTag g path) := ⟨.inr rfl, .inl rfl⟩
theorem sampleRecord core t : Statement (.sampleRecord core t) := ⟨.inr rfl, .inl rfl⟩
theorem thermalTrip die : Statement (.thermalTrip die) := ⟨.inr rfl, .inl rfl⟩
theorem packageReset : Statement .packageReset := ⟨.inr rfl, .inl rfl⟩
theorem firmwareCheck image : Statement (.firmwareCheck image) := ⟨.inr rfl, .inl rfl⟩
theorem memoryTraining : Statement .memoryTraining := ⟨.inr rfl, .inl rfl⟩
theorem linkUp : Statement .linkUp := ⟨.inr rfl, .inl rfl⟩
theorem highleadRead r : Statement (.highleadRead r) := ⟨.inr rfl, .inl rfl⟩
theorem highleadWrite r : Statement (.highleadWrite r) := ⟨.inr rfl, .inl rfl⟩
theorem highleadReadResponse die tag status data : Statement (.highleadReadResponse die tag status data) := ⟨.inr rfl, .inl rfl⟩
theorem highleadWriteResponse die tag status : Statement (.highleadWriteResponse die tag status) := ⟨.inr rfl, .inl rfl⟩
theorem highleadStop die : Statement (.highleadStop die) := ⟨.inr rfl, .inl rfl⟩
theorem highleadReplay die : Statement (.highleadReplay die) := ⟨.inr rfl, .inl rfl⟩
theorem boomData b : Statement (.boomData b) := ⟨.inr rfl, .inl rfl⟩
theorem boomAcknowledgement b : Statement (.boomAcknowledgement b) := ⟨.inr rfl, .inl rfl⟩
theorem boomHaltNotice b : Statement (.boomHaltNotice b) := ⟨.inr rfl, .inl rfl⟩
theorem boomResumeNotice b : Statement (.boomResumeNotice b) := ⟨.inr rfl, .inl rfl⟩
theorem boomFailure b : Statement (.boomFailure b) := ⟨.inr rfl, .inl rfl⟩
theorem boomResend b : Statement (.boomResend b) := ⟨.inr rfl, .inl rfl⟩
theorem collectiveTimeout g id : Statement (.collectiveTimeout g id) := ⟨.inr rfl, .inl rfl⟩
theorem senderReplay die n : Statement (.senderReplay die n) := ⟨.inr rfl, .inl rfl⟩

end Sys2Proof.Laws.OneSlot
end

