-- ==== Sys2Proof/Tests/Slice0.lean ====
section
/-!
SUPPORT. The model's own tests: the ill-formed terms that `WellFormed` refuses, a word for every constructor that some
word encodes, witnesses for the statements of `Certificates/Slice0/Obligations.lean`, and single steps whose expected
results come from the spec's worked examples or are computed by hand from its rules.
-/

namespace Sys2Proof.Tests

/- One theorem after another: the kernel evaluates each of them for a second or more. -/
set_option Elab.async false

open Sys2Proof Sys2Proof.Machine

/-! ## Decoding: each word is composed by hand from the field positions of R97, R101, R104 and the instruction's rule. -/

/-- Each number decodes to the instruction beside it. -/
def words (f : Nat → Option Instr) (l : List (Nat × Instr)) : Bool := l.all fun x => f x.1 == some x.2
def scalar (w : Nat) : Option Instr := match decodeScalar w with | .ok i => some i | .bad _ => none
def vector (w : Nat) : Option Instr := match decodeVector w with | .ok i => some i | .bad _ => none
def yarder (w : Nat) : Option Instr := match decodeYarder w with | .ok i => some i | _ => none

theorem test_words_scalar1 : words scalar [
    (0x0, .nop),
    (0x107e84000000, .sAdd 1 62 33),
    (0x20bd88000000, .sSub 2 61 34),
    (0x40fc8c000000, .sMul 3 60 35),
    (0x513b90000000, .sMulh 4 59 36),
    (0x617a94000000, .sMulhz 5 58 37),
    (0x71b998000000, .sDiv 6 57 38),
    (0x81f89c000000, .sDivz 7 56 39),
    (0x9237a0000000, .sRem 8 55 40),
    (0xa276a4000000, .sRemz 9 54 41),
    (0x102b5a8000000, .sAnd 10 53 42),
    (0x112f4ac000000, .sOr 11 52 43),
    (0x12333b0000000, .sXor 12 51 44),
    (0x20372b4000000, .sMin 13 50 45),
    (0x213b1b8000000, .sMax 14 49 46),
    (0x223f0bc000000, .sMinz 15 48 47),
    (0x2342fc0000000, .sMaxz 16 47 48),
    (0x3a0289abcde0, .sAddi 40 2 0x89abcde0),
    (0x13a4389abcde1, .sAndi 41 3 0x89abcde1),
    (0x14a8489abcde2, .sOri 42 4 0x89abcde2),
    (0x15ac589abcde3, .sXori 43 5 0x89abcde3),
    (0x29b0689abcde4, .sMovhi 44 6 0x89abcde4),
    (0x28e80fedcba98, .sMovi 58 0xfedcba98),
    (0x2aec0fedcba97, .sLea 59 0xfedcba97),
    (0x1617c00000000, .sNot 5 60)] = true := by decide +kernel

theorem test_words_scalar2 : words scalar [
    (0x1c1bb00000000, .sClz 6 59),
    (0x1d1fa00000000, .sPopc 7 58),
    (0x1827254000000, .sShl 9 50 (.reg 21)),
    (0x182720000007f, .sShl 9 50 (.imm 63)),
    (0x192b358000000, .sShr 10 51 (.reg 22)),
    (0x192b30000007e, .sShr 10 51 (.imm 62)),
    (0x1a2f45c000000, .sSra 11 52 (.reg 23)),
    (0x1a2f40000007d, .sSra 11 52 (.imm 61)),
    (0x1b33560000000, .sRot 12 53 (.reg 24)),
    (0x1b3350000007c, .sRot 12 53 (.imm 60)),
    (0x1e0c400003000, .sBfx 3 4 true 64 0),
    (0x1e0c40000007f, .sBfx 3 4 false 1 63),
    (0x1f14600000468, .sBfi 5 6 17 40),
    (0x241c82400002a, .sSel 7 8 9 42),
    (0x2578b30000000, .sCmp 30 11 12 ⟨.eq, 0, false⟩),
    (0x257cb30000029, .sCmp 31 11 12 ⟨.ne, 1, true⟩),
    (0x2580b30000012, .sCmp 32 11 12 ⟨.lt, 2, false⟩),
    (0x2584b3000003b, .sCmp 33 11 12 ⟨.le, 3, true⟩),
    (0x2588b30000004, .sCmp 34 11 12 ⟨.gt, 0, false⟩),
    (0x258cb3000002d, .sCmp 35 11 12 ⟨.ge, 1, true⟩),
    (0x2c00000004044, .sSetfmtImm 0x4044),
    (0x2c01d00000000, .sSetfmtReg 29),
    (0x2d84000000000, .sGetfmt 33),
    (0x2e34e3c00003d, .sGset 13 14 15 ⟨.ge, 3, true⟩),
    (0x2f24000000000, .sGclr 9)] = true := by decide +kernel

theorem test_words_scalar3 : words scalar [
    (0x3003ffffffffe, .br (-2)),
    (0x3101047ffff52, .bcc 16 17 ⟨.lt, 2, false⟩ (-3)),
    (0x32012fffffff0, .jmp 18 0xFFFFFFF0),
    (0x33013500fffff, .brx 19 20 1048575),
    (0x3405234567890, .call true 0x1234567890),
    (0x3501600000001, .callx true 22),
    (0x3603e00000000, .ret 62),
    (0x375c000000005, .loopS 23 5),
    (0x3800000000000, .sYield),
    (0x3900000000000, .sEnd),
    (0x4000000000002, .barGrp 2),
    (0x410000000000d, .barBlk 1 3),
    (0x420000000001c, .barClu 0 7),
    (0x430000000000e, .barGrid 2 3),
    (0x44000018c3070, .wait ⟨true, 8, true, 16, true, 32, true, 48⟩),
    (0x4400000000040, .wait ⟨false, 0, false, 0, false, 0, true, 0⟩),
    (0x452d867ffdb6c, .gLd 11 24 25 (-5) 3 1 ⟨.gt, 1, true⟩),
    (0x46e4000000006, .draw 57 6),
    (0x4703c00000000, .deal 60),
    (0x4800000000000, .idem),
    (0x496800000000d, .sGetsr 26 13),
    (0x4a01b0000000c, .sSetsr 12 27),
    (0x4b7000000000a, .sSys 28 10),
    (0x4c0000000beef, .trap 0xBEEF),
    (0x4d00000000002, .rett 2)] = true := by decide +kernel

theorem test_words_scalar4 : words scalar [
    (0x4e0000000cafe, .brk 0xCAFE),
    (0x4f7c000000003, .sBudget 31 3),
    (0x5000000000000, .halt),
    (0x510228c000000, .ifence 34 35),
    (0x60fc000000000, .mZero 63),
    (0x61014600000db, .mMma 0 20 24 27 true true),
    (0x620556400a45c, .mMmas 1 21 25 28 true false 36 2),
    (0x630960000018b, .mLd 2 22 .qb 8 true),
    (0x640d70000000a, .mSt 3 23 .bf16 0 false),
    (0x6510000000025, .mXpose 4 37),
    (0x6616700000026, .mPerm 5 38 39),
    (0x6718000000028, .mRsum 6 40),
    (0x681c000001929, .mScale 7 41 100),
    (0x70aabb0000005, .cCopy 42 43 44 true false true),
    (0x71b6ebc000012, .cCopyt 45 46 47 false true false 2),
    (0x72c31000001a5, .cFill 48 49 0xA5 true),
    (0x73cb3d000035a, .cSend 50 51 52 true false true 53),
    (0x7403600000000, .cSig 54),
    (0x7803700000089, .xAllred 55 9 .f32 0),
    (0x78037000004b0, .xAllred 55 0 .qb 4),
    (0x7903800000050, .xAllmax 56 .z16),
    (0x7a03900000070, .xBcast 57 .z64),
    (0x7b03a00000040, .xGather 58 .z8),
    (0x7cec000000000, .xWait 59)] = true := by decide +kernel

theorem test_words_vector1 : words vector [
    (0x0, .vNop),
    (0x400fe80000000, .vAdd 0 (.vr .both 1 126 64) .i8),
    (0x60103c96a87f0, .vAdd 0 (.vt 2 3 100 90 80 127) .i8),
    (0x8417d82010001, .vSub 1 (.vr .fa 2 125 65) .i16),
    (0xc81fc84020002, .vMul 2 (.vr .fb 3 124 66) .i32),
    (0x14c27b86000004, .vMulhi 3 (.vr .both 4 123 67) .z8),
    (0x16c286c35e9fc4, .vMulhi 3 (.vt 5 6 97 87 83 124) .z8),
    (0x1902fa88010005, .vMin 4 (.vr .fa 5 122 68) .z16),
    (0x1d43798a020006, .vMax 5 (.vr .fb 6 121 69) .z32),
    (0x2983f88c000000, .vAnd 6 (.vr .both 7 120 70) .i8),
    (0x2b8409bd52b790, .vAnd 6 (.vt 8 9 94 84 86 121) .i8),
    (0x2dc4778e010001, .vOr 7 (.vr .fa 8 119 71) .i16),
    (0x3004f690020002, .vXor 0 (.vr .fb 9 118 72) .i32),
    (0x38457592000004, .vShl 1 (.vr .both 10 117 73) .z8),
    (0x3a458cb746cf64, .vShl 1 (.vt 11 12 91 81 89 118) .z8),
    (0x3c85f494010005, .vShr 2 (.vr .fa 11 116 74) .z16),
    (0x40c67396020006, .vSra 3 (.vr .fb 12 115 75) .z32),
    (0x20c5f400020001, .vAbs 3 (.vr .fb 11 116) .i16),
    (0x22c60ddd8c0001, .vAbs 3 (.vt 12 13 110 99) .i16),
    (0x25067300000000, .vNeg 4 (.vr .both 12 115) .i8),
    (0x34c5f400020006, .vNot 3 (.vr .fb 11 116) .z32),
    (0x36c60ddd8c0006, .vNot 3 (.vt 12 13 110 99) .z32),
    (0x45067300000004, .vClz 4 (.vr .both 12 115) .z8),
    (0x4946f200010001, .vPopc 5 (.vr .fa 13 114) .i16),
    (0x54c5f400020000, .vMov 3 (.vr .fb 11 116))] = true := by decide +kernel

theorem test_words_vector2 : words vector [
    (0x56c60ddd8c0000, .vMov 3 (.vt 12 13 110 99)),
    (0x11408206110005, .vMad 5 (.vr .fa 1 2 3 4) .z16),
    (0x13808206102865, .vMad 6 (.vt 1 2 3 4 5 6) .z16),
    (0x10d40820611000a, .vFma 5 (.vr .fa 1 2 3 4) .bf16),
    (0x10f80820610286a, .vFma 6 (.vt 1 2 3 4 5 6) .bf16),
    (0x10000fe80000008, .vFadd 0 (.vr .both 1 126 64) .f32),
    (0x1020103c96a87f8, .vFadd 0 (.vt 2 3 100 90 80 127) .f32),
    (0x104417d82010009, .vFsub 1 (.vr .fa 2 125 65) .f16),
    (0x10881fc8402000a, .vFmul 2 (.vr .fb 3 124 66) .bf16),
    (0x110c27b86000008, .vFmin 3 (.vr .both 4 123 67) .f32),
    (0x112c286c35e9fc8, .vFmin 3 (.vt 5 6 97 87 83 124) .f32),
    (0x11502fa88010009, .vFmax 4 (.vr .fa 5 122 68) .f16),
    (0x160c5f400020008, .vRcp 3 (.vr .fb 11 116) .f32),
    (0x162c60ddd8c0008, .vRcp 3 (.vt 12 13 110 99) .f32),
    (0x165067300000009, .vRsqrt 4 (.vr .both 12 115) .f16),
    (0x16946f20001000a, .vSqrt 5 (.vr .fa 13 114) .bf16),
    (0x16d877100020008, .vExp2 6 (.vr .fb 14 113) .f32),
    (0x16f8790d7800008, .vExp2 6 (.vt 15 16 107 96) .f32),
    (0x171c7f000000009, .vLog2 7 (.vr .both 15 112) .f16),
    (0x174086f0001000a, .vSinpi 0 (.vr .fa 16 111) .bf16),
    (0x17848ee00020008, .vCospi 1 (.vr .fb 17 110) .f32),
    (0x17a4913d1740008, .vCospi 1 (.vt 18 19 104 93) .f32),
    (0x84144620008f00, .vAddImm 0 ⟨.both, 40, 70, 0x8f00⟩ .i32),
    (0x8854c750018f01, .vSubImm 1 ⟨.fa, 41, 71, 0x8f01⟩ .z16),
    (0x8c954860028f02, .vMulImm 2 ⟨.fb, 42, 72, 0x8f02⟩ .z32)] = true := by decide +kernel

theorem test_words_vector3 : words vector [
    (0x98d5c920008f03, .vMinImm 3 ⟨.both, 43, 73, 0x8f03⟩ .i32),
    (0x9d164a50018f04, .vMaxImm 4 ⟨.fa, 44, 74, 0x8f04⟩ .z16),
    (0xa956cb60028f05, .vAndImm 5 ⟨.fb, 45, 75, 0x8f05⟩ .z32),
    (0xad974c20008f06, .vOrImm 6 ⟨.both, 46, 76, 0x8f06⟩ .i32),
    (0xb1d7cd50018f07, .vXorImm 7 ⟨.fa, 47, 77, 0x8f07⟩ .z16),
    (0xb8184e6002000d, .vShlImm 0 ⟨.fb, 48, 78, 0xd⟩ .z32),
    (0xbc58cf2000000e, .vShrImm 1 ⟨.both, 49, 79, 0xe⟩ .i32),
    (0xc099505001000f, .vSraImm 2 ⟨.fa, 50, 80, 0xf⟩ .z16),
    (0x4c450b00018002, .vBfx 1 .fa 10 11 .i32 32 0),
    (0x4c450b000107e6, .vBfx 1 .fa 10 11 .z32 1 31),
    (0x50860d1c160000, .vSel 2 .fb 12 13 14 5),
    (0xd4c7800001ff80, .vMovi 3 .fa 15 .i8 0xFF80),
    (0x59083f00000010, .vMovs 4 .both 16 63 true),
    (0x5c088000020030, .vLane 0 .fb 17 3),
    (0x60039450010000, .vCmpEq 0 .fa 7 20 40 .i8),
    (0xe003940002f000, .vCmpEqImm 0 .fb 7 20 .i8 0xf000),
    (0x120039552000008, .vFcmpEq 0 .both 7 21 41 .f32),
    (0x64431552010001, .vCmpNe 1 .fa 6 21 41 .i16),
    (0xe443151002f001, .vCmpNeImm 1 .fb 6 21 .i16 0xf001),
    (0x124431654000009, .vFcmpNe 1 .both 6 22 42 .f16),
    (0x68829654010002, .vCmpLt 2 .fa 5 22 42 .i32),
    (0xe882962002f002, .vCmpLtImm 2 .fb 5 22 .i32 0xf002),
    (0x12882975600000a, .vFcmpLt 2 .both 5 23 43 .bf16),
    (0x6cc21756010004, .vCmpLe 3 .fa 4 23 43 .z8),
    (0xecc2174002f003, .vCmpLeImm 3 .fb 4 23 .z8 0xf003)] = true := by decide +kernel

theorem test_words_vector4 : words vector [
    (0x12cc21858000008, .vFcmpLe 3 .both 4 24 44 .f32),
    (0x71019858010005, .vCmpGt 4 .fa 3 24 44 .z16),
    (0xf101985002f004, .vCmpGtImm 4 .fb 3 24 .z16 0xf004),
    (0x13101995a000009, .vFcmpGt 4 .both 3 25 45 .f16),
    (0x7541195a010006, .vCmpGe 5 .fa 2 25 45 .z32),
    (0xf541196002f005, .vCmpGeImm 5 .fb 2 25 .z32 0xf005),
    (0x135411a5c00000a, .vFcmpGe 5 .both 2 26 46 .bf16),
    (0x118593300010009, .vFclass 1 .fa 50 51 .f16),
    (0x11c9a356cde0008, .vTwosum 2 .fb 52 53 54 55),
    (0x140dc3900000081, .vCvt 3 .both 56 57 .f32 .i16),
    (0x1451d3b78010005, .vPack 4 .fa 58 59 60 .z16),
    (0x1495ebe0002001a, .vUnpack 5 .fb 61 62 true .bf16),
    (0x14d9fc00104008b, .vQpack 6 .both 63 64 65 8),
    (0x151e1438801002b, .vQunpack 7 .fa 66 67 68 2),
    (0x18062c68e020020, .vShfl 1 .fb 69 70 (.reg 71) 2),
    (0x18062c6000210f0, .vShfl 1 .fb 69 70 (.imm 33) 3),
    (0x184a44900001fc0, .vBcast 2 .both 72 73 (.imm 63)),
    (0x184a44994000000, .vBcast 2 .both 72 73 (.reg 74)),
    (0x188e5cc000100a8, .vRedx 3 .fa 75 76 10 .f32),
    (0x18d26ce00020154, .vScan 4 .fb 77 78 true 5 .z8),
    (0x191434f00000002, .vBallot 5 .both 6 79 .i32),
    (0x1a0008206010000, .kAnd 0 .fa 1 2 3),
    (0x1a4410308010000, .kOr 1 .fa 2 3 4),
    (0x1a881840a010000, .kXor 2 .fa 3 4 5),
    (0x1ac020200020000, .kNot 0 .fb 4 2)] = true := by decide +kernel

theorem test_words_vector5 : words vector [
    (0x1b0428300020000, .kMov 1 .fb 5 3),
    (0x1b8830400020000, .kFirst 2 .fb 6 4),
    (0x1b5f28300000000, .kPopc 7 .both 101 3),
    (0x2007f8a8001700a, .ld ⟨1, 127, 10, 0x2000, .fa, 1, 6, 0, false, false, .bf16⟩),
    (0x2049f8b7ffca903, .st ⟨2, 63, 11, 0x1fff, .both, 2, 5, 0, true, false, .i64⟩),
    (0x208f20cc6020204, .ldv ⟨3, 100, 12, 0x3180, .fb, 0, 0, 1, false, false, .z8⟩),
    (0x20d328dc4008a09, .stv ⟨4, 101, 13, 0x3100, .both, 2, 1, 1, false, false, .f16⟩),
    (0x211730e00405005, .lds ⟨5, 102, 14, 0x10, .both, 1, 2, 0, false, false, .z16⟩),
    (0x215908ffff00107, .sts ⟨6, 33, 15, 0x3ffc, .both, 0, 0, 0, true, false, .z64⟩),
    (0x219f390c2000208, .ldsv ⟨7, 103, 16, 0x3080, .both, 0, 0, 1, false, false, .f32⟩),
    (0x21c3411c0000200, .stsv ⟨0, 104, 17, 0x3000, .both, 0, 0, 1, false, false, .i8⟩),
    (0x220749200200008, .rdc ⟨1, 105, 18, 0x8, .both, 0, 0, 0, false, false, .f32⟩),
    (0x2240a130040c117, .stLog ⟨0, 20, 19, 0x10, .both, 3, 0, 0, true, true, .z64⟩),
    (0x228801501000000, .tlogFlush ⟨2, 0, 21, 0x40, .both, 0, 0, 0, false, false, .i8⟩),
    (0x22c1116ff000100, .tlogLen ⟨0, 34, 22, 0x3fc0, .both, 0, 0, 0, true, false, .i8⟩),
    (0x230000000003000, .fence ⟨0, 0, 0, 0x0, .both, 0, 6, 0, false, false, .i8⟩),
    (0x234119700606116, .waitw ⟨0, 35, 23, 0x18, .both, 1, 4, 0, true, true, .z32⟩),
    (0x238c01802000000, .pf ⟨3, 0, 24, 0x80, .both, 0, 0, 0, false, false, .i8⟩),
    (0x23c121940000100, .ipf ⟨0, 36, 25, 0x1000, .both, 0, 0, 0, true, false, .i8⟩),
    (0x240281e00000002, .atomAdd ⟨0, 80, 30, 0x0, .both, 0, 0, 0, false, false, .i32⟩),
    (0x244689f00106006, .atomMin ⟨1, 81, 31, 0x4, .both, 1, 4, 0, false, false, .z32⟩),
    (0x248a9200020a002, .atomMax ⟨2, 82, 32, 0x8, .both, 2, 4, 0, false, false, .i32⟩),
    (0x24ce9a100300006, .atomAnd ⟨3, 83, 33, 0xc, .both, 0, 0, 0, false, false, .z32⟩),
    (0x2512a2200406002, .atomOr ⟨4, 84, 34, 0x10, .both, 1, 4, 0, false, false, .i32⟩),
    (0x2556aa30050a006, .atomXor ⟨5, 85, 35, 0x14, .both, 2, 4, 0, false, false, .z32⟩)] = true := by decide +kernel

theorem test_words_vector6 : words vector [
    (0x259ab2400600002, .atomXchg ⟨6, 86, 36, 0x18, .both, 0, 0, 0, false, false, .i32⟩),
    (0x25c2ba5b164b206, .atomCas ⟨0, 87, 37, 0x2c59, .both, 2, 6, 1, false, false, .z32⟩),
    (0x25c142900a80507, .atomCas ⟨0, 40, 41, 0x2a, .both, 0, 0, 2, true, false, .z64⟩),
    (0x2602d2b00000006, .redAdd ⟨0, 90, 43, 0x0, .both, 0, 0, 0, false, false, .z32⟩),
    (0x2646dacfff09802, .redMin ⟨1, 91, 44, 0x3ffc, .both, 2, 3, 0, false, false, .i32⟩),
    (0x268ae2dffe00006, .redMax ⟨2, 92, 45, 0x3ff8, .both, 0, 0, 0, false, false, .z32⟩),
    (0x26ceeaeffd09802, .redAnd ⟨3, 93, 46, 0x3ff4, .both, 2, 3, 0, false, false, .i32⟩),
    (0x2712f2fffc00006, .redOr ⟨4, 94, 47, 0x3ff0, .both, 0, 0, 0, false, false, .z32⟩),
    (0x2756fb0ffb09802, .redXor ⟨5, 95, 48, 0x3fec, .both, 2, 3, 0, false, false, .i32⟩),
    (0x279b03100100008, .redFadd ⟨6, 96, 49, 0x4, .both, 0, 0, 0, false, false, .f32⟩),
    (0x27df0b206000208, .redFaddc ⟨7, 97, 50, 0x180, .both, 0, 0, 1, false, false, .f32⟩),
    (0x28007b348d00407, .elide ⟨0, 15, 51, 0x1234, .both, 0, 0, 2, false, false, .z64⟩),
    (0x284000000000000, .elidend ⟨0, 0, 0, 0x0, .both, 0, 0, 0, false, false, .i8⟩),
    (0x2880000030c0400, .eliabort ⟨0, 0, 0, 0xc3, .both, 0, 0, 2, false, false, .i8⟩),
    (0x30000ffffffffff, .brv 1 (-1)),
    (0x304000000000000, .join),
    (0x308008000000004, .meld 1 4),
    (0x30c000000000000, .meldend),
    (0x310000300010000, .demote .fa 3),
    (0x314000400020000, .exit .fb 4),
    (0x3182d0000000006, .loopv 90 6),
    (0x31c000000000000, .loopvEnd),
    (0x320028000000007, .bany 5 7),
    (0x324037ffffffff8, .ball 6 (-8))] = true := by decide +kernel

theorem test_words_yarder : words yarder [
    (0xc5850b, .yRfetch 10 11 12),
    (0xc5950b, .yBfx 10 11 12),
    (0xc5a50b, .ySwait 10 11 12),
    (0xc5b50b, .yDisp 10 11 12)] = true := by decide +kernel

/-! ## Ill-formed terms: one for each check of `WellFormed`, refused by that check. -/

/-- A VM operand with every field at its usual value. -/
def mo (ty : Ty) : MOp := ⟨0, 0, 0, 0, .both, 0, 0, 0, false, false, ty⟩
def mD (ty : Ty) : MOp := { mo ty with d := true }
def vv : VBin := .vr .both 1 2 3
def v1 : VUn := .vr .both 1 2
def v3 : VTer := .vr .both 1 2 3 4
def vi (n : BitVec 16) : VImm := ⟨.both, 1, 2, n⟩

/-- The type checks alone refuse each of these. -/
def badTypes (l : List Instr) : Bool := l.all fun i => !typeOk i && fieldsOk i
/-- The operand checks alone refuse each of these. -/
def badFields (l : List Instr) : Bool := l.all fun i => typeOk i && !fieldsOk i

theorem test_illformed_types : badTypes [
    .ld (mo .i64), .st (mD .f32), .rdc (mo .i32), .stLog { mo .f32 with acc := 3 }, .waitw (mD .f32),
    .atomAdd (mo .i64), .atomXchg (mD .i8), .redAdd (mo .f32), .redFadd (mo .i32), .elide { mo .i32 with am := 2 },
    .mLd 0 1 .i32 0 false, .mSt 0 1 .z8 0 false, .xAllred 1 1 .qb 4, .xAllred 1 0 .f32 0, .xAllred 1 8 .i32 0,
    .xAllmax 1 .i8, .xBcast 1 .i8, .xGather 1 .f32, .vAdd 0 vv .i64, .vShl 0 vv .f32, .vMad 0 v3 .z64, .vAbs 0 v1 .z32,
    .vNeg 0 v1 .z8, .vNot 0 v1 .f16] = true := by decide +kernel

theorem test_illformed_types_vector : badTypes [
    .vClz 0 v1 .i64, .vPopc 0 v1 .qb, .vAddImm 0 (vi 1) .f32, .vShlImm 0 (vi 1) .f16, .vBfx 0 .both 1 2 .i16 1 0,
    .vMovi 0 .both 1 .f32 0, .vCmpEq 0 .both 1 2 3 .f32, .vCmpGeImm 0 .both 1 2 .i64 0, .vFadd 0 vv .i32, .vFma 0 v3 .i32,
    .vFclass 0 .both 1 2 .z32, .vFcmpLt 0 .both 1 2 3 .i32, .vCvt 0 .both 1 2 .i32 .i32, .vCvt 0 .both 1 2 .i64 .f32,
    .vCvt 0 .both 1 2 .f32 .qb, .vPack 0 .both 1 2 3 .i32, .vUnpack 0 .both 1 2 false .f32, .vRcp 0 v1 .i32, .vCospi 0 v1 .z8,
    .vRedx 0 .both 1 2 0 .f32, .vRedx 0 .both 1 2 8 .i32, .vScan 0 .both 1 2 false 9 .f16, .vBallot 0 .both 1 2 .f32]
    = true := by decide +kernel

theorem test_illformed_fields : badFields [
    .sBfx 1 2 false 0 0, .sBfx 1 2 false 2 63, .sBfi 1 2 0 0, .sBfi 1 2 65 0, .sSetfmtImm 1, .sSetfmtImm 0x8022, .sSetfmtReg 0,
    .loopS 1 1, .barGrp 3, .barBlk 3 0, .barClu 3 0, .barClu 0 8, .barGrid 3 0, .barGrid 0 4,
    .wait ⟨false, 0, false, 0, false, 0, false, 0⟩, .wait ⟨true, 9, false, 0, false, 0, false, 0⟩,
    .wait ⟨false, 0, true, 17, false, 0, false, 0⟩, .wait ⟨false, 0, false, 0, true, 33, false, 0⟩,
    .wait ⟨false, 0, false, 0, false, 0, true, 49⟩, .wait ⟨false, 1, true, 0, false, 0, false, 0⟩,
    .wait ⟨true, 0, false, 1, false, 0, false, 0⟩, .wait ⟨true, 0, false, 0, false, 1, false, 0⟩,
    .wait ⟨true, 0, false, 0, false, 0, false, 1⟩] = true := by decide +kernel

theorem test_illformed_fields_system : badFields [
    .gLd 0 1 2 0 7 1 ⟨.eq, 3, false⟩, .gLd 0 1 2 0 0 2 ⟨.eq, 3, false⟩, .gLd 0 1 2 0 1 0 ⟨.eq, 3, false⟩,
    .draw 0 0, .draw 58 0, .deal 0, .deal 61, .sGetsr 1 5, .sSetsr 14 1, .sSys 1 11, .rett 3,
    .mMma 0 0 4 1 false false, .mMma 0 4 59 1 false false, .mMmas 0 1 0 1 false false 2 0, .mMmas 0 1 4 1 false false 2 3,
    .mLd 0 0 .f32 0 false, .mLd 0 1 .f32 2 false, .mLd 0 1 .qb 1 false, .mSt 0 1 .qb 9 false, .mSt 0 59 .f32 0 false,
    .cCopyt 1 2 3 false false false 0, .cCopyt 1 2 3 false false false 3, .xAllred 1 0 .qb 9, .xAllred 1 0 .i32 2]
    = true := by decide +kernel

theorem test_illformed_fields_vector : badFields [
    .vShlImm 0 (vi 8) .i8, .vShrImm 0 (vi 16) .z16, .vSraImm 0 (vi 32) .i32, .vBfx 0 .both 1 2 .i32 0 0,
    .vBfx 0 .both 1 2 .i32 2 31, .vLane 0 .both 1 5, .vTwosum 0 .both 1 2 3 1, .vQpack 0 .both 1 2 3 1, .vQpack 0 .both 1 2 3 9,
    .vQpack 0 .both 1 2 1 4, .vQunpack 0 .both 1 2 3 1, .vRedx 0 .both 1 2 6 .i32, .vScan 0 .both 1 2 false 11 .f32,
    .meld 1 0, .meld 1 (-1), .loopv 1 0] = true := by decide +kernel

theorem test_illformed_fields_memory : badFields [
    .ld { mo .i32 with am := 1 }, .ldv { mD .z8 with am := 1 },
    .ld { mo .i32 with am := 3 }, .st { mo .i32 with acc := 1 }, .ld { mo .i32 with acc := 2 }, .ld { mo .i32 with acc := 3 },
    .ld { mo .i32 with acc := 1, scope := 7 }, .ld { mo .i32 with scope := 1 }, .lds { mo .i32 with acc := 1, scope := 3 },
    .ld { mD .i32 with fq := .fa }, .ld { mo .i32 with p := true }, .ld { mD .i32 with data := 64 },
    .ldv { mo .i32 with am := 1, off := 1 }, .atomAdd { mD .i32 with am := 1 }, .atomCas { mo .i32 with am := 2, off := 0x80 },
    .atomCas { mD .i32 with am := 2, off := 64 }, .tlogFlush { mo .i8 with ty := .i16 }, .tlogLen (mo .i8), .tlogFlush (mD .i8)]
    = true := by decide +kernel

theorem test_illformed_fields_memory_extra : badFields [
    .tlogFlush { mo .i8 with data := 1 }, .pf { mo .i8 with data := 1 }, .fence { mo .i8 with m := 1 },
    .fence { mo .i8 with data := 1 }, .fence { mo .i8 with base := 1 }, .fence { mo .i8 with off := 1 },
    .fence { mo .i8 with fq := .fa }, .stLog { mo .i32 with acc := 3, p := true }, .stLog { mD .i32 with acc := 3, p := true },
    .stLog { mD .z64 with acc := 3, p := true, data := 1 }, .elide { mo .z32 with am := 2, m := 1 },
    .elide { mo .z32 with am := 2, fq := .fb }, .elide { mo .z32 with am := 2, data := 16 }, .elidend { mo .i8 with off := 1 },
    .elidend { mo .i8 with m := 1 }, .eliabort { mo .i8 with am := 2, off := 256 }, .eliabort { mo .i8 with am := 2, base := 1 },
    .eliabort { mo .i8 with am := 2, m := 1 }] = true := by decide +kernel

/-! ## Witnesses: states and operands that meet the hypotheses of the statements, clause by clause -/

/-- The launch of `withFetchWord` with a group before a nop. -/
def base : State := State.reset.withFetchWord 128 (pairWord 0 0)
/-- Its group in the middle of a word that has passed its checks, all 64 lanes active. -/
def demo : State :=
  { base with iss := { Issue.zero with gid := hostGroup, w := 0x10000, mask := BitVec.allOnes 64, passed := true } }
/-- The same word before its checks. -/
def fresh (s : State) : State := { s with iss := { s.iss with passed := false } }
/-- Scalar registers of the group. -/
def withS (l : List (SReg × Word)) (s : State) : State := l.foldl (fun s x => ws s x.1 x.2) s
/-- The active mask of the word. -/
def withMask (m : Word) (s : State) : State := { s with iss := { s.iss with mask := m } }
def onGroup (f : Group → Group) (s : State) : State := updCg s f
/-- Split-table entries 0 to n − 1 in use, children of the undivided path. -/
def splitN (n : Nat) (s : State) : State :=
  onGroup (fun g => { g with split := (List.range n).map (fun e => (e + 1, { Path.zero with mask := 1 <<< e })) }) s

/-- In `demo`, and whatever its registers hold, every instruction executes normally. -/
theorem witness_clear (i : Instr) : Clear i demo := Or.inl rfl
theorem clear_of (i : Instr) {s : State} (h : s.iss.passed = true) : Clear i s := Or.inl h
theorem ok_of {ε α : Type} {r : Except ε α} {v : α} (h : r.toOption = some v) : r = .ok v := by
  cases r with
  | ok x => exact congrArg Except.ok (Option.some.inj h)
  | error e => cases h
/-- The code of a failure. -/
def failure {ε α : Type} (r : Except ε α) : Option ε := match r with | .error e => some e | .ok _ => none
theorem error_of {ε α : Type} {r : Except ε α} {e : ε} (h : failure r = some e) : r = .error e := by
  cases r with
  | ok x => cases h
  | error x => exact congrArg Except.error (Option.some.inj h)
theorem demo_quiet : Quiet demo := fun _ => ⟨rfl, rfl⟩

/-- Issued alone, one instruction of each shape passes its checks. -/
theorem witness_clear_alone : ([.nop, .sAdd 1 2 3, .sDiv 1 2 3, .br 1, .call false 1, .loopS 1 2, .sEnd, .barGrp 0, .idem, .sSys 1 10,
    .trap 5, .halt, .mZero 0, .cFill 1 0 7 true, .vAdd 0 (.vr .both 1 2 3) .i32, .vFma 0 (.vr .both 1 2 3 4) .f32, .kNot 0 .both 1 2,
    .vRedx 0 .both 1 2 0 .i32, .fence (mo .i8), .lds (mo .i32), .join, .meld 1 4, .demote .both 1] : List Instr).all
      (fun i => checkOne i (checkOf i) (fresh demo) == .pass) = true := by decide +kernel

theorem witness_RoundTrip : WellFormed (.sAddi 63 62 0xFFFFFFFF) = true ∧
    encodeScalar (.sAddi 63 62 0xFFFFFFFF) = some 0x3FFEFFFFFFFF ∧ decodeScalar 0x3FFEFFFFFFFF = .ok (.sAddi 63 62 0xFFFFFFFF) ∧
    WellFormed (.brv 7 (-1)) = true ∧ encodeVector (.brv 7 (-1)) = some 0x30003FFFFFFFFFF ∧
    decodeVector 0x30003FFFFFFFFFF = .ok (.brv 7 (-1)) := by decide +kernel

theorem witness_YarderDecoding : encodeYarder (.yDisp 31 0 31) = some 0x1F03F8B ∧ 0x1F03F8B % 128 = 0x0B ∧
    decodeYarder 0x0B = .ok (.yRfetch 0 0 0) ∧ decodeYarder 0x400B = .illegal ∧ decodeYarder 0xFFFFFF8B = .illegal ∧ 0x13 % 128 ≠ 0x0B := by
  decide +kernel

/-- Two instructions side by side, and for each rule of R95, R138, R241 and R248 a pair of slots that breaks it alone. -/
theorem witness_WordStructure_pairs :
    let wf := fun (i j : Instr) => WellFormed i = true ∧ (encodeScalar i).isSome = true ∧ WellFormed j = true ∧ (encodeVector j).isSome = true
    let add : Instr := .sAdd 1 2 3
    let vadd : Instr := .vAdd 0 (.vr .both 1 2 3) .i32
    (wf add vadd ∧ ownSlot add = none ∧ ownSlot vadd = none ∧ isTransfer add = false ∧ standsAlone vadd = false ∧ neverGoverned vadd = false) ∧
    (wf (.br 1) (.brv 1 4) ∧ isTransfer (.br 1) = true ∧ inRow0C (.brv 1 4) = true ∧ ownSlot (.br 1) = none ∧ ownSlot (.brv 1 4) = none) ∧
    (wf add (.eliabort { mo .i8 with am := 2 }) ∧ standsAlone (.eliabort { mo .i8 with am := 2 }) = true ∧ add ≠ .nop) ∧
    (wf (.sGclr 5) vadd ∧ ownSlot (.sGclr 5) = some 5 ∧ isTransfer (.sGclr 5) = false) ∧
    (wf add .join ∧ neverGoverned .join = true ∧ isTransfer add = false) ∧
    (wf .nop (.elide { mo .z32 with am := 2, data := 5 }) ∧ ownSlot (.elide { mo .z32 with am := 2, data := 5 }) = some 5) ∧
    ¬(false = true ∨ (true = false ∧ (0 : GReg) = 0)) := by decide +kernel
theorem witness_WordStructure : bits (0x013 * 2 ^ 50 + 2 ^ 49) 49 1 = 1 ∧ bits (0x013 * 2 ^ 50 + 2 ^ 49) 50 10 ∉ daggers ∧
    bits (0x3FF * 2 ^ 50 + 2 ^ 49) 49 1 = 1 ∧ bits (0x3FF * 2 ^ 50 + 2 ^ 49) 50 10 ∉ daggers := by decide +kernel

/-- `s.addi s1, s0, 5` beside `v.movi.i32 v0, 7`, placed and fetched. -/
def pairWd : Nat := pairWord (0x03 * 2 ^ 44 + 1 * 2 ^ 38 + 5) (0x035 * 2 ^ 50 + 2 * 2 ^ 28 + 7)
theorem witness_StepRunsDecodedWord :
    let s := State.reset.withFetchWord 128 pairWd
    let sc : Instr := .sAddi 1 0 5
    let ve : Instr := .vMovi 0 .both 0 .i32 7
    let s0 := refresh s 0
    let s1 := (fetchWord (passWaits s0 hostGroup 0) hostGroup 0x10000).1
    let s2 := (haltBefore s1 hostGroup 0 false 0x10000).1
    let f := Fetched.pair false false false 0 (.ok sc) (.ok ve)
    let s3 := latch s2 hostGroup 0 0x10000 f
    thermallyHeld s = false ∧ s.sched = [] ∧ s.cur = .group hostGroup ∧ (s0.core 0).tag = 1 ∧ (s0.core 0).active.contains 0 = true ∧
    readyPaths s0 hostGroup = [0] ∧ deliverable (s0.group hostGroup) = false ∧
    (pathOf ((passWaits s0 hostGroup 0).group hostGroup) 0).pc = 0x10000 ∧ (haltBefore s1 hostGroup 0 false 0x10000).2 = false ∧ decodeFault s3 f = none ∧
    guardNow s3 = .isTrue ∧ (cp s3).bound = false ∧ wordCheck s3 { sc := sc, ve := ve } = .pass := by decide +kernel
theorem witness_StepRunsDecodedWord_fetch :
    (fetchWord (passWaits (refresh (State.reset.withFetchWord 128 pairWd) 0) hostGroup 0) hostGroup 0x10000).2
      = .ok (.pair false false false 0 (.ok (.sAddi 1 0 5)) (.ok (.vMovi 0 .both 0 .i32 7))) := ok_of (by decide +kernel)

/-- The word latched for path `k`, and the statement's hypotheses on a turn with it. -/
def latched (s : State) (k : Nat) (f : Fetched) : State :=
  let w := (pathOf (s.group hostGroup) k).pc
  let s1 := (fetchWord (passWaits (refresh s 0) hostGroup k) hostGroup w).1
  latch (haltBefore s1 hostGroup k (stopBit f) w).1 hostGroup k w f
def turns (s : State) (k : Nat) (others : List Nat) (f : Fetched) : Bool :=
  let s0 := refresh s 0
  let w := (pathOf (s.group hostGroup) k).pc
  let x := fetchWord (passWaits s0 hostGroup k) hostGroup w
  decide (thermallyHeld s = false ∧ s.sched = [] ∧ s.cur = .group hostGroup ∧ clusterOff s0 (clusterOf 0) = false ∧ (s0.core 0).tag = 1 ∧
  (s0.core 0).active.contains 0 = true ∧ readyPaths s0 hostGroup = k :: others ∧ deliverable (s0.group hostGroup) = false ∧
  (pathOf ((passWaits s0 hostGroup k).group hostGroup) k).pc = w ∧ x.2.toOption = some f ∧
  (haltBefore x.1 hostGroup k (stopBit f) w).2 = false ∧ decodeFault (latched s k f) f = none)
/-- A word with a plain scalar slot or `m.zero a1`, governed by g0, beside `v.movi.i32 v0, 7` or the nop; `g`: what g0 holds. -/
def governed (g : Guard) (engine vector : Bool) : State :=
  (State.reset.withFetchWord 128 (pairWord (if engine then 0x60 * 2 ^ 44 + 2 ^ 38 else 0x03 * 2 ^ 44 + 1 * 2 ^ 38 + 5)
    (if vector then 0x035 * 2 ^ 50 + 2 * 2 ^ 28 + 7 else 0) + 2 ^ 124)).updGroup hostGroup (fun x => writeGuard x 0 g)
def governedF (engine vector : Bool) : Fetched :=
  .pair false true false 0 (.ok (if engine then .mZero 1 else .sAddi 1 0 5)) (.ok (if vector then .vMovi 0 .both 0 .i32 7 else .vNop))
/-- Under a guard that fails, holds, and has not resolved. -/
theorem witness_StepRunsDecodedWord_guards :
    let bound := (governed .isTrue true true).updGroup hostGroup (fun x => { x with root := { x.root with bound := true } })
    (turns (governed .isFalse false true) 0 [] (governedF false true) ∧ guardNow (latched (governed .isFalse false true) 0 (governedF false true)) = .isFalse ∧
      wordCheck (latched (governed .isFalse false true) 0 (governedF false true)) { sc := .nop, ve := .vNop } = .pass) ∧
    (turns bound 0 [] (governedF true true) ∧ (cp (latched bound 0 (governedF true true))).bound = true ∧
      wordCheck (latched bound 0 (governedF true true)) { sc := .nop, ve := .vMovi 0 .both 0 .i32 7 } = .pass) ∧
    (∀ b ∈ [true, false], turns (governed .unres false b) 0 [] (governedF false b)) ∧
    (∀ b ∈ [true, false], turns (governed .unres true b) 0 [] (governedF true b) ∧ guardNow (latched (governed .unres true b) 0 (governedF true b)) = .unres) ∧
    wordCheck (latched (governed .unres true false) 0 (governedF true false)) { sc := .mZero 1, ve := .vNop } = .pass ∧
    bindCheck (latched (governed .unres true true) 0 (governedF true true)) { sc := .mZero 1, ve := .vMovi 0 .both 0 .i32 7 } = .pass ∧
    isEngine (.mZero 1) = true ∧ isEngine (.sAddi 1 0 5) = false ∧ Instr.vMovi 0 .both 0 .i32 7 ≠ .vNop := by
  decide +kernel
/-- A solo word, and a word of entry 1 of the split table beside the undivided path. -/
theorem witness_StepRunsDecodedWord_paths :
    let solo := State.reset.withFetchWord 64 (2 ^ 62 + 0x035 * 2 ^ 50 + 2 * 2 ^ 28 + 7)
    let f := Fetched.solo false false false (.ok (.vMovi 0 .both 0 .i32 7))
    let p := Fetched.pair false false false 0 (.ok (.sAddi 1 0 5)) (.ok (.vMovi 0 .both 0 .i32 7))
    let split := (State.reset.withFetchWord 128 pairWd).updGroup hostGroup (fun g => { g with
      root := { g.root with mask := ~~~1, waits := [.draw 1 2 0 0] }, split := [(1, { Path.zero with mask := 1, pc := 0x10000 })] })
    turns solo 0 [] f ∧ slotsOf f = (.ok .nop, .ok (.vMovi 0 .both 0 .i32 7)) ∧
    wordCheck (latched solo 0 f) { sc := .nop, ve := .vMovi 0 .both 0 .i32 7 } = .pass ∧
    turns split 1 [] p ∧ wordCheck (latched split 1 p) { sc := .sAddi 1 0 5, ve := .vMovi 0 .both 0 .i32 7 } = .pass := by
  decide +kernel

/-- A Yarder about to run a word. -/
def yDemo (w : Nat) : State := State.reset.withFetchWord 32 w
theorem witness_StepRunsYarderAndEvents :
    let s := yDemo 0xC5950B
    thermallyHeld s = false ∧ s.sched = [] ∧ s.cur = .yarder 0 ∧ 0 < 2 * diesOf s.part ∧ firmwareRuns s = true ∧
    yInterrupted (s.yarder 0) = false ∧ (s.yarder 0).swait = none ∧ decodeYarder (yWord (s.yarder 0)) = .ok (.yBfx 10 11 12) ∧
    thermallyHeld { demo with sched := [.event .clockChange] } = false ∧ isEvent .clockChange = true ∧
    thermallyHeld { demo with sched := [.elapse 5] } = false ∧ decodeYarder (yWord ((yDemo 0x0200000B).yarder 0)) = .illegal ∧
    decodeYarder (yWord ((yDemo 0x13).yarder 0)) = .base ∧
    (let i := s.updYarder 0 (fun y => { y with mie := true, meie := true, meip := true })
     yInterrupted (i.yarder 0) = true) ∧
    (let w := s.updYarder 0 (fun y => { y with swait := some (5, 8, 0) })
     yInterrupted (w.yarder 0) = false ∧ (w.yarder 0).swait ≠ none) := by decide +kernel

theorem witness_StepAnswersOrStops : thermallyHeld { demo with stopped := true } = true ∧ thermallyHeld demo = false := by decide +kernel

/-- R126's cases: division by 0, of the most negative number by −1, and with both signs. -/
theorem witness_ScalarDivision :
    let s := withS [(1, BitVec.intMin 64), (2, BitVec.allOnes 64), (3, 7), (4, -3)] demo
    s.iss.passed = true ∧ rs s 0 = 0 ∧ rs s 1 = BitVec.intMin 64 ∧ rs s 2 = BitVec.allOnes 64 ∧
    (rs s 4 ≠ 0 ∧ ¬(rs s 3 = BitVec.intMin 64 ∧ rs s 4 = BitVec.allOnes 64)) ∧
    (rs s 2 ≠ 0 ∧ ¬(rs s 3 = BitVec.intMin 64 ∧ rs s 2 = BitVec.allOnes 64)) := by decide +kernel

theorem witness_ScalarShiftsAndFields : WellFormed (.sBfx 1 2 true 64 0) = true ∧ WellFormed (.sBfx 1 2 false 1 63) = true ∧
    WellFormed (.sBfi 1 2 64 0) = true ∧ WellFormed (.sBfi 1 2 1 63) = true ∧ demo.iss.passed = true := by decide +kernel

/-- `s.setfmt` of a register: bit 15 set, and each reserved code at its bound. -/
theorem witness_FormatAndGuards :
    let s := withS [(1, 0x8088), (2, 0x81), (3, 0x98), (4, 0x288)] (fresh demo)
    let bad := fun (v : Word) => 32768 ≤ v.toNat ∨ v.toNat % 16 ∉ [2, 3, 4, 5, 6, 7, 8, 10] ∨ v.toNat / 16 % 16 ∉ [2, 3, 4, 5, 6, 7, 8, 10] ∨
      2 ≤ v.toNat / 256 % 16
    s.iss.passed = false ∧ (∀ a ∈ ([1, 2, 3, 4] : List SReg), ctxCode (.sSetfmtReg a) s = none ∧ generalCode (.sSetfmtReg a) s 0 = none) ∧
    32768 ≤ (rs s 1).toNat ∧ (rs s 2).toNat % 16 ∉ [2, 3, 4, 5, 6, 7, 8, 10] ∧ (rs s 3).toNat / 16 % 16 ∉ [2, 3, 4, 5, 6, 7, 8, 10] ∧
    2 ≤ (rs s 4).toNat / 256 % 16 ∧ bad (rs s 4) := by decide +kernel

/-- A record of a counted loop, [0x100, 0x200). -/
def loop0 (count : Word) : LoopRec := { kind := false, start := 0x100, stop := 0x200, count := count, entry := 0, regn := 0 }
/-- NEXTPC's seven cases and the four of the word's end. -/
theorem witness_NextPc :
    ({ loop0 1 with kind := true }).kind = true ∧ ((0x200 : Word) = (loop0 2).stop ∧ (loop0 2).count - 1 ≠ 0) ∧
    ((loop0 1).count - 1 = 0 ∧ (loop0 1).kind = false) ∧ ((0x300 : Word) ≠ (loop0 1).stop ∧ (0xF0 : Word).toNat < (loop0 1).start.toNat) ∧
    ((loop0 1).stop.toNat ≤ (0x200 : Word).toNat) ∧
    ((loop0 1).start.toNat ≤ (0x100 : Word).toNat ∧ (0x100 : Word).toNat < (loop0 1).stop.toNat ∧ (loop0 1).stop.toNat ≤ (0x210 : Word).toNat) ∧
    ((0x1F0 : Word) ≠ (loop0 1).stop ∧ (loop0 1).start.toNat ≤ (0x1F0 : Word).toNat ∧ (0x1F0 : Word).toNat < (loop0 1).stop.toNat) ∧
    groupDone (cg demo) = false ∧ pathLives (cg demo) 0 = true ∧ pathEnded (cg demo) 0 = false ∧ demo.iss.next = .fall ∧
    (goTo demo 0x40).iss.next = .goto 0x40 ∧ (endWord demo).iss.next = .ended := by decide +kernel

theorem witness_Branches :
    let s := withS [(1, 0x10), (2, 0x200000000000000), (3, 8), (4, 5), (5, 6)] (fresh demo)
    let eq : CmpCode := ⟨.eq, 3, false⟩
    compareOperand eq (rs s 1) ≠ compareOperand eq (rs s 3) ∧
    ((rs s 4).toNat < (6 : BitVec 20).toNat ∧ (6 : BitVec 20).toNat ≤ (rs s 5).toNat) ∧
    s.iss.passed = false ∧
    (ctxCode (.br (2 ^ 37 - 1)) { s with iss := { s.iss with w := 0xFFFFFFFFFFFFF0 } } = none ∧
      generalCode (.br (2 ^ 37 - 1)) { s with iss := { s.iss with w := 0xFFFFFFFFFFFFF0 } } 0 = none ∧
      canonical (((0xFFFFFFFFFFFFF0 : Word) &&& ~~~15) + 16 * (2 ^ 37 - 1 : BitVec 38).signExtend 64) = false) ∧
    (ctxCode (.jmp 1 8) s = none ∧ generalCode (.jmp 1 8) s 0 = none ∧ canonical (rs s 1 + (8 : BitVec 32).signExtend 64) = true ∧
      (rs s 1 + (8 : BitVec 32).signExtend 64).toNat % 16 ≠ 0) ∧
    canonical (rs s 2 + (0 : BitVec 32).signExtend 64) = false := by decide +kernel

/-- A target that is no canonical address, of each transfer that is taken, and a misaligned one of `brx`. -/
theorem witness_Branches_traps :
    let high := fun (s : State) => { s with iss := { s.iss with w := 0xFFFFFFFFFFFFF0 } }
    let s := high (onGroup (fun g => writeM g 1 (BitVec.allOnes 64)) (withS [(2, 0x200000000000000), (3, 1), (4, 8)] (fresh demo)))
    let eq : CmpCode := ⟨.eq, 3, false⟩
    let base := s.iss.w &&& ~~~15
    s.iss.passed = false ∧ (∀ i ∈ [.bcc 3 3 eq (2 ^ 19 - 1), .brx 2 3 2, .brx 4 3 2, .bany 1 (2 ^ 38 - 1), .ball 1 (2 ^ 38 - 1)],
      ctxCode i s = none ∧ generalCode i s 0 = none) ∧
    canonical (base + 16 * (2 ^ 19 - 1 : BitVec 20).signExtend 64) = false ∧ compareOperand eq (rs s 3) = compareOperand eq (rs s 3) ∧
    (rs s 3).toNat < (2 : BitVec 20).toNat ∧ canonical (rs s 2 + 16 * rs s 3) = false ∧
    (canonical (rs s 4 + 16 * rs s 3) = true ∧ (rs s 4 + 16 * rs s 3).toNat % 16 ≠ 0) ∧
    canonical (base + 16 * (2 ^ 38 - 1 : BitVec 39).signExtend 64) = false ∧ readM (cg s) 1 &&& s.iss.mask ≠ 0 ∧
    readM (cg s) 1 &&& s.iss.mask = s.iss.mask := by decide +kernel

theorem witness_Stands : Stands .eq (compareOperand ⟨.eq, 3, false⟩ 5) (compareOperand ⟨.eq, 3, false⟩ 5) ∧
    ¬Stands .lt (compareOperand ⟨.lt, 0, true⟩ 0xFF) (compareOperand ⟨.lt, 0, true⟩ 0x17F) :=
  ⟨rfl, show ¬(compareOperand ⟨.lt, 0, true⟩ 0xFF < compareOperand ⟨.lt, 0, true⟩ 0x17F) by decide +kernel⟩

/-- A meld record, and the two call records of a face call: its face B run owed, and done. -/
def meldRec : FaceRec := { facea := 0xFF, entry := BitVec.allOnes 64, stop := 0x10100, fmtc := fmtReset }
def callRec (b : Word) : FaceRec := { facea := b, entry := BitVec.allOnes 64, stop := 0x20001, fmtc := fmtReset }
theorem witness_CallsAndReturns :
    let m := onGroup (fun g => { g with face := [meldRec] }) demo
    let c := fun b => withS [(62, 0x10011)] (onGroup (fun g => { g with face := [callRec b] }) demo)
    let f := withS [(1, 0x10012), (62, 0x10011)] (fresh demo)
    callParts demo false = none ∧ callParts m true = none ∧ callParts m false = some (0xFF, ~~~0xFF) ∧
    rs demo 0 &&& 15 = 0 ∧ rs (c 0xFF) 62 &&& 15 = 1 ∧ (cg (c 0xFF)).face = [callRec 0xFF] ∧ (callRec 0xFF).stop &&& 15 = 1 ∧
    (callRec 0xFF).facea &&& ~~~(cg (c 0xFF)).gone ≠ 0 ∧ (callRec 0).facea &&& ~~~(cg (c 0)).gone = 0 ∧
    f.iss.passed = false ∧ ctxCode (.ret 62) f = none ∧ generalCode (.ret 62) f 0 = none ∧ ctxCode (.ret 1) f = none ∧
    generalCode (.ret 1) f 0 = none ∧ rs f 1 &&& 15 ≠ 0 ∧ rs f 1 &&& 15 ≠ 1 ∧ canonical (rs f 1) = true ∧ rs f 62 &&& 15 = 1 ∧
    (cg f).face = [] ∧ (cg (fresh m)).face = [meldRec] ∧ meldRec.stop &&& 15 ≠ 1 := by decide +kernel

/-- A record of a per-lane loop that ends at the demo word, with its count register v1 at 2 in lane 0 and at 1 in lane 1. -/
def loopv0 : LoopRec := { kind := true, start := 0xFF00, stop := 0x10000, count := 3, entry := BitVec.allOnes 64, regn := 1 }
def loopvDemo : State :=
  onGroup (fun g => writeV (writeV { g with loops := [loopv0] } 1 0 2) 1 1 1) demo
theorem witness_Loops :
    let s := withS [(1, 3)] demo
    rs s 0 = 0 ∧ rs s 1 ≠ 0 ∧ (fresh s).iss.passed = false ∧ ctxCode (.loopS 1 2) (fresh s) = none ∧ generalCode (.loopS 1 2) (fresh s) 0 = none ∧
    (cg (splitN 1 (fresh s))).split ≠ [] ∧ generalCode (.loopS 1 2) (splitN 1 (fresh s)) 0 = none ∧
    (∀ l, l < 64 → bit (3 : Word) l = (bit loopvDemo.iss.mask l && readV (cg loopvDemo) 1 l != 0)) ∧
    (∀ l, l < 64 → bit (0 : Word) l = (bit loopvDemo.iss.mask l && readV (cg loopvDemo) 0 l != 0)) ∧
    (cg loopvDemo).loops = [loopv0] ∧ loopv0.kind = true ∧ loopv0.stop = loopvDemo.iss.w ∧ (cg loopvDemo).split = [] ∧
    (∀ l, l < 64 → bit (1 : Word) l = (bit (loopv0.count &&& ~~~(cg loopvDemo).gone) l && decide (1 < (readV (cg loopvDemo) loopv0.regn l).toNat))) ∧
    ctxCode .loopvEnd (fresh s) = none ∧ generalCode .loopvEnd (fresh s) 0 = none ∧ (cg (fresh s)).loops = [] ∧
    generalCode .loopvEnd (splitN 1 (fresh loopvDemo)) 0 = none ∧ (cg (splitN 1 (fresh loopvDemo))).split ≠ [] := by decide +kernel

theorem witness_NopYieldEnd :
    (∀ p ∈ (demo.core 0).pending, groupReady demo { hostGroup with grp := p } = false) ∧
    liveMask (cg demo) &&& ~~~demo.iss.mask = 0 ∧ groupDone (cg demo) = false ∧ liveMask (cg (withMask 1 demo)) &&& ~~~(withMask 1 demo).iss.mask ≠ 0 := by
  decide +kernel

/-- m1 selects no lane, every lane, or lanes 0 to 7; the first and the last free entry; a full split table. -/
theorem witness_SplittingBranch :
    let m := fun (v : Word) (s : State) => onGroup (fun g => writeM g 1 v) s
    let b := fun (s : State) => readM (cg s) 1 &&& s.iss.mask
    b demo = 0 ∧ b (m (BitVec.allOnes 64) demo) = demo.iss.mask ∧ (b (m 0xFF demo) ≠ 0 ∧ b (m 0xFF demo) ≠ demo.iss.mask) ∧
    (cg (m 0xFF demo)).region = none ∧ (∀ p ∈ (cg (m 0xFF demo)).split, p.1 ≠ 0 + 1) ∧
    (∀ p ∈ (cg (splitN 7 (m 0xFF demo))).split, p.1 ≠ 7 + 1) ∧ (∀ f < 7, ∃ p ∈ (cg (splitN 7 (m 0xFF demo))).split, p.1 = f + 1) ∧
    (let s := fresh (splitN 8 (m 0xFF demo))
     s.iss.passed = false ∧ ctxCode (.brv 1 4) s = none ∧ generalCode (.brv 1 4) s 0 = none ∧ b s ≠ 0 ∧ b s ≠ s.iss.mask ∧
     canonical ((s.iss.w &&& ~~~15) + 16 * (4 : BitVec 39).signExtend 64) = true ∧ ∀ f < 8, ∃ p ∈ (cg s).split, p.1 = f + 1) := by
  decide +kernel

theorem witness_JoinsAndMelds :
    let s := onGroup (fun g => { g with face := [{ meldRec with stop := 0x10000 }] }) demo
    demo.iss.path = 0 ∧ (cg demo).split = [] ∧ ¬(demo.iss.path = 0 ∧ (cg (splitN 1 demo)).split = []) ∧
    (cg s).face = [{ meldRec with stop := 0x10000 }] ∧ (cg s).split = [] ∧ s.iss.w &&& 15 ≠ 1 ∧
    (let f := fresh (splitN 1 demo)
     f.iss.passed = false ∧ ctxCode (.meld 1 4) f = none ∧ generalCode (.meld 1 4) f 0 = none ∧ (cg f).loops = [] ∧ (cg f).split ≠ []) := by
  decide +kernel

/-- A child and its parent, at joins of the same word and of different ones. -/
def atJoin (w x : Word) : State :=
  onGroup (fun g => { g with root := { g.root with pc := x, waits := [.join x false] }
                             split := [(1, { Path.zero with mask := 1, pc := w, waits := [.join w false] })] }) demo
def fusable (x : Word) : Prop :=
  let G := (atJoin 0x10000 x).group hostGroup
  groupDone G = false ∧ G.split = [(1, { Path.zero with mask := 1, pc := 0x10000, waits := [.join 0x10000 false] })] ∧ pathEnded G 1 = false ∧
  pathEnded G 0 = false ∧ G.root.waits = [.join x false] ∧ G.root.pc = x ∧ G.region = none ∧ loopBackAbove G 0x10000 0x10010 = false
theorem witness_JoinsAndMelds_fuse : fusable 0x10000 ∧ fusable 0x10020 := by unfold fusable; decide +kernel
/-- A parent that has arrived at barriers above its group's level, and one that has not, as a child fuses into it. -/
theorem witness_JoinsAndMelds_arrivals :
    let s := onGroup (fun g => { g with root := { g.root with mask := ~~~1 } }) (atJoin 0x10000 0x10000)
    let G := s.group hostGroup
    let own := ownLanes G 0
    let arrived := fun (b : Nat) (m : Word) => decide (b ≠ 0 ∧ own &&& m ≠ 0 ∧ own &&& liveMask G &&& ~~~m = 0)
    arrived 1 (~~~1) = true ∧ arrived 0 (~~~1) = false ∧ arrived 1 1 = false ∧ arrived 2 4 = false ∧ own &&& 1 = 0 ∧
    G.split = [(1, { Path.zero with mask := 1, pc := 0x10000, waits := [.join 0x10000 false] })] := by decide +kernel
/-- A divided group, alone, with a loop that ends after the word, and with an open region; full stacks; a region that ends at the word. -/
def divided (s : State) : State := splitN 1 (fresh s)
def inLoop (s : State) : State := onGroup (fun g => { g with loops := [{ loop0 2 with start := 0x10000, stop := 0x10010 }] }) s
def inMeld (s : State) : State := onGroup (fun g => { g with face := [{ meldRec with stop := 0x10000 }] }) s
/-- No check of a word of two nops fails. -/
def idleWord (s : State) : Bool :=
  generalFault s { sc := .nop, ve := .vNop } == none && checkOf .nop s == .pass && checkOf .vNop s == .pass
def moving (s : State) (t : Word) : Bool := (nextPcGo s.iss.w t (cg s).loops).1 != (cg s).loops
def marks (m : Word) (s : State) : State := onGroup (fun g => writeM g 1 m) s
theorem witness_JoinsAndMelds_depth :
    let d := divided demo
    let m := divided (onGroup (fun g => { g with face := [meldRec] }) demo)
    (cg d).split ≠ [] ∧ moving d (nextWord d) = false ∧ (cg m).split ≠ [] ∧ callParts m false ≠ none ∧ rs m 1 &&& 15 = 0 ∧
    (∀ i ∈ [.meld 1 1, .loopS 1 1, .loopv 1 1, Instr.loopvEnd], ctxCode i d = none ∧ generalCode i d 0 = none) ∧
    (∀ i ∈ [.call false 1, Instr.callx false 1], ctxCode i m = none ∧ generalCode i m 0 = none) := by decide +kernel
theorem witness_JoinsAndMelds_loops :
    let l := divided (inLoop (withS [(1, 0x10010)] demo))
    let x := marks (BitVec.allOnes 64) l
    let y := marks 1 l
    l.iss.passed = false ∧ (cg l).split ≠ [] ∧ moving l 0x10010 = true ∧ rs l 1 = 0x10010 ∧ nextWord l = 0x10010 ∧ idleWord l = true ∧
    (∀ i ∈ [.br 1, Instr.ret 1], ctxCode i l = none ∧ generalCode i l 0 = none) ∧
    ctxCode (.brv 1 1) x = none ∧ generalCode (.brv 1 1) x 0 = none ∧ moving x 0x10010 = true ∧ readM (cg x) 1 &&& x.iss.mask = x.iss.mask ∧
    (∀ i ∈ [.bany 1 1, Instr.brv 1 1], ctxCode i y = none ∧ generalCode i y 0 = none) ∧
    readM (cg y) 1 &&& y.iss.mask ≠ 0 ∧ readM (cg y) 1 &&& y.iss.mask ≠ y.iss.mask ∧ ∀ p ∈ (cg y).split, p.1 ≠ 1 + 1 := by decide +kernel
theorem witness_JoinsAndMelds_full :
    let s := fresh (withS [(1, 5)] (onGroup (fun g => writeV { g with face := List.replicate 4 meldRec, loops := List.replicate 4 (loop0 2) } 1 0 1) demo))
    s.iss.passed = false ∧ (cg s).split = [] ∧ 4 ≤ (cg s).face.length ∧ 4 ≤ (cg s).loops.length ∧ callParts s false ≠ none ∧ rs s 1 ≠ 0 ∧
    bit s.iss.mask 0 = true ∧ readV (cg s) 1 0 ≠ 0 ∧
    ∀ i ∈ [.meld 1 1, .call false 1, .loopS 1 1, Instr.loopv 1 1], ctxCode i s = none ∧ generalCode i s 0 = none := by decide +kernel
theorem witness_JoinsAndMelds_above :
    let r := fresh (inMeld (withS [(1, 0x10010), (2, 1)] demo))
    let b := fresh (onGroup (fun g => { g with loops := [{ loop0 2 with start := 0x10020, stop := 0x10010 }], face := [{ meldRec with stop := 0x10000 }] }) demo)
    r.iss.passed = false ∧ (cg r).split = [] ∧ (cg r).face = [{ meldRec with stop := 0x10000 }] ∧ (0x10000 : Word) &&& 15 ≠ 1 ∧
    canonical 0x10010 = true ∧ rs r 1 = 0x10010 ∧ readM (cg (marks (BitVec.allOnes 64) r)) 1 &&& r.iss.mask = r.iss.mask ∧
    (∀ i ∈ [.br 1, .bcc 1 1 ⟨.eq, 3, false⟩ 1, .jmp 1 0, Instr.brx 1 0 1], ctxCode i r = none ∧ generalCode i r 0 = none) ∧
    (∀ i ∈ [.bany 1 1, Instr.ball 1 1], ctxCode i (marks (BitVec.allOnes 64) r) = none ∧ generalCode i (marks (BitVec.allOnes 64) r) 0 = none) ∧
    (cg b).split = [] ∧ idleWord b = true ∧ (nextPcGo b.iss.w (nextWord b) (cg b).loops).2 = 0x10020 ∧ nextWord b ≠ 0x10020 := by decide +kernel

theorem witness_LaneFormats_uniform :
    let s := { demo with iss := { demo.iss with uniform := true } }
    s.iss.uniform = true ∧ effMask s 0 .both ≠ 0 ∧ effMask (withMask 0 demo) 0 .both = 0 := by decide +kernel
theorem witness_LaneFormats : Ty.i8 ∈ intTys ∧ Ty.z32 ∈ intTys ∧ Ty.i8.signed = true ∧ Ty.z32.signed = false := by decide +kernel

theorem witness_VectorMoves : WellFormed (.vLane 0 .both 1 0) = true ∧ WellFormed (.vLane 0 .both 1 4) = true := by decide +kernel

/-- One value of each kind, in the formats named. -/
theorem witness_RoundingAndSpecialCases :
    (unpack fp32 0x7F800001).isSig = true ∧ (unpack fp16 0x7E00).isNan = true ∧ (unpack fp16 0x7E00) = .nan false ∧ (unpack fp16 0x3C00).isNan = false ∧
    (0x3C00 : Nat) < 2 ^ (fp16.ebits + fp16.fbits + 1) ∧ unpack bf16 0x7F80 = .inf false ∧ unpack bf16 0xFF80 = .inf (!false) ∧
    (∃ e, unpack fp32 0 = .fin false 0 e) ∧ (∃ p e, unpack fp32 0x3F800000 = .fin false (p + 1) e) ∧
    (∃ m e, unpack fp32 0x3F800000 = .fin false (m + 1) e ∧ unpack fp32 0xBF800000 = .fin true (m + 1) e) :=
  by
  iterate 7 refine And.intro (by decide +kernel) ?_
  exact ⟨⟨_, rfl⟩, ⟨8388607, _, rfl⟩, 8388607, _, rfl, rfl⟩

/-- A pair of numbers whose sum rounds to a normal number, and one that overflows; the conversions' cases. -/
theorem witness_RoundingAndSpecialCases_more :
    unpack fp16 0x7C00 = .inf false ∧ (∃ e, unpack fp16 0x8000 = .fin true 0 e) ∧ (∃ e, unpack fp16 0 = .fin false 0 e) ∧
    ¬(unpack fp16 0x3C00).isNan = true ∧ (unpack fp16 0x3C00).isSig = false ∧ (0 : Nat) < 1 ∧
    (packFV fp16 0 (.fin false 1 0)).2 = 0 ∧ (roundMag fp16 0 false 1 40).2 = fOF ||| fNX ∧ (roundMag fp16 0 false 1 0).1 = 0x3C00 := by
  refine ⟨by decide +kernel, ⟨_, rfl⟩, ⟨_, rfl⟩, ?_⟩
  decide +kernel
/-- 1.0 fits `i8`, 1000.0 and −1000.0 do not; `u32` 7 and 0; each special operand. -/
theorem witness_VectorFloat :
    Ty.f32 ∈ fpTys ∧ Ty.i8 ∈ intTys ∧ (∃ m e, unpack fp32 0x3F800000 = .fin false (m + 1) e) ∧ (∃ m e, unpack fp32 0x447A0000 = .fin false (m + 1) e) ∧
    (unpack fp32 0x7FC00000).isNan = true ∧ unpack fp32 0x7F800000 = .inf false ∧ intOf .z32 7 ≠ 0 ∧ intOf .z32 0 = 0 ∧
    convert .f32 .i8 0 false 0x3F800000 = (1, 0) ∧ convert .f32 .i8 0 true 0x447A0000 = (127, fNV) ∧ convert .f32 .i8 0 true 0xC47A0000 = (-128, fNV) ∧
    specialOperand .rcp (unpack fp32 0) = some (0x7F800000, fDZ) ∧ specialOperand .log2 (unpack fp32 0xBF800000) = some (fp32.nan, fNV) := by
  refine ⟨by decide +kernel, by decide +kernel, ⟨8388607, _, rfl⟩, ⟨16383999, _, by rfl⟩, ?_⟩
  decide +kernel
/-- A value of each class, and operands whose exact result is 0 and is not. -/
theorem witness_VectorFloat_classes :
    unpack fp32 0xFF800000 = .inf true ∧ unpack fp32 0x7F800000 = .inf false ∧ (∃ e, unpack fp32 0 = .fin false 0 e) ∧
    (∃ e, unpack fp32 0x80000000 = .fin true 0 e) ∧ (∃ e, unpack fp32 1 = .fin false (0 + 1) e ∧ magnitude (valueOf (unpack fp32 1)) < 2 ^ fp32.emin) ∧
    ¬(magnitude (valueOf (unpack fp32 0x3F800000)) < 2 ^ fp32.emin) ∧ unpack fp32 0x7FC00000 = .nan false ∧ (unpack fp32 0x7F800001).isSig = true ∧
    valueOf (unpack fp32 0x3F800000) - valueOf (unpack fp32 0x3F800000) = 0 ∧ valueOf (unpack fp32 0x3F800000) - valueOf (unpack fp32 0) ≠ 0 ∧
    valueOf (unpack fp32 0x3F800000) * valueOf (unpack fp32 0x3F800000) + valueOf (unpack fp32 0xBF800000) = 0 ∧
    valueOf (unpack fp32 0x3F800000) * valueOf (unpack fp32 0x3F800000) + valueOf (unpack fp32 0) ≠ 0 := by
  iterate 2 refine And.intro (by decide +kernel) ?_
  iterate 2 refine And.intro ⟨_, rfl⟩ ?_
  refine And.intro ⟨_, rfl, by decide +kernel⟩ ?_
  decide +kernel

theorem witness_VectorFloatCompares : (unpack fp32 0x7FC00000).isNan = true ∧ (unpack fp32 0x3F800000).isNan = false ∧ unpack fp32 0xFF800000 = .inf true ∧
    (∃ m e, unpack fp32 0x3F800000 = .fin false m e) :=
  ⟨by decide +kernel, by decide +kernel, by decide +kernel, _, _, rfl⟩
theorem witness_VectorPairs_infinite : unpack fp32 (fAdd fp32 0 0x7F800000 0).1 = .inf false := by decide +kernel
theorem witness_VectorPairs : (1 : VReg) ≠ 2 ∧ demo.iss.uniform = false ∧ demo.iss.passed = true := by decide +kernel

/-- A sum with an exact and with an inexact result; blocks with a NaN, of zeros, with an infinite value, and with a greatest value. -/
theorem witness_VectorPairs_errors :
    let err := fun (a b : Nat) => valueOf (unpack fp32 a) + valueOf (unpack fp32 b) - valueOf (unpack fp32 (fAdd fp32 0 a b).1)
    err 0x3F800000 0x3F800000 = 0 ∧ err 0x3F800000 0x30800000 ≠ 0 ∧ (∃ p d, unpack fp32 (fAdd fp32 0 0x3F800000 0x30800000).1 = .fin false p d) ∧
    (FV.nan false).isNan = true ∧ (∀ v ∈ [FV.fin false 0 0], ∃ n e, v = .fin n 0 e) ∧ (FV.inf true).isNan = false ∧
    (∀ u ∈ [FV.fin false 3 0], (∀ n, u ≠ .inf n) ∧ magnitude (valueOf u) ≤ magnitude (valueOf (.fin false 3 0))) ∧
    (2 ^ (1 : Int) : Rat) ≤ magnitude (valueOf (.fin false 3 0)) ∧ magnitude (valueOf (.fin false 3 0)) < 2 ^ ((1 : Int) + 1) ∧
    -(2 ^ 3 : Int) ≤ 0 ∧ (0 : Int) < 2 ^ 3 := by
  refine ⟨by decide +kernel, by decide +kernel, ⟨_, _, rfl⟩, rfl, ?_, rfl, ?_, by decide +kernel, by decide +kernel, by decide, by decide⟩
  · simp
  · simp

/-- An empty and a full effective mask, and a lane before which E has none. -/
theorem witness_CrossLane : demo.iss.uniform = false ∧ (0 : BitVec 4) ≠ 8 ∧
    bit (effMask demo 0 .both) 0 = true ∧ (∀ j, j < 0 → bit (effMask demo 0 .both) j = false) ∧
    bit (effMask (withMask (1 <<< 63) demo) 0 .both) 63 = true ∧ (∀ j, j < 63 → bit (effMask (withMask (1 <<< 63) demo) 0 .both) j = false) := by
  decide +kernel

/-- One lane of E and two; the ends of the tree's cases. -/
theorem witness_CrossLane_folds :
    (lanesOf (effMask (withMask 1 demo) 0 .both)).map (fun i => (readV (cg demo) 1 i).toNat) = [0] ∧
    (lanesOf (effMask (withMask 5 demo) 0 .both)).map (fun i => (readV (cg demo) 1 i).toNat) = [0, 0] ∧
    bit (effMask (withMask 5 demo) 0 .both) 0 = true ∧ bit (effMask (withMask 5 demo) 0 .both) 2 = true ∧
    (∀ i, 0 < i → i < 2 → bit (effMask (withMask 5 demo) 0 .both) i = false) ∧
    (unpack fp32 0x3F800000).isNan = false ∧ (0x3F800000 : Nat) ≠ 0x80000000 := by
  refine ⟨by decide +kernel, by decide +kernel, by decide +kernel, by decide +kernel, fun i h g => ?_, by decide +kernel, by decide +kernel⟩
  obtain rfl : i = 1 := by omega
  decide +kernel

theorem witness_SystemRegisters : demo.iss.mask ≠ 0 ∧ (withMask 0 demo).iss.mask = 0 ∧ (fresh demo).iss.passed = false ∧
    ((0x0A : BitVec 8) ≠ 0x08 ∧ (0x0A : BitVec 8) ≠ 0x09 ∧ ¬((cg (fresh demo)).h = true ∧ ((0x0A : BitVec 8) = 0x00 ∨ (0x0A : BitVec 8) = 0x02))) ∧
    ¬((cg (fresh demo)).h = true ∧ ((0x00 : BitVec 8) = 0x00 ∨ (0x00 : BitVec 8) = 0x02)) := by decide +kernel

/-- The launch's handler at the demo word, whose line is in the instruction cache. -/
def handled (s : State) : State := s.updLaunch 1 (fun l => { l with handler := some 0x10000 })
def inHandler (k : Kept) (s : State) : State := onGroup (fun g => { g with h := true, kept := some k, xpc := 0x10010 }) s
theorem witness_TakingAFault :
    let s := handled (fresh demo)
    (cg s).region = none ∧ (cg s).h = false ∧ (s.launch 1).handler = some 0x10000 ∧ canonical 0x10000 = true ∧
    (icacheLine (s.core 0) (s.launch 1).ctx (0x10000 / 128)).isSome = true ∧ ((fresh demo).launch 1).handler = none ∧
    ((fresh demo).launch 1).tag = 1 ∧ ((fresh demo).launch 1).status = none ∧ ((fresh demo).launch 1).state ≠ .completing := by decide +kernel

def kept0 (m : Word) : Kept :=
  { path := 0, mask := m, fmt := fmtReset, nsplit := 0, nface := 0, nloop := 0, waits := [], bound := none, code := 0x40, excl := none }
/-- Breaks off and on; `rett` with and without lanes left beside FAULTMASK; PRIV. -/
theorem witness_TrapsAndReturn :
    let s := inHandler (kept0 0xFF) demo
    let f := fun (m : Word) => onGroup (fun g => { g with faultmask := m }) s
    groupDone (cg demo) = false ∧ ¬(regLE demo (dbgBase (demo.launch 1).ctx) 8 % 2 = 1) ∧
    (let b := putReg demo (dbgBase 0) 8 1
     regLE b (dbgBase (b.launch 1).ctx) 8 % 2 = 1 ∧ groupDone (cg b) = false) ∧
    (cg s).kept = some (kept0 0xFF) ∧ groupDone (cg s) = false ∧ liveMask (cg s) ≠ 0 ∧
    (kept0 0xFF).mask &&& ~~~(cg (f 1)).faultmask ≠ 0 ∧ (kept0 0xFF).mask &&& ~~~(cg (f 0xFF)).faultmask = 0 ∧
    liveMask (cg (f 1)) &&& ~~~(cg (f 1)).faultmask ≠ 0 ∧
    liveMask (cg (f (BitVec.allOnes 64))) &&& ~~~(cg (f (BitVec.allOnes 64))).faultmask = 0 ∧
    (fresh demo).iss.passed = false ∧ (cg (fresh demo)).h = false ∧ (cg (onGroup (fun g => { g with svc := false }) (fresh demo))).svc = false := by
  decide +kernel

/-- In a handler: a stack of each kind that is not as deep as at entry, and lanes that have become GONE. -/
theorem witness_TrapsAndReturn_stacks :
    let s := inHandler (kept0 0xFF) (fresh demo)
    (∀ t ∈ [s, splitN 1 s, onGroup (fun g => { g with loops := [loop0 1] }) s, onGroup (fun g => { g with face := [meldRec] }) s],
      t.iss.passed = false ∧ (cg t).h = true ∧ (cg t).kept = some (kept0 0xFF)) ∧
    (cg (splitN 1 s)).split.length ≠ (kept0 0xFF).nsplit ∧ (cg s).split.length = (kept0 0xFF).nsplit ∧ (cg s).split = [] ∧
    (cg (onGroup (fun g => { g with loops := [loop0 1] }) s)).loops.length ≠ (kept0 0xFF).nloop ∧
    (cg (onGroup (fun g => { g with face := [meldRec] }) s)).face.length ≠ (kept0 0xFF).nface ∧
    (let g := cg (onGroup (fun g => { g with gone := 0xF }) s)
     liveMask g ≠ 0 ∧ (kept0 0xFF).mask &&& ~~~g.gone = 0xF0) := by decide +kernel

/-- No LIVE lane; LIVE lanes that arrive; an arrival not yet passed. -/
theorem witness_Waits :
    let h := onGroup (fun g => { g with helper := BitVec.allOnes 64 }) demo
    let b := onGroup (fun g => { g with bars := [{ level := 1, n := 3, phase := 0, share := BitVec.allOnes 64, lanes := BitVec.allOnes 64
                                                   signalled := true, before := 0 }] }) demo
    liveActive h = 0 ∧ liveActive demo ≠ 0 ∧ (0 : BitVec 2).toNat ≤ 1 ∧ (1 : BitVec 2).toNat ≤ 1 ∧
    arrivedPhase (cg b) 1 3 (liveActive b) = some 0 ∧ liveActive b ≠ 0 ∧ rs demo 0 = 0 ∧ rs (withS [(1, 128)] demo) 1 ≠ 0 ∧
    (let f := fresh b
     f.iss.passed = false ∧ ctxCode (.barBlk 0 3) f = none ∧ generalCode (.barBlk 0 3) f 0 = none ∧ liveActive f ≠ 0 ∧
     (barRecord (cg f) 1 3 (phaseCount f hostGroup 1 3)).map (fun r => r.lanes &&& liveActive f) = some (BitVec.allOnes 64) ∧
     ctxCode (.barBlk 2 5) f = none ∧ generalCode (.barBlk 2 5) f 0 = none ∧ ∀ r ∈ (cg f).bars, r.n ≠ 5) := by decide +kernel

/-- An arrival of part of a path's lanes at each level, and a path without one. -/
theorem witness_Waits_arrivals :
    let b := fun (l : Nat) => onGroup (fun g => { g with bars := [{ level := l, n := l, phase := 0, share := BitVec.allOnes 64, lanes := 1, signalled := false, before := 0 }] }) (fresh demo)
    arrivedPhase (cg (b 0)) 0 0 ((cp (b 0)).mask &&& liveMask (cg (b 0))) = some 0 ∧ arrivedPhase (cg (b 1)) 1 1 (ownLanes (cg (b 1)) 0) = some 0 ∧
    (barRecord (cg (b 0)) 0 0 (phaseCount (b 0) hostGroup 0 0)).map (fun r => decide (r.lanes &&& liveActive (b 0) ≠ 0)) = some true ∧
    (∀ r ∈ (cg (fresh demo)).bars, r.level = 0 → r.n = 0 → bit r.share 0 = false) ∧ bit ((cp (fresh demo)).mask &&& liveMask (cg (fresh demo))) 0 = true ∧
    (∀ i ∈ [.barGrp 0, .barGrp 2, .barClu 2 5], ctxCode i (fresh demo) = none ∧ generalCode i (fresh demo) 0 = none) := by decide +kernel

/-- A second arrival of a path whose lanes have all arrived, at each level, and one of a path of which a part has. -/
theorem witness_Waits_again :
    let b := fun (l : Nat) (m : Word) => onGroup (fun g => { g with bars := [{ level := l, n := l, phase := 0, share := m, lanes := m, signalled := false, before := 0 }] }) (fresh demo)
    let own := ownLanes (cg (b 1 (BitVec.allOnes 64))) 0
    (∀ l ∈ [1, 2, 3], (barRecord (cg (b l (BitVec.allOnes 64))) l l (phaseCount (b l (BitVec.allOnes 64)) hostGroup l l)).map
      (fun r => decide (own &&& liveMask (cg (b l (BitVec.allOnes 64))) &&& ~~~r.lanes = 0)) = some true) ∧
    (barRecord (cg (b 1 1)) 1 1 (phaseCount (b 1 1) hostGroup 1 1)).map (fun r => decide (own &&& liveMask (cg (b 1 1)) &&& ~~~r.lanes = 0)) = some false ∧
    bit own 63 = true ∧ bit (liveMask (cg (b 1 1))) 63 = true ∧ bit own 64 = false ∧
    (∀ i ∈ [.barBlk 0 1, .barClu 0 2, .barGrid 0 3], ctxCode i (fresh demo) = none ∧ generalCode i (fresh demo) 0 = none) := by decide +kernel

/-- A shoe of the launch's stage. -/
def shoe (st : Nat) (x : Shoe) (s : State) : State := putShoe (s.updWg 1 0 (fun w => { w with stage := st })) 1 st x
theorem witness_ShoesAndCheckpoint :
    let x := fun (s : State) => shoeOf (s.launch 1) (s.wg 1 0).stage
    let first := shoe 0 { ext := [2, 3], given := 5, fifo := [] } demo
    let none' := shoe 0 { ext := [2, 3], given := 6, fifo := [] } demo
    let some' := shoe 1 { ext := [], given := 0, fifo := [[1, 2, 3, 4]] } demo
    let waits := shoe 1 { ext := [], given := 0, fifo := [] } demo
    let done := onGroup (fun g => { g with status := .retired }) waits
    let full := putShoe demo 1 1 { ext := [], given := 0, fifo := List.replicate 256 [0, 0, 0, 0] }
    ((first.wg 1 0).stage = 0 ∧ (x first).given < shoeSize (x first).ext) ∧ ((none'.wg 1 0).stage = 0 ∧ shoeSize (x none').ext ≤ (x none').given) ∧
    ((some'.wg 1 0).stage ≠ 0 ∧ (x some').fifo = [[1, 2, 3, 4]]) ∧
    ((done.wg 1 0).stage ≠ 0 ∧ (x done).fifo = [] ∧ stageRetired done (done.launch 1) 0 = true) ∧
    ((waits.wg 1 0).stage ≠ 0 ∧ (x waits).fifo = [] ∧ stageRetired waits (waits.launch 1) 0 = false) ∧
    liveActive (onGroup (fun g => { g with helper := BitVec.allOnes 64 }) demo) = 0 ∧ liveActive demo ≠ 0 ∧
    waitingDeals (cg demo) = [] ∧
    waitingDeals (cg (onGroup (fun g => { g with root := { g.root with waits := [.deal 0 0 0 0 0x10000 0x10010 4] } }) demo)) ≠ [] ∧
    (shoeOf (demo.launch 1) 1).fifo.length < 256 ∧ 256 ≤ (shoeOf (full.launch 1) 1).fifo.length ∧
    ((cg demo).split = [] ∧ (cg demo).face = []) ∧ (cg (splitN 1 demo)).split ≠ [] ∧
    ((fresh demo).iss.passed = false ∧ generalCode (.deal 1) (fresh demo) 0 = none ∧ ((fresh demo).launch 1).s ≤ ((fresh demo).wg 1 0).stage + 1) :=
  by
  iterate 13 refine And.intro (by decide +kernel) ?_
  decide +kernel

/-- A word whose `draw` finds no coordinate, and one whose `deal` finds no room, beside `demote`. -/
theorem witness_StepRunsDecodedWord_waits :
    let s := fun (i : Instr) (x : Shoe) => shoe 1 x
      (State.reset.withFetchWord 128 (pairWord ((encodeScalar i).getD 0) ((encodeVector (.demote .both 1)).getD 0)))
    let f := fun (i : Instr) => Fetched.pair false false false 0 (.ok i) (.ok (.demote .both 1))
    let both := fun (i : Instr) => ({ sc := i, ve := .demote .both 1 } : Slots)
    let full := fun (s : State) => putShoe s 1 1 { ext := [], given := 0, fifo := List.replicate 256 [0, 0, 0, 0] }
    let empty : Shoe := { ext := [], given := 0, fifo := [] }
    let served : Shoe := { ext := [], given := 0, fifo := [[1, 2, 3, 4]] }
    (∀ x ∈ [empty, served], turns (s (.draw 1 2) x) 0 [] (f (.draw 1 2)) = true ∧
      wordCheck (latched (s (.draw 1 2) x) 0 (f (.draw 1 2))) (both (.draw 1 2)) = .pass) ∧
    (wordWaits (latched (s (.draw 1 2) empty) 0 (f (.draw 1 2))) (both (.draw 1 2))).isSome = true ∧
    wordWaits (latched (s (.draw 1 2) served) 0 (f (.draw 1 2))) (both (.draw 1 2)) = none ∧
    (let d := full ((s (.deal 1) empty).updWg 1 0 (fun w => { w with stage := 0 }) |>.updLaunch 1 (fun l => { l with s := 2 }))
     turns d 0 [] (f (.deal 1)) = true ∧ wordCheck (latched d 0 (f (.deal 1))) (both (.deal 1)) = .pass ∧
      (wordWaits (latched d 0 (f (.deal 1))) (both (.deal 1))).isSome = true) := by decide +kernel

/-- `demo` with virtual pages at 0x40000000 mapped to physical 0, every target of die 0 open to core 0, tile 0 resident. -/
def window (d t : Nat) (m : Memory) : Memory :=
  writeLE m (atBase d t + 0x4000) 16 (0xFFF + (2 ^ 36 - 1) * 2 ^ 72 + 0xFFFF * 2 ^ 112)
def opened (s : State) : State := { s with atab := window 0 8 (window 0 7 (window 0 1 (window 0 0 s.atab))) }
def page0 : TlbEntry := { die := 0, ctx := 0, vbase := 0x40000000, bytes := 65536, pbase := 0, r := true, w := true, x := true }
def mapped : State := { opened demo with tlb := [page0], tiles := [(0, { Tile.zero with resident := true })] }
theorem mapped_quiet : Quiet mapped := fun k => by
  simp only [State.tile, sget, mapped, List.find?]
  split <;> rename_i h <;> revert h <;> split <;> intro h <;> (try cases h) <;> exact ⟨rfl, rfl⟩

theorem witness_MemoryIssue : inRegion mapped = false ∧ mapped.iss.passed = true ∧ (mD .i32).d = true ∧ (mo .i32).d = false ∧
    (mD .i32).am = 0 ∧ ({ mo .i32 with am := 1 } : MOp).am = 1 ∧ ({ mD .z32 with am := 2 } : MOp).am = 2 ∧ liveActive mapped ≠ 0 ∧
    liveActive (onGroup (fun g => { g with helper := BitVec.allOnes 64 }) mapped) = 0 := by decide +kernel

/-- The walks of a load of a mapped address leave no region open; a guarded load the same. -/
theorem witness_MemoryIssue_walks :
    let s := withS [(1, 0x40000000)] mapped
    inRegion (memAccess .load false { mD .i32 with base := 1 } s).1 = false ∧ inRegion (gldAccess 1 0 ⟨.eq, 3, false⟩ s).1 = false ∧
    isWrite .load = false ∧ isWrite .store = true ∧ MemKind.store ≠ .tlogFlush ∧ ({ mo .i32 with p := true } : MOp).p = true := by decide +kernel

theorem witness_ScratchpadIssue : inRegion demo = false ∧ (∀ q ∈ (cg demo).storeq, q.loc = false) ∧
    (∀ x ∈ memAddrs demo .store true (mo .i32), spOk (demo.launch 1) x.2 4 = true ∧ x.2.toNat % 4 = 0 ∧
      lockHit demo (formOf .store true (mo .i32)) x.2 = false) ∧
    (∀ x ∈ memAddrs demo .store true (mo .i32), 256 < x.2.toNat ∨ x.2.toNat + 4 ≤ 256) := by decide +kernel
/-- The oldest operation of its queue, a load and a store of the scratchpad. -/
theorem witness_ScratchpadIssue_turn :
    let a : Acc := { thread := 0, va := 4, pa := 4, size := 4, data := 9, data2 := 0, st := .pending }
    let o := fun (k : MemKind) => ({ id := 3, word := 0, path := 0, kind := k, ty := .z32, accs := [a], dest := .none, loc := true, held := false
                                     counted := true, level := 0, appended := none, after := none, pair := none, quiet := false
                                     member := false, rel := false, readBy := none } : QOp)
    let l := onGroup (fun g => { g with loadq := [o .load] }) demo
    let t := onGroup (fun g => { g with storeq := [o .store] }) demo
    (l.group hostGroup).loadq = [o .load] ∧ (l.group hostGroup).storeq = [] ∧ (t.group hostGroup).storeq = [o .store] ∧
    (t.group hostGroup).loadq = [] ∧ ∀ k ∈ [MemKind.load, .store], (o k).loc = true ∧ (o k).after = none ∧ settled (o k) = false ∧ (o k).held = false := by
  decide +kernel

theorem witness_IssueStoresNothing : groupDone (cg demo) = false ∧ (encodeScalar (.sAdd 1 2 3)).isSome = true ∧
    (encodeVector (.st (mo .i32))).isSome = true := by decide +kernel
theorem witness_IssueStoresNothing_clear : Clear (.sAdd 1 2 3) demo ∧ Quiet demo ∧ ∃ t, exec (.sAdd 1 2 3) demo = .next t :=
  ⟨witness_clear _, demo_quiet, _, rfl⟩

/-- The path is a member of an open region. -/
def region0 (s : State) (nest : Nat) : Region :=
  { fallback := 0x10100, k := 2, path := 0, mask := s.iss.mask, nsplit := [], nface := 0, nloop := 0, nest := nest, reads := [0]
    members := [0], start := 0 }
def member (nest : Nat) (s : State) : State := onGroup (fun g => { g with region := some (region0 s nest) }) s
def at4 (s : State) : State := withS [(1, 0x40000000), (2, 4096)] s
theorem witness_Prefetches :
    let s := at4 mapped
    let o : MOp := { mo .i8 with base := 1 }
    let p : MOp := { mD .i8 with base := 1, data := 2 }
    inRegion (member 0 s) = true ∧ inRegion s = false ∧ permitted s { ident := 0, ctx := some 0 } 0 .r = true ∧ locate s.part 0 = .slice 0 0 ∧
    (s.tile 0).poisoned = false ∧ (s.tile 0).queue = [] ∧ 0 ∉ s.bad ∧
    min (rs s (BitVec.ofNat 6 p.data.toNat)).toNat 65536 ≠ 0 ∧ min (rs s (BitVec.ofNat 6 ({ p with data := 0 } : MOp).data.toNat)).toNat 65536 = 0 ∧
    (translate s (groupWalk s (rs s o.base + o.off.signExtend 64)) .r).1 = s := by decide +kernel
theorem witness_Prefetches_translate :
    (translate (at4 mapped) (groupWalk (at4 mapped) 0x40000000) .r).2 = .ok 0 ∧
    translate demo (groupWalk demo 0x40000000) .r = (demo, .error 8) := ⟨ok_of (by decide +kernel), rfl⟩

/-- The lock word reads 0, and 1; the region opens, nests, closes a level, commits, and aborts. -/
def lockOp : MOp := { mo .z32 with base := 1, am := 2, data := 2, off := 0x10 }
def locked (v : Nat) : State := { at4 mapped with mem := writeLE [] 0 4 v }
theorem witness_Elision :
    (lockRead (locked 0) lockOp).2 = .ok (0, 0) ∧ (lockRead (locked 1) lockOp).2 = .ok (1, 0) ∧
    (lockRead (member 30 (locked 0)) lockOp).2 = .ok (0, 0) ∧ (lockRead (member 0 (locked 1)) lockOp).2 = .ok (1, 0) :=
  ⟨ok_of (by decide +kernel), ok_of (by decide +kernel), ok_of (by decide +kernel), ok_of (by decide +kernel)⟩
theorem witness_Elision_states :
    let u := fun (s : State) => (lockRead s lockOp).1
    (cg (u (locked 1))).region = none ∧ (u (locked 1)).iss = (locked 1).iss ∧ (cg (u (locked 0))).region = none ∧
    (cg (u (member 30 (locked 0)))).region = some (region0 (locked 0) 30) ∧ (region0 (locked 0) 30).reads.contains (0 / 128) = true ∧
    inRegion (member 0 mapped) = true ∧ (cg mapped).region = none ∧ (cg (member 1 mapped)).region = some (region0 mapped 1) ∧
    (cg (member 0 mapped)).region = some (region0 mapped 0) ∧ mapped.iss.path ∈ (region0 mapped 0).members := by decide +kernel

/-- A nested lock that is held, a 32nd level, a 33rd line. -/
def fullReads (s : State) : State := onGroup (fun g => { g with region := some { region0 s 0 with reads := (List.range 32).map (· + 1) } }) s
theorem witness_Elision_aborts :
    let u := fun (s : State) => (lockRead s lockOp).1
    (∀ s ∈ [member 0 (locked 1), member 31 (locked 0), fullReads (locked 0)], (u s).iss = s.iss) ∧
    (cg (u (member 31 (locked 0)))).region = some (region0 (locked 0) 31) ∧ (cg (u (fullReads (locked 0)))).region.isSome = true ∧
    ((List.range 32).map (· + 1)).contains (0 / 128) = false ∧ ((List.range 32).map (· + 1)).length = 32 := by decide +kernel
/-- A member's word before its checks: what a region may not hold passes them, and a store finds the depth exhausted. -/
theorem witness_Elision_members :
    let s := fresh (member 0 mapped)
    let d := onGroup (fun g => { g with sc := 1000 }) s
    (cg s).region = some (region0 mapped 0) ∧ s.iss.path ∈ (region0 mapped 0).members ∧ s.iss.passed = false ∧
    (∀ i ∈ [.mZero 0, .xWait 1, .sEnd, .exit .both 1, .demote .both 1, .trap 5, .idem, .halt, .barGrp 0, .fence (mo .i8),
      Instr.wait ⟨false, 0, false, 0, true, 0, false, 0⟩], ctxCode i s = none ∧ generalCode i s 0 = none ∧ checkOf i s = .pass) ∧
    isEngine (.mZero 0) = true ∧ clsOf (.st (mo .i32)) = some .sc ∧ ctxCode (.st (mo .i32)) d = none ∧
    generalCode (.st (mo .i32)) d 0 = some 0x11 := by decide +kernel

theorem witness_MatrixIssue : demo.iss.mask ≠ 0 ∧ (withMask 0 demo).iss.mask = 0 ∧ demo.iss.mask &&& liveMask (cg demo) ≠ 0 ∧
    (let h := onGroup (fun g => { g with helper := BitVec.allOnes 64 }) demo
     h.iss.mask &&& liveMask (cg h) = 0) := by decide +kernel

/-- No completed command stands in the queues. -/
theorem steady_of (w : Workgroup) (h : (w.tileq.all (fun x => !x.idle) && w.copyq.all (fun x => !x.suppressed)) = true) : Steady w := by
  simp only [Bool.and_eq_true, List.all_eq_true] at h
  refine ⟨fun pre x post e hx => ?_, fun pre x post e hx => ?_⟩
  · have := h.1 x (e ▸ by simp)
    simp [hx] at this
  · have := h.2 x (e ▸ by simp)
    simp [hx] at this
theorem witness_Steady_empty : Steady (demo.wg 1 0) ∧ (∀ q ∈ (demo.wg 1 0).tileq, q.grp ≠ 0) ∧ ∀ q ∈ (demo.wg 1 0).copyq, q.grp ≠ 0 :=
  ⟨steady_of _ (by decide +kernel), by decide +kernel, by decide +kernel⟩

theorem witness_SkidderIssue : liveActive demo ≠ 0 ∧ liveActive (onGroup (fun g => { g with helper := BitVec.allOnes 64 }) demo) = 0 ∧
    sendTarget demo true 0 = some 0 := by decide +kernel

/-- A collective of the one core, whose ranks are listed at physical 0. -/
def collDemo : State := { putReg (at4 mapped) (collBase 0) 64 1 with mem := [] }
theorem witness_BoomIssue :
    boomSuppressed collDemo = false ∧ boomSuppressed (onGroup (fun g => { g with helper := BitVec.allOnes 64 }) demo) = true ∧
    (∀ o ∈ collDemo.boomOps, o.id < collDemo.nextId) ∧ rankOf collDemo.part [0] 0 = some 0 ∧
    (collRanks collDemo (viaBoom (collDemo.launch 1) 0) 0).2 = some [0] := by decide +kernel

/-! ### Yarders -/

/-- Yarder 0 before a word, with x1 and x2 as given, and memory, tables and queues of `m`. -/
def yRegs (m : State) (x1 x2 : Word) : State :=
  { m.updYarder 0 (fun y => writeX (writeX y 1 x1) 2 x2) with cur := .yarder 0 }
/-- Slot 0 of a deck's LAUNCH image: one core of partition 0, the deck at 0x40000000, one unit of budget. -/
def launchSlot (budget : Nat) : List Byte :=
  toBytes 2 1 ++ toBytes 2 1 ++ toBytes 4 0 ++ toBytes 8 0x40000000 ++ toBytes 16 0 ++ toBytes 4 budget ++ toBytes 28 0
/-- A deck of one native image with one kernel: one stage, one group, 8 vector registers. -/
def deckBytes (stages pword : Nat) : List Byte :=
  toBytes 4 0x4B434544 ++ toBytes 2 1 ++ toBytes 2 1 ++ toBytes 8 7 ++ toBytes 8 0x300 ++ toBytes 40 0
  ++ toBytes 1 1 ++ toBytes 1 1 ++ toBytes 6 0xA1 ++ toBytes 8 0x100 ++ toBytes 16 0x200 ++ toBytes 160 0
  ++ toBytes 8 1 ++ toBytes 8 0x01010101 ++ toBytes 8 0x40 ++ toBytes 8 0 ++ toBytes 8 0x100 ++ toBytes 24 0x10
  ++ toBytes 8 0 ++ toBytes 8 (2 ^ 64 - 1) ++ toBytes 4 pword ++ toBytes 1 1 ++ toBytes 1 8 ++ toBytes 2 stages ++ toBytes 40 0x01010101
/-- Pages 0 and 1 of `mapped` with the deck and a packet; context 0 valid and allowed partition 0, which is cluster 1 of die 0. -/
def decked (stages pword : Nat) (packet : List Byte) : State :=
  let s := { mapped with mem := writeBytes (writeBytes [] 0 (deckBytes stages pword)) 0x1000 packet
                         tiles := [(0, { Tile.zero with resident := true }), (1, { Tile.zero with resident := true })] }
  putReg (putReg (putReg s (rootsBase 0) 8 1) (partBase 0) 8 2) (ctxBase 0) 4 1
/-- Queue entry 0 of die 0, its slots at 0x40001000 and its read-index word at 0x40000800. -/
def queue0 (st : QState) (wl : Nat) (fl : List Packet) : Queue :=
  { base := 0x40001000, ridx := 0x40000800, logn := 6, owner := 0, state := st, ri := 0, wl := wl, covers := [(1, true)]
    inflight := fl, need := 0, stalled := false }
def queued (q : Queue) (s : State) : State := { s with queues := [(0, q)] }
def via0 : Via := { die := 0, ident := 0x600, ctx := 0, tag := 0 }

theorem witness_YarderInstructions :
    let m := queued (queue0 .active 1 []) (decked 1 1 (launchSlot 1))
    let len := fun (f : Word) => f.toNat / 64 % 128
    let pos := fun (f : Word) => f.toNat % 64
    (yRegs m 0 0).cur = .yarder 0 ∧ len 0 = 0 ∧ 64 < len (65 * 64) ∧ 64 < pos (64 * 64 + 1) + len (64 * 64 + 1) ∧
    (64 + 2 ^ 14 : Word).toNat / 2 ^ 14 ≠ 0 ∧
    ¬(len (64 * 64) = 0 ∨ 64 < len (64 * 64) ∨ 64 < pos (64 * 64) + len (64 * 64) ∨ (64 * 64 : Word).toNat / 2 ^ 14 ≠ 0) ∧
    (rx (yRegs m 0 63) 2).toNat % 64 ≠ 0 ∧ (rx (yRegs m 256 64) 2).toNat % 64 = 0 ∧ 255 < (rx (yRegs m 256 64) 1).toNat ∧
    (yRegs m 1 64).queues.any (fun z => z.1 == 0 / 2 * 256 + (rx (yRegs m 1 64) 1).toNat) = false ∧
    (yRegs m 0 64).queues.any (fun z => z.1 == 0 / 2 * 256 + (rx (yRegs m 0 64) 1).toNat) = true ∧
    (queueAt (yRegs (queued (queue0 .idle 0 []) m) 0 64) 0).state = .idle ∧ (queueAt (yRegs m 0 64) 0).state ≠ .idle ∧
    (headPacket (yRegs m 0 64) via0 (queueAt (yRegs m 0 64) 0)).1.cur = .yarder 0 ∧
    (rx (yRegs m 4 0) 1).toNat % 8 ≠ 0 ∧ (rx (yRegs m 8 0) 1).toNat % 8 = 0 ∧
    (physRead (yRegs m 8 0) { ident := 0x600, ctx := none } 0 8 8).1.cur = .yarder 0 ∧
    (rx (yRegs m 32 0) 1).toNat % 64 ≠ 0 ∧ (rx (yRegs m 64 512) 1).toNat % 64 = 0 ∧ coresOf m.part ≤ (rx (yRegs m 64 512) 2).toNat ∧
    (rx (yRegs m 64 511) 2).toNat < coresOf m.part ∧
    (svcChecks (yRegs m 0 8) via0 { hdr := 1, b0 := [], b1 := [] } 8).1.cur = .yarder 0 := by decide +kernel
theorem witness_YarderInstructions_reads :
    let m := queued (queue0 .active 1 []) (decked 1 1 (launchSlot 1))
    (headPacket (yRegs m 0 64) via0 (queueAt (yRegs m 0 64) 0)).2 = .ok [launchSlot 1] ∧
    (physRead (yRegs m 8 0) { ident := 0x600, ctx := none } 0 8 8).2 = .ok (toBytes 8 7) ∧
    failure (svcChecks (yRegs m 0 8) via0 { hdr := 1, b0 := launchSlot 1, b1 := [] } 8).2 = none ∧
    (svcChecks (yRegs m 0 8) via0 { hdr := 2, b0 := [], b1 := [] } 8).2 = .error 0x89 :=
  ⟨ok_of (by decide +kernel), ok_of (by decide +kernel), by decide +kernel, error_of (by decide +kernel)⟩
/-- A queue whose slots are not mapped. -/
theorem witness_YarderInstructions_fault :
    let m := yRegs (queued { queue0 .active 1 [] with base := 0x50000000 } (decked 1 1 [])) 0 64
    failure (headPacket m via0 (queueAt m 0)).2 ≠ none ∧ (headPacket m via0 (queueAt m 0)).1.cur = .yarder 0 := by decide +kernel
/-- A Yarder that waits in `y.swait`. -/
theorem witness_ySwaitWake :
    let s := mapped.updYarder 0 (fun y => { y with swait := some (5, 8, 0) })
    (s.yarder 0).swait = some (5, 8, 0) ∧ (physRead { s with cur := .yarder 0 } { ident := 0x600, ctx := none } 0 8 8).1.cur = .yarder 0 ∧
    (physRead { s with cur := .yarder 0 } { ident := 0x600, ctx := none } 0 8 8).2.toOption = some (toBytes 8 0) := by decide +kernel

/-! ### The memory side -/

def acc0 (st : AccSt) : Acc := { thread := 0, va := 0x40000004, pa := 4, size := 4, data := 9, data2 := 0, st := st }
def op0 (k : MemKind) (d : Dest) (as : List Acc) (held : Bool) : QOp :=
  { id := 3, word := 0, path := 0, kind := k, ty := .z32, accs := as, dest := d, loc := false, held := held, counted := true
    level := 0, appended := none, after := none, pair := none, quiet := false, member := false, rel := false, readBy := none }
def loads (os : List QOp) (s : State) : State := onGroup (fun g => { g with loadq := os, lc := os.length }) s
def stores (os : List QOp) (s : State) : State := onGroup (fun g => { g with storeq := os, sc := os.length }) s
/-- A load, a store and a returning addition, each before its access. -/
theorem witness_MemoryPerformance :
    let ok := fun (s : State) (o : QOp) => findOp (s.group hostGroup) 3 = some o ∧ o.accs[0]? = some (acc0 .pending) ∧ o.loc = false ∧
      earlierOverlap o 0 (acc0 .pending) = false ∧ inOrder (s.group hostGroup) o (acc0 .pending) = true ∧
      accPermitted s hostGroup o 4 = true ∧ locate s.part 4 = .slice 0 4 ∧ (s.tile (4 / 4096)).poisoned = false ∧
      (s.tile (4 / 4096)).resident = true ∧ o.held = false ∧ o.after = none
    ok (loads [op0 .load (.sreg 1) [acc0 .pending] false] mapped) (op0 .load (.sreg 1) [acc0 .pending] false) ∧
    ok (stores [op0 .store .none [acc0 .pending] false] mapped) (op0 .store .none [acc0 .pending] false) ∧
    ok (loads [op0 (.rmw 0 true) (.sreg 1) [acc0 .pending] false] mapped) (op0 (.rmw 0 true) (.sreg 1) [acc0 .pending] false) ∧
    isWrite .load = false ∧ isWrite .store = true ∧ (255 : Nat) < 2 ^ 8 := by decide +kernel
/-- An access of a poisoned tile, and a member's load of a line in its read set, of a new one, and of a 33rd. -/
theorem witness_MemoryPerformance_members :
    let o := { op0 .load (.sreg 1) [acc0 .pending] false with member := true }
    let p := { loads [o] mapped with tiles := [(0, { Tile.zero with poisoned := true })] }
    let r := fun (l : List Nat) => loads [o] (onGroup (fun g => { g with region := some { region0 mapped 0 with reads := l } }) mapped)
    ((p.tile (4 / 4096)).poisoned = true ∧ (p.group hostGroup).region = none ∧ findOp (p.group hostGroup) 3 = some o ∧
      inOrder (p.group hostGroup) o (acc0 .pending) = true ∧ accPermitted p hostGroup o 4 = true) ∧
    (∀ l ∈ [[0], [1], (List.range 32).map (· + 1)], findOp ((r l).group hostGroup) 3 = some o ∧ inOrder ((r l).group hostGroup) o (acc0 .pending) = true ∧
      ((r l).group hostGroup).region = some { region0 mapped 0 with reads := l }) ∧
    o.member = true ∧ (region0 mapped 0).start ≤ o.id ∧ 4 / 128 ∈ [0] ∧ 4 / 128 ∉ [1] ∧
    4 / 128 ∉ (List.range 32).map (· + 1) := by decide +kernel
theorem witness_MemoryPerformance_regions : ∀ x, (mapped.group x).region = none := fun x => by
  simp only [State.group, mapped, opened]
  show (sget Group.zero demo.groups _).region = none
  simp only [sget, demo, base, State.withFetchWord, placeWord, State.setGroup]
  rw [show (State.reset.groups = []) from rfl]
  generalize hm : (sput Group.zero _ _ _) = m
  have h : m.all (fun p => p.2.region == none) = true := by subst hm; decide +kernel
  split
  · rename_i p hp; exact eq_of_beq (List.all_eq_true.mp h p (List.mem_of_find?_eq_some hp))
  · rfl

theorem witness_MemoryCompletion :
    let l := fun (d : Dest) => loads [op0 .load d [acc0 .done] false] mapped
    ((l (.sreg 1)).group hostGroup).loadq = [op0 .load (.sreg 1) [acc0 .done] false] ∧
    ((l (.vreg 1)).group hostGroup).loadq = [op0 .load (.vreg 1) [acc0 .done] false] ∧
    [acc0 .done].Pairwise (fun x y => x.thread ≠ y.thread) ∧ (∀ x ∈ [acc0 .done], x.st = .done ∧ x.thread < 64) ∧
    ((loads [op0 .gld (.guard 1 ⟨.eq, 3, false⟩ 0) [acc0 .done] false] mapped).group hostGroup).loadq
      = [op0 .gld (.guard 1 ⟨.eq, 3, false⟩ 0) [acc0 .done] false] ∧
    ((loads [op0 .load (.sreg 1) [acc0 (.failed 9)] false] mapped).group hostGroup).status = .active ∧
    ((stores [op0 .store .none [acc0 .done] false] mapped).group hostGroup).storeq = [op0 .store .none [acc0 .done] false] ∧
    Ty.z32.signed = false ∧ Ty.i64.signed = true ∧ Ty.i64.width ≤ 64 := by decide +kernel

/-- Operations behind which nothing waits: threads with no access behind an operation with one, and an empty queue. -/
theorem witness_MemoryIssue_empty :
    let h := onGroup (fun g => { g with helper := BitVec.allOnes 64 }) mapped
    let q := loads [op0 .load (.sreg 1) [acc0 .pending] false] h
    memAddrs h .store false (mD .i32) = [] ∧ (cg h).storeq = [] ∧ (cg h).loadq = [] ∧ (cg q).loadq ≠ [] ∧
    (∀ o ∈ (cg q).loadq ++ (cg q).storeq, o.accs ≠ []) ∧ memAddrs mapped .load false (mD .i32) ≠ [] ∧
    memAddrs (member 0 mapped) .store false (mo .i32) ≠ [] ∧ memAddrs (member 0 mapped) .load true (mo .i32) ≠ [] := by decide +kernel
/-- Logged accesses of a non-resident tile: an append, one that overflows by its sequence number and by its length, and one while a fetch is under way. -/
def entry0 : LogEntry := { opnd := 1, tag := 1, seq := 4, size := 2, op := 8, word := 7, order := 0 }
def accFar : Acc := { thread := 0, va := 0x40001004, pa := 0x1004, size := 4, data := 9, data2 := 0, st := .pending }
def logOp (k : MemKind) : QOp := { op0 k .none [] false with accs := [accFar] }
def far (k : MemKind) (ts : List (Nat × Tile)) : State := { stores [logOp k] mapped with tiles := ts }
theorem witness_MemoryPerformance_logged :
    let t := { Tile.zero with log := [entry0], seq := 4 }
    let turn := fun (s : State) (k : MemKind) => findOp (s.group hostGroup) 3 = some (logOp k) ∧ (logOp k).accs[0]? = some accFar ∧
      earlierOverlap (logOp k) 0 accFar = false ∧ inOrder (s.group hostGroup) (logOp k) accFar = true ∧ accPermitted s hostGroup (logOp k) 0x1004 = true ∧
      locate s.part 0x1004 = .slice 1 0x1004 ∧ (s.tile 1).poisoned = false ∧ (s.tile 1).resident = false
    let e : LogEntry := { opnd := 9, tag := 1, seq := 0, size := 2, op := 8, word := 1, order := 0 }
    let k := MemKind.rmw 0 false
    (∀ x ∈ [Tile.zero, t, { t with fetching := true }, { t with seq := 0xFFFF }], turn (far k [(1, x)]) k) ∧ turn (far .store [(1, t)]) .store ∧
    entriesOf 1 (logOp .store) accFar = none ∧ entriesOf 1 (logOp k) accFar = some [e] ∧
    appendAll [entry0] 4 [e] = some ([entry0, { e with seq := 5 }], 5) ∧ appendAll [entry0] 0xFFFF [e] = none ∧
    (let l := (List.range 32).map (fun i => { entry0 with word := 10 + i })
     appendAll l 4 [e] = none ∧ 32 < (compact l e).length) ∧
    sliceChunks (far k [(1, t)]) 1 + (2 + 7) / 8 ≤ 8192 + (1 + 7) / 8 := by decide +kernel
/-- The slice's log store is full, and the oldest log is another tile's, or the access's own; each is good, or bad. -/
theorem witness_MemoryPerformance_full :
    let big := { Tile.zero with log := List.replicate 65536 { entry0 with order := 1 } }
    let own := fun (n : Nat) => { Tile.zero with log := List.replicate 8 { entry0 with order := n } }
    let s := fun (n : Nat) (bad : List Nat) => { far (.rmw 0 false) [(1, own n), (97, big)] with bad := bad }
    homeOf mapped 1 = 1 ∧ homeOf mapped 97 = 1 ∧ 8192 + ((s 2 []).tile 1).log.length / 8 < sliceChunks (s 2 []) 1 + (9 + 7) / 8 ∧
    oldestLog (s 2 []) 1 = some 97 ∧ oldestLog (s 0 []) 1 = some 1 ∧ ((s 2 []).tile 97).resident = false ∧ ((s 2 []).tile 97).poisoned = false ∧
    ((s 2 []).tile 97).queue = [] ∧ 97 ∉ (s 2 []).bad ∧ 97 ∈ (s 2 [97]).bad ∧ 1 ∈ (s 0 [1]).bad ∧
    ((s 2 []).tiles.map Prod.fst).Nodup := by decide +kernel
/-- Entries that compaction drops, keeps and combines; a line held by its own core and by another; the sizes of a log entry. -/
theorem witness_MemoryPerformance_entries :
    let store := { entry0 with op := 4 }
    let r := { entry0 with seq := 5 }
    let far' := { entry0 with word := 70 }
    let meets := fun (a b : LogEntry) => decide (4 * b.word < 4 * a.word + 2 ^ a.size ∧ 4 * a.word < 4 * b.word + 2 ^ b.size)
    (4 ≤ store.op ∧ store.op ≤ 7) ∧ ¬(4 ≤ r.op ∧ r.op ≤ 7) ∧ (∀ z ∈ [far'], meets r z = false) ∧ meets r entry0 = true ∧
    ¬(store.word = r.word ∧ store.size = r.size ∧ store.op = r.op ∧ store.tag = r.tag ∧ r.op ≠ 0x10) ∧
    (entry0.word = r.word ∧ entry0.size = r.size ∧ entry0.op = r.op ∧ entry0.tag = r.tag ∧ r.op ≠ 0x10) ∧ accFar.size = 2 ^ 2 ∧
    (let h := mapped.updCore 1 (fun c => { c with lineBuf := [(0, 1)] })
     (h.cores.map Prod.fst).Nodup ∧ (∃ x ∈ (h.core 1).lineBuf, x.1 = 4 / 128) ∧ (1 : Nat) ≠ 0 ∧ (h.core 0).lineBuf.length ≤ 16 ∧
      (∀ x ∈ (h.core 0).lineBuf, x.1 ≠ 4 / 128)) := by decide +kernel
/-- An `atom.cas` that fails and one that does not; a load, and an `atom.cas` that fails, of a register of the device windows. -/
theorem witness_MemoryPerformance_windows :
    let cas := fun (c : Word) => ({ acc0 .pending with data2 := c } : Acc)
    let o := fun (a : Acc) => op0 (.rmw 7 true) (.sreg 1) [a] false
    let reg : Acc := { acc0 .pending with pa := ctxBase 0, size := 8, data2 := 5 }
    let w := fun (k : MemKind) => loads [op0 k (.sreg 1) [reg] false] (stores [{ op0 .store .none [reg] false with id := 2, accs := [{ reg with size := 4 }] }] mapped)
    let v := fun (k : MemKind) => loads [op0 k (.sreg 1) [reg] false] mapped
    casFails (o (cas 1)) (cas 1) (readLE mapped.mem 4 4) = true ∧ casFails (o (cas 0)) (cas 0) (readLE mapped.mem 4 4) = false ∧
    (∀ k ∈ [MemKind.load, .gld, .rmw 7 true], let s := v k
      let op := op0 k (.sreg 1) [reg] false
      findOp (s.group hostGroup) 3 = some op ∧ op.accs[0]? = some reg ∧ op.after = none ∧ op.pair = none ∧ reg.st = .pending ∧
      earlierOverlap op 0 reg = false ∧ inOrder (s.group hostGroup) op reg = true ∧ accPermitted s hostGroup op reg.pa = true ∧
      (s.group hostGroup).region = none ∧ casFails op reg (ofBytes (winRead s reg.pa reg.size)) = decide (k = .rmw 7 true)) ∧
    (∀ h p, locate mapped.part reg.pa ≠ .slice h p) ∧ locate mapped.part reg.pa ≠ .empty ∧
    -- behind the group's own queued store to the register such a load waits
    inOrder ((w .load).group hostGroup) (op0 .load (.sreg 1) [reg] false) reg = false := by
  iterate 3 refine And.intro (by decide +kernel) ?_
  refine ⟨fun h p => ?_, by decide +kernel, by decide +kernel⟩
  rw [show locate mapped.part (ctxBase 0) = .register 0 (ctxBase 0) from by decide +kernel]
  exact fun h => by cases h
/-- An operation without accesses behind the one that completes. -/
theorem witness_MemoryCompletion_behind :
    let o := op0 .load (.sreg 1) [acc0 .done] false
    let e := { op0 .load (.sreg 2) [] false with id := 4 }
    let s := loads [o, e] mapped
    (s.group hostGroup).loadq = [o, e] ∧ ([e].dropWhile (fun x => x.accs.isEmpty)) = [] ∧ (∀ x ∈ o.accs, x.st = .done) := by decide +kernel

/-- A fetch under way, with and without a log; a walk that ends in a leaf of level 2; a fill that was asked for. -/
def walkDemo : State :=
  let s := { mapped with tlb := [], mem := writeLE (writeLE (writeLE [] 0x0 8 (1 + 0x10 * 2 ^ 8)) 0x1000 8 (1 + 0x20 * 2 ^ 8)) 0x2000 8 0x1F
                         tiles := [(0, { Tile.zero with resident := true }), (1, { Tile.zero with resident := true }), (2, { Tile.zero with resident := true })] }
  putReg { s with atab := window 0 2 s.atab } (rootsBase 0) 8 1
theorem witness_TileEvents :
    let f := { mapped with tiles := [(5, { Tile.zero with fetching := true })] }
    ((f.tile 5).fetching = true ∧ (f.tile 5).resident = false ∧ (f.tile 5).queue = [] ∧ (f.tile 5).log = []) ∧ (mapped.tile 0).resident = true ∧
    canonical (0x40000000 : Word) = true ∧ 0 < diesOf walkDemo.part ∧ lookupTlb walkDemo 0 0 0x1234 = none ∧
    (walk walkDemo { die := 0, ctx := 0, tag := 0, va := 0x1234 }).2.toOption.isSome = true ∧
    (let c := mapped.updCore 0 (fun x => { x with fills := [(0, 0x800000)] })
     (c.core 0).fills = [(0, 0x800000)] ∧ (c.launch (c.core 0).tag).ctx = 0 ∧
     (fillLine (c.updCore 0 (fun x => { x with fills := [] })) 0 0 1 0x800000).2.toOption.isSome = true) := by decide +kernel

/-- Fetches that an access waits behind, of a bad tile and of one with a log; a record of a lost log; a launch to tell. -/
theorem witness_TileEvents_lost :
    let o := op0 .load (.sreg 1) [acc0 .pending] false
    let e : LogEntry := { opnd := 1, tag := 1, seq := 4, size := 2, op := 0, word := 1, order := 0 }
    let q : Queued := { gid := hostGroup, id := 3, acc := 0, began := true }
    let f := fun (t : Tile) => { loads [o] mapped with tiles := [(5, t)] }
    let waits := f { Tile.zero with fetching := true, queue := [q] }
    let logged := f { Tile.zero with fetching := true, log := [e] }
    let bad := { f Tile.zero with bad := [5] }
    let told := (handled (onGroup (fun g => { g with status := .active }) mapped))
    ((waits.tile 5).fetching = true ∧ (waits.tile 5).resident = false ∧ (waits.tile 5).poisoned = false ∧ 5 ∉ waits.bad ∧
      (waits.tile 5).queue = [q] ∧ (waits.group q.gid).region = none ∧ findOp (waits.group q.gid) q.id = some o ∧ o.accs[q.acc]? = some (acc0 .pending)) ∧
    ((logged.tile 5).queue = [] ∧ (logged.tile 5).log ≠ []) ∧ ((bad.tile 5).resident = false ∧ (bad.tile 5).poisoned = false ∧ 5 ∈ bad.bad) ∧
    (∀ r ∈ mapped.lost, r.tile ≠ 5) ∧
    ((told.launch 1).tag = 1 ∧ (told.launch 1).state = .running ∧ (told.launch 1).handler ≠ none ∧ hostGroup ∈ launchGroups (told.launch 1) ∧
      (told.group hostGroup).status = .active) := by decide +kernel

/-! ### Groups' waits -/

def waiting (w : Wait) (s : State) : State := onGroup (fun g => { g with root := { g.root with waits := [w] } }) s
theorem witness_GroupEvents :
    let coll := stores [] mapped
    64 ≤ (onGroup (fun g => { g with spin := 64 }) demo |>.group hostGroup).spin ∧
    (let s := (demo.updCore 0 (fun c => { c with pending := [3] })).setGroup { hostGroup with grp := 3 } (newGroup hostLaunch)
     (s.core 0).pending.filter (fun q => groupReady s { tag := 1, core := 0, grp := q }) = [3] ∧ chooseIn (s.core 0) [3] = some 3 ∧
     (∀ i ∈ [1, 2, 3, 4, 5, 6, 7, 8], ([3].filter (fun q => decide (8 ≤ sget 0 (s.core 0).passed q + i))).length < i ∨ i = 8) ∧
     (let t := s.updCore 0 (fun c => { c with passed := [(3, 7)] })
      1 ≤ ([3].filter (fun q => decide (8 ≤ sget 0 (t.core 0).passed q + 1))).length)) ∧
    (let s := onGroup (fun g => { g with bars := [{ level := 1, n := 0, phase := 0, share := 1, lanes := BitVec.allOnes 64, signalled := false, before := 0 }] }) demo
     maySignal s hostGroup 1 0 = true ∧ (s.launch 1).tag = 1) ∧
    (let w := Wait.waitw 8 8 true 5 3
     let s := waiting w demo
     (pathOf (s.group hostGroup) 0).waits.find? (fun w => match w with | .waitw _ _ _ _ _ => true | _ => false) = some w ∧
     (s.group hostGroup).status = .active ∧ watchTurn (s.group hostGroup) 3 = true ∧ leadEnded s hostGroup (pathOf (s.group hostGroup) 0) = true ∧ (watched s hostGroup 8 8 true 3).2.toOption = some 0) ∧
    (let w := Wait.draw 1 2 0x10000 0x10010
     let s := shoe 1 { ext := [], given := 0, fifo := [[1, 2, 3, 4]] } (waiting w demo)
     (pathOf (s.group hostGroup) 0).waits.find? (fun w => match w with | .draw _ _ _ _ => true | _ => false) = some w ∧
     (tryDraw s hostGroup 1 2).isSome = true ∧ (pathOf (s.group hostGroup) 0).pc = 0x10000 ∧ standsAt (pathOf (s.group hostGroup) 0) = none) ∧
    (let w := Wait.deal 1 2 3 4 0x10000 0x10010 6
     let s := waiting w demo
     (pathOf (s.group hostGroup) 0).waits.find? (fun w => match w with | .deal _ _ _ _ _ _ _ => true | _ => false) = some w ∧
     (∀ m ∈ waitingDeals (s.group hostGroup), 6 ≤ m) ∧ (∃ m ∈ waitingDeals (s.group hostGroup), m < 7) ∧
     (shoeOf (s.launch 1) ((s.wg 1 0).stage + 1)).fifo.length < 256 ∧ (pathOf (s.group hostGroup) 0).pc = 0x10000 ∧
     standsAt { pathOf (s.group hostGroup) 0 with waits := (pathOf (s.group hostGroup) 0).waits.erase w } = none ∧
     (let f := putShoe s 1 1 { ext := [], given := 0, fifo := List.replicate 256 [0, 0, 0, 0] }
      256 ≤ (shoeOf (f.launch 1) ((f.wg 1 0).stage + 1)).fifo.length)) ∧
    (demo.core 0).active = [0] ∧
    (let w := Wait.ifence 0x10000 128 0
     let s := waiting w demo
     (pathOf (s.group hostGroup) 0).waits.find? (fun w => match w with | .ifence _ _ _ => true | _ => false) = some w ∧
     storesBelow (s.group hostGroup) 0 = true) ∧ (coll.group hostGroup).storeq = [] := by decide +kernel
/-- A `waitw` that an earlier load, a fence, or the wait of its word's scalar slot holds back. -/
theorem witness_GroupEvents_held :
    let w := Wait.waitw 8 8 true 5 3
    let s := waiting w (loads [{ op0 .load (.sreg 1) [acc0 .pending] false with id := 2 }] mapped)
    let b := onGroup (fun g => { g with root := { g.root with waits := [.barrier 1 3 0, w] } }) demo
    watchTurn (s.group hostGroup) 3 = false ∧ leadEnded b hostGroup (pathOf (b.group hostGroup) 0) = false ∧
    (pathOf (b.group hostGroup) 0).waits.find? (fun w => match w with | .waitw _ _ _ _ _ => true | _ => false) = some w := by decide +kernel

/-- A region about to commit, with nothing held, and with one held store. -/
def committing (os : List QOp) : State := stores os (waiting .elidend (member 0 mapped))
theorem witness_GroupEvents_commit :
    let c := committing []
    let h := committing [op0 .store .none [acc0 .pending] true]
    ((c.group hostGroup).region = some (region0 mapped 0) ∧ (region0 mapped 0).members = [0] ∧
      (pathOf (c.group hostGroup) 0).waits.contains .elidend = true ∧ commitReady (c.group hostGroup) = true ∧ commitLeads c hostGroup = true ∧
      (c.group hostGroup).status = .active ∧ (c.group hostGroup).loadq = [] ∧ (c.group hostGroup).storeq = []) ∧
    (commitReady (h.group hostGroup) = true ∧ commitLeads h hostGroup = true ∧ ((commitFetch hostGroup h).group hostGroup).region ≠ none ∧
      (h.group hostGroup).storeq = [op0 .store .none [acc0 .pending] true] ∧ (h.group hostGroup).loadq = [] ∧
      (h.tile (4 / 4096)).poisoned = false ∧ (h.tile (4 / 4096)).resident = true ∧ isWrite .store = true ∧
      accPermitted h hostGroup (op0 .store .none [acc0 .pending] true) 4 = true ∧ locate h.part 4 = .slice 0 4) := by decide +kernel
/-- A held store on a poisoned tile; no Yarder holds a reservation. -/
theorem witness_GroupEvents_commit_fault :
    let h := committing [op0 .store .none [acc0 .pending] true]
    let p := { h with tiles := [(0, { Tile.zero with poisoned := true })] }
    commitReady (p.group hostGroup) = true ∧ ((commitFetch hostGroup p).group hostGroup).region ≠ none ∧ commitFault (commitFetch hostGroup p) hostGroup = some 0x28 ∧
    commitFault (commitFetch hostGroup h) hostGroup = none ∧ ∀ y ∈ h.yarders, y.2.reserve = none := by decide +kernel
/-- A `draw` and a `deal` whose words act whole once the shoe serves them. -/
theorem witness_GroupEvents_whole :
    let d := Wait.draw 1 2 0x10000 0x10000
    let s := shoe 1 { ext := [], given := 0, fifo := [[1, 2, 3, 4]] } (waiting d demo)
    let e := Wait.deal 1 2 3 4 0x10000 0x10000 6
    let t := waiting e demo
    (s.group hostGroup).status = .active ∧ (tryDraw s hostGroup 1 2).isSome = true ∧
    (pathOf (s.group hostGroup) 0).waits.find? (fun w => match w with | .draw _ _ _ _ => true | _ => false) = some d ∧
    (t.group hostGroup).status = .active ∧ (∀ m ∈ waitingDeals (t.group hostGroup), 6 ≤ m) ∧
    (shoeOf (t.launch 1) ((t.wg 1 0).stage + 1)).fifo.length < 256 ∧
    (pathOf (t.group hostGroup) 0).waits.find? (fun w => match w with | .deal _ _ _ _ _ _ _ => true | _ => false) = some e := by decide +kernel
/-- A commit of a held `st.log` whose append overflows: its tile is good, and bad. -/
theorem witness_GroupEvents_commit_lost :
    let o := { logOp .logStore with held := true }
    let h := fun (bad : List Nat) => { committing [o] with tiles := [(1, { Tile.zero with log := [entry0], seq := 0xFFFF })], bad := bad }
    let f := fun (bad : List Nat) => commitFetch hostGroup (h bad)
    let u := fun (bad : List Nat) => (f bad).updGroup hostGroup (fun y => { y with region := none, elcause := 0, elcode := 0 })
    let done := fun (bad : List Nat) => (commitOps (u bad) hostGroup).foldl (commitOp hostGroup) (u bad)
    (∀ bad ∈ [[], [1]], commitReady ((h bad).group hostGroup) = true ∧ commitLeads (h bad) hostGroup = true ∧
      ((h bad).group hostGroup).region = some (region0 mapped 0) ∧ ((f bad).group hostGroup).region ≠ none ∧ commitFault (f bad) hostGroup = none) ∧
    lostAtCommit (f []) (done []) hostGroup = [] ∧ lostAtCommit (f [1]) (done [1]) hostGroup = [1] := by decide +kernel
/-- An event held, with the handler's line in the instruction cache, and without a handler. -/
theorem witness_GroupEvents_delivery :
    let e : HeldEv := { code := 0x21, arg := 0, addr := 0 }
    let s := onGroup (fun g => { g with held := [e] }) demo
    let g := (handled s).group hostGroup
    g.held = [e] ∧ g.status = .active ∧ g.h = false ∧ g.cutback = false ∧ g.region = none ∧ ((handled s).launch 1).handler = some 0x10000 ∧
    (icacheLine ((handled s).core 0) ((handled s).launch 1).ctx (0x10000 / 128)).isSome = true ∧ pathEnded g 0 = false ∧ g.root.waits = [] ∧
    (s.launch 1).handler = none ∧ e.code < 256 := by decide +kernel
theorem witness_GroupEvents_others : ∀ l ∈ (committing []).launches, ∀ y ∈ launchGroups l, y ≠ hostGroup →
    ((committing []).group y).region = none := by decide +kernel

/-! ### Engines -/

/-- The tile operation at the head of core 0's queue: row 0, BF16 operands of the empty scratchpad. -/
def tile0 (i : Instr) (b : Option Bind) : TileOp :=
  { id := 5, grp := 0, word := 0, op := i, rows := 1, live := 1, fmt := 0xAA, da := ⟨0, 256, 0, true⟩, db := ⟨0, 256, 0, true⟩, kval := 32
    ival := 0, vals := [], bind := b, next := 0, begun := false, flags := 0, fault := none }
def tiled (o : TileOp) : State :=
  onGroup (fun g => { g with tc := 1 }) (mapped.updWg 1 0 (fun w => { w with tileq := [o] }))
theorem witness_MatrixEvents :
    let at0 := fun (o : TileOp) => headTile (tiled o) 0 = some o ∧ o.fault = none ∧ (viaMatrix (coreLaunch (tiled o) 0) 0).tag = ((tiled o).core 0).tag
    (at0 (tile0 (.mZero 1) none) ∧ isConst (.mZero 1) = true) ∧
    (at0 { tile0 (.mMma 1 2 4 6 true true) none with next := 2 } ∧ stepsLeft { tile0 (.mMma 1 2 4 6 true true) none with next := 2 } = false ∧
      isConst (.mMma 1 2 4 6 true true) = false) ∧
    (at0 (tile0 (.mZero 1) (some ⟨1, false, some false⟩)) ∧ bindDiscards (some ⟨1, false, some false⟩) = true) ∧
    (at0 (tile0 (.mLd 1 2 .f32 0 true) none) ∧ rowsLeft (tile0 (.mLd 1 2 .f32 0 true) none) = [0]) ∧
    (at0 (tile0 (.mSt 1 2 .f32 0 true) none) ∧ rowsLeft (tile0 (.mSt 1 2 .f32 0 true) none) = [0] ∧ bit (1 : Word) 0 = true ∧
      bit ({ tile0 (.mSt 1 2 .f32 0 true) none with live := 0 } : TileOp).live 0 = false) ∧
    ((256 : Word).toNat / 256 % 4 = 1 ∧ (512 : Word).toNat / 256 % 4 = 2 ∧ (0 : Word).toNat / 256 % 4 = 0) ∧
    ((unpack fp32 0x7F800001).isSig = true ∧ (unpack fp32 0).isSig = false) := by decide +kernel
theorem witness_MatrixEvents_steady (i : Instr) (h : i = .mMma 1 2 4 6 true true ∨ i = .mZero 1) : let s := tiled (tile0 i none)
    Steady (coreWg s 0) ∧ ∃ q ∈ (s.wg 1 0).tileq, q.grp = 0 := by
  obtain rfl | rfl := h <;> exact ⟨steady_of _ (by decide +kernel), by decide +kernel⟩

/-- A K step with both operands in the scratchpad, with both in global memory, and with one that is not mapped. -/
def began (o : TileOp) : State :=
  updHeadTile (chargeBudget (tiled o) 1 1 (stepCycles o)) 0 (fun q => { q with begun := true })
/-- The same, its charge written out. -/
def begun (o : TileOp) : State :=
  updHeadTile ((tiled o).updLaunch 1 (fun l => { l with
    budget := l.budget.set 1 (l.budget.getD 1 0 - stepCycles o), charged := l.charged.set 1 (l.charged.getD 1 0 + stepCycles o) }))
    0 (fun q => { q with begun := true })
theorem began_eq (o : TileOp) (p : Nat) (h : stepCycles o = (p + 1) + Config.busyCycles (o.id * 2 ^ 20 + o.next)) : began o = begun o := by
  have : stepCycles o ≠ 0 := by omega
  simp only [began, begun, chargeBudget, if_neg this]
def product (a b : Desc) : TileOp := { tile0 (.mMma 1 2 4 6 a.loc b.loc) none with da := a, db := b }
def inMemory : Desc := ⟨0x40000000, 64, 0, false⟩
def unmapped : Desc := ⟨0x50000000, 64, 0, false⟩
theorem witness_MatrixEvents_step : ∀ d ∈ [(⟨0, 256, 0, true⟩ : Desc), inMemory],
    let o := product d d
    let e := byMatrix (coreLaunch (tiled o) 0) 0 o
    let r := readARows e o o.next (begun o) (lanesOf o.rows)
    let q := readB r.1 e o o.next
    headTile (tiled o) 0 = some o ∧ o.bind = none ∧ o.fault = none ∧ o.next < o.kval / 16 ∧ fmtAcc o.fmt = 0 ∧
    r.2.toOption = some ((lanesOf o.rows).map (fun i => (i, MVec.bf (List.replicate 16 0)))) ∧
    q.2.toOption = some (lanes.map (fun _ => (MVec.bf (List.replicate 16 0), none))) ∧
    (q.1.core 0).tag = 1 ∧ q.1.wg 1 0 = (begun o).wg 1 0 := by decide +kernel
theorem witness_MatrixEvents_began (a b : Desc) : began (product a b) = begun (product a b) := by
  refine began_eq _ 63 ?_
  show (if qbWidth (mfmtOf (fmtAf 0xAA)) == 0 || _ then 64 else _) + _ = _
  rfl
theorem witness_MatrixEvents_faults :
    let o := product unmapped inMemory
    let p := product inMemory unmapped
    let e := fun (o : TileOp) => byMatrix (coreLaunch (tiled o) 0) 0 o
    failure (readARows (e o) o o.next (begun o) (lanesOf o.rows)).2 = some (8, 0x50000000) ∧
    failure (readARows (e p) p p.next (begun p) (lanesOf p.rows)).2 = none ∧
    failure (readB (readARows (e p) p p.next (begun p) (lanesOf p.rows)).1 (e p) p p.next).2 = some (8, 0x50000000) := by decide +kernel
theorem witness_MatrixEvents_product : let o := tile0 (.mMma 1 2 4 6 true true) none
    let e := byMatrix (coreLaunch (tiled o) 0) 0 o
    headTile (tiled o) 0 = some o ∧ o.next < o.kval / 16 ∧ o.da.loc = true ∧ o.db.loc = true ∧
    (∀ i, bit o.rows i = true → (readARow (tiled o) e o i o.next).2.toOption = some (.bf (List.replicate 16 0))) ∧
    (readB (tiled o) e o o.next).2.toOption = some (lanes.map (fun _ => (.bf (List.replicate 16 0), none))) := by
  refine ⟨by decide +kernel, by decide +kernel, rfl, rfl, fun i h => ?_, by decide +kernel⟩
  have h : i = 0 := by
    have h : (1#64).getLsbD i = true := h
    rw [BitVec.getLsbD_one] at h; simpa using h
  subst h; decide +kernel
/-- `m.ld` and `m.st` of each format, in global memory that is mapped and that is not. -/
def rowOp (i : Instr) (d : Desc) : TileOp := { tile0 i none with da := d }
def readsRow (f : MFmt) (o : TileOp) : State × Except (Nat × Nat) (List (List Byte)) :=
  engReads (byMatrix (coreLaunch (tiled o) 0) 0 o) (begun o) ((rowPieces f o.da 0 0 64).map (fun q => (o.da.loc, q)))
def writesRow (f : MFmt) (o : TileOp) : State × Except (Nat × Nat) Unit :=
  engStore (byMatrix (coreLaunch (tiled o) 0) 0 o) (begun o)
    (((rowPieces f o.da 0 0 64).zip (stRow f o.fmt (accRow (coreWg (tiled o) 0) (dstTile o) 0)).1).map (fun q => (o.da.loc, q.1.1, q.2)))
theorem witness_MatrixEvents_loads : ∀ ty ∈ [(Ty.f32, (0 : BitVec 4)), (.bf16, 0), (.qb, 8)],
    let o := rowOp (.mLd 1 2 ty.1 ty.2 false) inMemory
    let r := readsRow (mfmtTy ty.1 ty.2.toNat) o
    failure r.2 = none ∧ (r.1.core 0).tag = 1 ∧ r.1.wg 1 0 = (begun o).wg 1 0 ∧ rowsLeft o = [0] := by decide +kernel
theorem witness_MatrixEvents_stores : ∀ ty ∈ [(Ty.f32, (0 : BitVec 4)), (.bf16, 0), (.qb, 8)],
    let o := rowOp (.mSt 1 2 ty.1 ty.2 false) inMemory
    failure (writesRow (mfmtTy ty.1 ty.2.toNat) o).2 = none ∧ rowsLeft o = [0] ∧ bit o.live 0 = true := by decide +kernel
theorem witness_MatrixEvents_row_faults :
    failure (readsRow .f32 (rowOp (.mLd 1 2 .f32 0 false) unmapped)).2 = some (8, 0x50000000) ∧
    failure (writesRow .f32 (rowOp (.mSt 1 2 .f32 0 false) unmapped)).2 = some (8, 0x50000000) := by decide +kernel
theorem witness_MatrixEvents_rows_began (i : Instr) (d : Desc) (h : ∃ k a ty w l, i = .mLd k a ty w l ∨ i = .mSt k a ty w l) :
    began (rowOp i d) = begun (rowOp i d) := by
  obtain ⟨k, a, ty, w, l, rfl | rfl⟩ := h <;> exact began_eq _ 0 rfl
/-- A chunk with infinite terms of both signs and one with those of one sign, and the lists' lengths. -/
theorem witness_MatrixEvents_elements :
    (FV.inf true).isInf true = true ∧ (FV.inf false).isInf false = true ∧ (∀ y ∈ [FV.inf false], y.isInf true = false) ∧
    (List.replicate 128 (0 : Byte)).length = 128 ∧ (List.replicate 16 (0 : Int)).length = 16 ∧ (0 : Nat) < 4 ∧
    (List.replicate 64 (0 : Nat)).length = 64 ∧ (∀ v ∈ List.replicate 64 (0 : Nat), v < 2 ^ 32) ∧ (unpack fp32 0).isNan = false := by decide +kernel

/-- A Skidder command of core 0 between scratchpad ranges: two elements of four bytes. -/
def copy0 (i : Instr) (b : Option Bind) : CopyOp :=
  { id := 6, grp := 0, word := 0, op := i, dst := 64, src := 0, ldst := true, lsrc := true, ord := false, xpose := false, target := 0, elog := 2
    ext := [2], srcs := [4], dsts := [4], ckind := 0, cval := 0, caddr := 0x40000008, fill := none, bind := b, suppressed := false, bytes := 0 }
def copying (o : CopyOp) : State :=
  onGroup (fun g => { g with cc := 1 }) (mapped.updWg 1 0 (fun w => { w with copyq := [o] }))
theorem witness_SkidderEvents_steady : let s := copying (copy0 (.cCopy 1 2 3 true true false) none)
    Steady (coreWg s 0) ∧ ∃ q ∈ (s.wg 1 0).copyq, q.grp = 0 :=
  ⟨steady_of _ (by decide +kernel), by decide +kernel⟩
theorem witness_SkidderEvents :
    let at0 := fun (o : CopyOp) => headCopy (copying o) 0 = some o ∧ (coreLaunch (copying o) 0).tag = ((copying o).core 0).tag
    let f := { copy0 (.cFill 1 2 7 true) none with fill := some 7, ext := [16] }
    let o := copy0 (.cCopy 1 2 3 true true false) none
    let el := fun (i : Nat) => elemAt o.src o.dst i o.ext o.srcs o.dsts
    at0 (copy0 (.cSig 1) (some ⟨1, false, some false⟩)) ∧ bindDiscards (some ⟨1, false, some false⟩) = true ∧ at0 f ∧ at0 (copy0 (.cSig 1) none) ∧
    (virtRmw (viaSkidder (coreLaunch (copying (copy0 (.cSig 1) none)) 0) 0) (copying (copy0 (.cSig 1) none)) 0x40000008 (fun x => x - 1)).2.toOption
      = some () ∧
    at0 o ∧ elemCount o = 2 ∧ (∀ i, i < 2 → spOk (coreLaunch (copying o) 0) (el i).2 4 = true) ∧
    (∀ i j, i < 2 → j < 2 → ((el i).1.toNat + 4 ≤ (el j).2.toNat ∨ (el j).2.toNat + 4 ≤ (el i).1.toNat) ∧
      (i ≠ j → (el i).2.toNat + 4 ≤ (el j).2.toNat ∨ (el j).2.toNat + 4 ≤ (el i).2.toNat)) := by
  iterate 7 refine And.intro (by decide +kernel) ?_
  refine And.intro (fun i h => ?_) (fun i j h g => ?_)
  · match i, h with
    | 0, _ => decide +kernel
    | 1, _ => decide +kernel
  · match i, j, h, g with
    | 0, 0, _, _ => decide +kernel
    | 0, 1, _, _ => decide +kernel
    | 1, 0, _, _ => decide +kernel
    | 1, 1, _, _ => decide +kernel

/-- A transposing copy, a copy of global memory onto itself, one that is not mapped, and a `c.send` to core 1 before and after its lock. -/
def global0 (src : Word) : CopyOp :=
  { copy0 (.cCopy 1 2 3 false false false) none with dst := 0x40000100, src := src, ldst := false, lsrc := false }
def send0 : CopyOp := { copy0 (.cSend 1 2 3 true false true 53) none with target := 1 }
def sendLocked : State := (copying send0).updWg 1 1 (fun w => { w with locks := [{ id := 6, loc := true, wr := true, lo := 64, hi := 71 }] })
theorem witness_SkidderEvents_copies :
    let go := fun (o : CopyOp) => copyGo (coreLaunch (copying o) 0) 0 o (elemCount o) 0 (copying o)
    let g := global0 0x40000000
    let u := global0 0x50000000
    let t := { copy0 (.cCopyt 1 2 3 true true false 1) none with xpose := true }
    (go g).2 = (8, none) ∧ (copySignal (chargeBudget (go g).1 1 2 8) (coreLaunch (copying g) 0) 0 g).2.toOption = some () ∧
    (go u).2 = (0, some (8, 0x50000000)) ∧ lacksLock (copying g) 0 g = false ∧ lacksLock (copying t) 0 t = false ∧ headCopy (copying t) 0 = some t ∧
    (∀ y ∈ send0.ext, y ≠ 0) ∧ lacksLock (copying send0) 0 send0 = true ∧ (∀ y ∈ ((copying send0).wg 1 1).locks, y.id ≠ send0.id) ∧
    lacksLock sendLocked 0 send0 = false ∧ headCopy sendLocked 0 = some send0 ∧ wkey 1 1 ≠ wkey 1 0 ∧
    (∀ i ∈ [0, 1], spOk (coreLaunch sendLocked 0) (elemAt send0.src send0.dst i send0.ext send0.srcs send0.dsts).2 4 = true) := by decide +kernel
/-- One element, and the parts of one: from the scratchpad and from global memory, out of the receiver's bounds, and each completion. -/
theorem witness_SkidderEvents_elements :
    let l := coreLaunch mapped 0
    let g := global0 0x40000000
    let e := bySkidder l 0 g
    let v := viaSkidder l 0
    let w := translate mapped (v.walkArg 0x40000100) .w
    failure (copyElem mapped l 0 g 0).2 = none ∧ failure (copyElem mapped l 0 (global0 0x50000000) 0).2 = some (8, 0x50000000) ∧
    (engRead mapped e false g.src 4).2.toOption = some [0, 0, 0, 0] ∧ failure (engWrite mapped e 0 false g.dst [0, 0, 0, 0]).2 = none ∧
    spOk l (BitVec.ofNat 64 (2 ^ 40)) 4 = false ∧ spOk l 64 8 = true ∧ g.ext.length = g.srcs.length ∧ g.ext.length = g.dsts.length ∧ 1 < elemCount g ∧
    w.2.toOption = some 0x100 ∧ permitted w.1 v.master 0x100 .w = true ∧ permitted w.1 v.master 0x100 (writePerm w.1.part 0x100) = true ∧
    locate w.1.part 0x100 = .slice 0 0x100 ∧ (w.1.tile (0x100 / 4096)).poisoned = false ∧ (w.1.tile (0x100 / 4096)).resident = true ∧
    (translate mapped (v.walkArg 0x40000100) .r).2.toOption = some 0x100 ∧ permitted mapped v.master 0x100 .r = true := by decide +kernel

/-- An operation of a collective of two ranks, ranks 0 and 1 on cores 0 and 1, before it completes, and a message of rank 1 to it. -/
def coll0 (i : Instr) : BoomOp :=
  { id := 9, gid := hostGroup, coll := 0, k := 0, rank := 0, ranks := [0, 1], op := i, src := 0x40000000, dst := 0x40000000, sig := 0, count := 1
    root := 0, outw := 0, seoff := 0, deoff := 0, word := 0, bind := none, started := true, ended := false, status := none, frozen := false
    left := 1000, since := 0, segs := [], flags := 0, fmt := 0x8A }
def msg (k : Nat) : BoomMsg := { kind := k, coll := 0, k := 0, src := 1, dst := 0, seg := 0, phase := 0, payload := [1, 2, 3, 4], status := 0x19 }
def booming (o : BoomOp) (ms : List BoomMsg) : State := { mapped with boomOps := [o], boomSent := ms.map (fun m => (m, 0)) }
theorem witness_BoomEvents :
    let o := coll0 (.xBcast 1 .z32)
    let d := msg 1
    let at9 := fun (s : State) (o : BoomOp) => s.boomOps.find? (fun y => y.id == 9 && y.gid == hostGroup) = some o ∧ o.ended = false
    (∀ k ∈ [1, 2, 3, 4, 5], boomArrives (booming o [msg k]) (msg k) = true ∧ boomAt (booming o [msg k]) (msg k) = some o) ∧
    (boomArrives { mapped with boomSent := [(d, 0)] } d = true ∧ boomAt { mapped with boomSent := [(d, 0)] } d = none ∧ d ∉ mapped.boomWaiting ∧ d.payload.length ≤ 8192) ∧
    boomAt (booming { o with started := false } [d]) d = some { o with started := false } ∧
    boomAt (booming { o with ended := true } [d]) d = some { o with ended := true } ∧ (d, 0) ∈ (booming o [d]).boomSent ∧
    ((∀ t ∈ [100000, 99999], let s := { booming o [d] with dtime := t }
      s.boomSent.any (fun m => m.1 == d && decide (m.2 + 100000 ≤ s.dtime)) = decide (t = 100000)) ∧ d.kind = 1) ∧
    at9 (booming o []) o ∧ o.started = true ∧ o.frozen = false ∧ o.status = none ∧ o.bind = none ∧ o.sig = 0 ∧ boomWrites o = some [] ∧
    at9 (booming { o with sig := 0x40000008 } []) { o with sig := 0x40000008 } ∧ boomWrites { o with sig := 0x40000008 } = some [] ∧
    at9 (booming { o with status := some 0x3F, sig := 0x40000008 } []) { o with status := some 0x3F, sig := 0x40000008 } ∧
    (virtRmw (viaBoom (mapped.launch 1) 0) (booming { o with sig := 0x40000008 } []) 0x40000008 (fun x => x - 1)).2.toOption = some () ∧
    (virtRmw (viaBoom (mapped.launch 1) 0) (booming { o with status := some 0x3F, sig := 0x40000008 } []) 0x40000008
      (fun _ => BitVec.ofInt 64 (-(63 : Int)))).2.toOption = some () := by decide +kernel

/-- Frozen and running out of time; a bound command waiting, discarded and ready; operations that differ; DST unwritten, written and unmapped. -/
def at9 (s : State) (o : BoomOp) : Bool := s.boomOps.find? (fun y => y.id == 9 && y.gid == hostGroup) == some o && !o.ended
theorem witness_BoomEvents_states :
    let o := coll0 (.xBcast 1 .z32)
    let late := { booming { o with left := 5 } [] with dtime := 9 }
    let bound := fun (f : Option Bool) => { o with bind := some { k := 1, neg := false, fate := f }, started := false }
    let two := { mapped with boomOps := [{ o with started := false }, { o with id := 10, count := 2, rank := 1 }] }
    let out := { o with dst := 0x40000100, segs := [(4, 0, 0, [1, 2, 3, 4])] }
    let all := fun (o : BoomOp) => putSeq (putSeq (booming o []) 0 0 1) 0 1 1
    let wr := fun (o : BoomOp) => boomReady (byBoom ((all o).launch o.gid.tag) o) (all o) o [(o.dst, [1, 2, 3, 4])]
    (boomAt (booming { o with frozen := true } [msg 4]) (msg 4) = some { o with frozen := true }) ∧
    (at9 late { o with left := 5 } = true ∧ 5 ≤ late.dtime - 0 ∧ mapped.dtime - 0 < 1000) ∧
    (at9 (booming (bound none) []) (bound none) = true ∧ at9 (booming (bound (some false)) []) (bound (some false)) = true ∧
      at9 (booming (bound (some true)) []) (bound (some true)) = true ∧ behindBound (booming (bound (some true)) []) (bound (some true)) = false) ∧
    (at9 two { o with started := false } = true ∧ behindBound two { o with started := false } = false ∧ two.boomWaiting = [] ∧
      (∀ y ∈ two.boomOps, y.id = 9 → y = { o with started := false }) ∧ (∀ y ∈ two.boomOps, y.status = none) ∧
      boomDiffers { o with started := false } { o with id := 10, count := 2, rank := 1 } = true) ∧
    (boomWrites out = some [(0x40000100, [1, 2, 3, 4])] ∧ allIssued (booming out []) out = false ∧ allIssued (all out) out = true ∧
      failure (wr out).2 = none ∧ failure (wr { out with dst := 0x50000000 }).2 = some (8, 0x50000000)) ∧
    boomWrites { o with rank := 1 } = none := by decide +kernel
/-- A rank of this package, of one joined by Highlead, and of one behind a scale-out port; the chain at its first, a middle and its last rank. -/
theorem witness_BoomEvents_links :
    let s := { mapped with part := { mapped.part with joined := [(2, 0)] } }
    let ranks := [s.part.package * 65536, 2 * 65536, 3 * 65536]
    rankPkg ranks 0 = s.part.package ∧ rankPkg ranks 1 ≠ s.part.package ∧ rankPkg ranks 2 ≠ s.part.package ∧
    s.part.joined.find? (fun p => p.1 == rankPkg ranks 1 && decide (p.2 < diesOf s.part)) = some (2, 0) ∧
    s.part.joined.find? (fun p => p.1 == rankPkg ranks 2 && decide (p.2 < diesOf s.part)) = none ∧
    regLE s (peerBase 3 + 16) 2 < (if s.part.dies16 then 4 else 2) ∧
    (∃ p : Sys2Proof.Part, p.netx = false) := ⟨by decide +kernel, by decide +kernel, by decide +kernel, by decide +kernel, by decide +kernel,
      by decide +kernel, { mapped.part with netx := false }, rfl⟩
theorem witness_BoomEvents_chain :
    let o := fun (r : Nat) => { coll0 (.xAllred 1 0 .z32 0) with rank := r, ranks := [0, 1, 2], segs := [(4, 0, r, [1, 0, 0, 0])] }
    let g := fun (r : Nat) => { o r with segs := (o r).segs ++ [(0, 0, r - 1, [2, 0, 0, 0])] }
    let last := fun (r : Nat) => { o r with segs := [(32, 0, r, [3, 0, 0, 0])] }
    (∃ k, xform (o 0).op = .elem k) ∧ (∀ r ∈ [0, 1, 2], heldSeg (o r) 16 0 r = none ∧ ownData (o r) 0 = some [1, 0, 0, 0]) ∧
    ownData { o 0 with segs := [] } 0 = none ∧
    (∀ r ∈ [1, 2], heldSeg (o r) 0 0 (r - 1) = none ∧ heldSeg (g r) 0 0 (r - 1) = some [2, 0, 0, 0]) ∧ finished (last 2) 0 = some [3, 0, 0, 0] ∧
    joinSegs { coll0 (.xBcast 1 .z32) with rank := 1, segs := [(0, 0, 0, [5, 0, 0, 0])] } 0 0 1 0 = some [5, 0, 0, 0] ∧
    rankPkg [0, 1, 2] ((o 0).ranks.length - 1) = mapped.part.package ∧ 4 * (0 + 1) ≤ [1, 0, 0, (0 : Byte)].length ∧ Ty.z32.width = 8 * 4 :=
  ⟨⟨4, rfl⟩, by decide +kernel⟩

/-- Two ranks of `x.allred.qb.qb4`, one block each: the last rank, with what it holds in each phase; its block delivered. -/
def qb0 : BoomOp :=
  { coll0 (.xAllred 1 0 .qb 4) with rank := 1, outw := 4, deoff := 64, segs :=
      [(4, 0, 1, [0x81]), (5, 0, 1, List.replicate 8 0x11), (33, 0, 1, [0x83]), (34, 0, 1, List.replicate 8 0x22 ++ [0x83])] }
theorem witness_BoomEvents_blocks :
    ownData qb0 1 = some [0x81] ∧ finished { qb0 with segs := [] } 1 = none ∧ finished qb0 1 = some [0x83] ∧ heldSeg qb0 4 0 1 = some [0x81] ∧
    heldSeg qb0 5 0 1 = some (List.replicate 8 0x11) ∧ (List.replicate 8 (0x11 : Byte)).length = 2 * 4 * qb0.count ∧ (List.replicate 64 (0 : Byte)).length = 64 * 1 ∧
    finished qb0 2 = some (List.replicate 8 0x22 ++ [0x83]) ∧ (List.replicate 8 (0x22 : Byte) ++ [0x83]).length = (2 * qb0.outw + 1) * qb0.count ∧
    finished { qb0 with outw := 0 } 2 = some (List.replicate 8 0x22 ++ [0x83]) ∧ (0x83 : Nat) ≠ 0xFF ∧ (0x81 : Nat) ≤ 0x83 ∧ 0x83 - 0x81 ≤ alignL 2 4 ∧
    (0x60 : Nat) ≤ 0x83 ∧ alignL 2 4 < 0x83 - 0x60 ∧ rankPkg qb0.ranks 1 = mapped.part.package := by decide +kernel

/-! ### Queues -/

/-- A write of 64 bytes to a notify block by core 0 for context 0: a capability with field bits `body`, sealed, then `tail`. -/
def sealed (body : Nat) (tail : List Byte) : NWrite :=
  { die := 0, by_ := { ident := 0, ctx := some 0 }
    data := toBytes 32 (body + (Config.sealMac (BitVec.ofNat 160 body)).toNat * 2 ^ 160) ++ tail }
/-- The fields of a capability of the queue at 0x40000000 with four rights bits from NOTIFY's SUBMIT on. -/
def capBody (rights : Nat) : Nat := 0x40000000 + 0x40000800 * 2 ^ 64 + 6 * 2 ^ 128 + rights * 2 ^ 133
/-- What the notify block makes of a sealed capability, whatever the sealing function is. -/
theorem capOf_sealed (body : Nat) (tail : List Byte) (h : body < 2 ^ 160) : capOf (sealed body tail).data =
    { base := BitVec.ofNat 64 (bits body 0 64), ridx := BitVec.ofNat 64 (bits body 64 64), logn := bits body 128 5, owner := bits body 141 16
      submit := bits body 133 1 == 1, notify := bits body 134 1 == 1, abort := bits body 135 1 == 1, query := bits body 136 1 == 1
      ok := capFieldsOk body } := by
  have hm := (Config.sealMac (BitVec.ofNat 160 body)).isLt
  generalize hM : (Config.sealMac (BitVec.ofNat 160 body)).toNat = m at hm
  have hv : ofBytes ((sealed body tail).data.take 32) = body + m * 2 ^ 160 := by
    simp only [sealed, hM, take_toBytes_append, ofBytes_toBytes]
    exact Nat.mod_eq_of_lt (add_high_lt body m 160 96 h hm)
  have b : ∀ lo n, lo + n ≤ 160 → bits (body + m * 2 ^ 160) lo n = bits body lo n := fun lo n h => bits_add_high body m 160 lo n h
  have hs : (BitVec.ofNat 96 (bits (body + m * 2 ^ 160) 160 96) == Config.sealMac (BitVec.ofNat 160 (bits (body + m * 2 ^ 160) 0 160))) = true := by
    rw [bits_high body m 160 96 h hm, b 0 160 (by omega), show bits body 0 160 = body from (Nat.mod_eq_of_lt (by simpa using h)).trans (Nat.div_one _), ← hM]
    simp
  simp only [capOf, hv, hs, Bool.and_true]
  simp only [capFieldsOk, b 157 3 (by omega), b 137 4 (by omega), b 128 5 (by omega), b 0 12 (by omega), b 64 3 (by omega), b 64 64 (by omega),
    b 0 64 (by omega), b 133 1 (by omega), b 134 1 (by omega), b 135 1 (by omega), b 136 1 (by omega), b 141 16 (by omega)]
/-- Its queue in entry 0. -/
def arrQ : Queue := { queue0 .active 1 [] with base := 0x40000000 }
def cap0 (rights : Nat) : Cap :=
  { base := 0x40000000, ridx := 0x40000800, logn := 6, owner := 0, submit := rights % 2 == 1, notify := rights / 2 % 2 == 1
    abort := rights / 4 % 2 == 1, query := rights / 8 % 2 == 1, ok := true }
theorem capOf_cap0 (r : Nat) (tail : List Byte) (h : r ∈ [0, 15]) : capOf (sealed (capBody r) tail).data = cap0 r := by
  simp only [List.mem_cons, List.not_mem_nil, or_false] at h
  rcases h with rfl | rfl
  · rw [capOf_sealed _ _ (by decide)]; decide +kernel
  · rw [capOf_sealed _ _ (by decide)]; decide +kernel
theorem sealed_drop (body : Nat) (tail : List Byte) (n : Nat) : (sealed body tail).data.drop (32 + n) = tail.drop n := by
  rw [← List.drop_drop]; exact congrArg _ (drop_toBytes_append 32 _ tail)

/-- Accepted writes at each register; each reason for a refusal. -/
theorem witness_QueueEvents_accepted : ∀ x ∈ [(0, toBytes 32 5), (0x40, toBytes 32 2), (0x40, toBytes 32 1), (0x80, toBytes 32 0x40000100)],
    Accepted (queued arrQ mapped) x.1 (sealed (capBody 15) x.2) := by
  intro x hx
  refine ⟨show 0 < diesOf (queued arrQ mapped).part by decide +kernel, ?_, ?_, ?_, ?_, ?_⟩
  · simp only [sealed, List.length_append, length_toBytes]
    simp only [List.mem_cons, List.not_mem_nil, or_false] at hx
    rcases hx with rfl | rfl | rfl | rfl <;> rfl
  · rw [capOf_cap0 _ _ (by decide)]; rfl
  · rw [capOf_cap0 _ _ (by decide)]
    show decideAccess (queued arrQ mapped) 0 7 { ident := 0, ctx := some 0 } (0x280000000000 + 0 * 0x1000) .n = some (some 0)
    decide +kernel
  · simp only [List.mem_cons, List.not_mem_nil, or_false] at hx
    have a : ∀ t : List Byte, at_ (sealed (capBody 15) t).data 32 1 = at_ t 0 1 := fun t => by
      simp only [at_, List.drop_zero]; exact congrArg (fun l => ofBytes (l.take 1)) (sealed_drop _ t 0)
    rcases hx with rfl | rfl | rfl | rfl
    · unfold zeroBytesOk; rw [a]; show ((List.drop (32 + 8) _).all _ && _) = true; rw [sealed_drop]; decide +kernel
    · unfold zeroBytesOk; rw [a]; show ((List.drop (32 + 1) _).all _ && _) = true; rw [sealed_drop]; decide +kernel
    · unfold zeroBytesOk; rw [a]; show ((List.drop (32 + 1) _).all _ && _) = true; rw [sealed_drop]; decide +kernel
    · unfold zeroBytesOk; rw [a]; show ((List.drop (32 + 8) _).all _ && _) = true; rw [sealed_drop]; decide +kernel
  · rw [capOf_cap0 _ _ (by decide)]
    simp only [List.mem_cons, List.not_mem_nil, or_false] at hx
    rcases hx with rfl | rfl | rfl | rfl <;> rfl
theorem witness_QueueEvents_routes (tail : List Byte) :
    findQueue (queued arrQ mapped) (capOf (sealed (capBody 15) tail).data) = some 0 ∧ findQueue mapped (capOf (sealed (capBody 15) tail).data) = none ∧
    servingDie mapped.part (capOf (sealed (capBody 15) tail).data) = 0 ∧ sget [] mapped.forwarded 0 = [] ∧
    (capOf (sealed (capBody 0) tail).data).ok = true ∧ (∀ off, rightOf (capOf (sealed (capBody 0) tail).data) off = false) ∧
    (capOf (sealed 0 tail).data).ok = false := by
  rw [capOf_cap0 _ _ (by decide), capOf_cap0 _ _ (by decide), capOf_sealed _ _ (by decide)]
  iterate 4 refine And.intro (by decide +kernel) ?_
  refine ⟨rfl, fun off => ?_, by decide +kernel⟩
  unfold rightOf; split <;> rfl
/-- A forwarded write, for a queue that the die holds, and for one that it takes up with its read-index word readable and not. -/
theorem witness_QueueEvents_forwarded (w : NWrite) (hw : w = sealed (capBody 15) (toBytes 32 5)) :
    let f := fun (s : State) => { s with forwarded := [(0, [(0, w)])] }
    sget [] (f mapped).forwarded 0 = [(0, w)] ∧ findQueue (f (queued arrQ mapped)) (capOf w.data) = some 0 ∧ findQueue (f mapped) (capOf w.data) = none ∧
    freeQueueEntry (f mapped) 0 = some 0 ∧
    (virtRead (viaPacket 0 (capOf w.data).owner) { f mapped with forwarded := sput [] (f mapped).forwarded 0 [] } (capOf w.data).ridx.toNat 8).2.toOption
      = some (toBytes 8 0) ∧
    failure (virtRead (viaPacket 0 (capOf w.data).owner) { f { mapped with tlb := [] } with forwarded := sput [] (f mapped).forwarded 0 [] }
      (capOf w.data).ridx.toNat 8).2 ≠ none := by
  have h : capOf w.data = cap0 15 := by rw [hw]; exact capOf_cap0 _ _ (by decide)
  rw [h]
  generalize w = w'
  refine ⟨rfl, show findQueue (queued arrQ mapped) (cap0 15) = some 0 by decide +kernel, show findQueue mapped (cap0 15) = none by decide +kernel,
    show freeQueueEntry mapped 0 = some 0 by decide +kernel, ?_, ?_⟩
  · show (virtRead (viaPacket 0 (cap0 15).owner) { mapped with forwarded := [] } (cap0 15).ridx.toNat 8).2.toOption = some (toBytes 8 0)
    decide +kernel
  · show failure (virtRead (viaPacket 0 (cap0 15).owner) { mapped with tlb := [], forwarded := [] } (cap0 15).ridx.toNat 8).2 ≠ none
    decide +kernel

def bigPkt (typ : Nat) (b : Bool) (w : List (Word × Bool)) : Packet :=
  { at_ := 0, typ := typ, b := b, tag := 0, signal := 0x40000008, rscope := 0, watch := w }
/-- A queue of slot contents `b`, with `wl` slots covered. -/
def packets (st : QState) (fl : List Packet) (wl : Nat) (b : List Byte) : State :=
  queued { queue0 st wl fl with covers := [(2, true)] } (decked 1 1 b)
/-- The state of the queue before each case of dispatch. -/
theorem witness_QueueEvents_dispatch :
    let q := fun (s : State) => queueAt s 0
    let takes := fun (s : State) => ((q s).stalled = false ∧ (q s).ri < (q s).wl) ∧ (q s).state = .active ∧ (q s).inflight.any (fun y => y.b) = false ∧
      (q s).inflight.length < 16
    let a := packets .active [] 1
    let read := fun (s : State) => (readPacket s 0 (q s)).2
    let nop := toBytes 64 0
    let sig := toBytes 8 3 ++ toBytes 8 0x40000008 ++ toBytes 8 5 ++ toBytes 40 1
    let bar := fun n => toBytes 8 2 ++ toBytes 8 (0x40000008 * n) ++ toBytes 40 0 ++ toBytes 8 n
    ((q (packets .active [bigPkt 1 true []] 1 nop)).inflight.any (fun y => y.b) = true ∧ (q (packets .active [bigPkt 1 true []] 1 nop)).ri < 1) ∧
    (16 ≤ (q (packets .active (List.replicate 16 (bigPkt 1 false [])) 1 nop)).inflight.length ∧
      (List.replicate 16 (bigPkt 1 false [])).any (fun y => y.b) = false) ∧
    (takes (a (toBytes 64 0x201)) ∧ read (a (toBytes 64 0x201)) = .short 2) ∧
    (takes { a nop with tlb := [] } ∧ (match read { a nop with tlb := [] } with | .fault _ => true | _ => false) = true) ∧
    (takes (a nop) ∧ read (a nop) = .slots [nop] ∧ hdrType 0 = 0 ∧ hdrOk 0 = true) ∧
    (read (a (toBytes 64 4)) = .slots [toBytes 64 4] ∧ hdrType 4 ≠ 1 ∧ hdrOk 4 = false) ∧
    (read (a sig) = .slots [sig] ∧ hdrType 3 = 3 ∧ hdrOk 3 = true ∧ smallPktOk sig = true ∧ at_ sig 8 8 = 0x40000008 ∧
      (virtRmw (viaPacket 0 0) (writeRi (readPacket (a sig) 0 (q (a sig))).1 0 1) 0x40000008 (signalOp 1 5)).2.toOption = some ()) ∧
    (∀ n ∈ [0, 1], read (a (bar n)) = .slots [bar n] ∧ smallPktOk (bar n) = true ∧ at_ (bar n) 0x38 1 = n) ∧ hdrType 2 = 2 ∧ hdrOk 2 = true ∧
    ((q (packets .aborted [] 1 nop)).state = .aborted ∧ read (packets .aborted [] 1 nop) = .slots [nop]) := by decide +kernel
/-- The fates of a LAUNCH: no budget, admitted, and a partition that holds 64. -/
theorem witness_QueueEvents_launch :
    let a := fun (b : Nat) (ls : List Launch) => { packets .active [] 1 (launchSlot b) with launches := ls }
    let fate := fun (s : State) (b : Nat) => (launchFate s 0 (queueAt s 0) { hdr := 1, b0 := launchSlot b, b1 := [] } true).2
    governedBySubmit (queueAt (a 1 []) 0) 1 = true ∧ fate (a 0 []) 0 = .reject 0x83 ∧
    (match fate (a 1 []) 1 with | .accept _ => true | _ => false) = true ∧ fate (a 1 (List.replicate 64 { hostLaunch with svc := false })) 1 = .full := by decide +kernel
/-- A barrier that watches one signal: 0, negative, positive, and not readable. -/
theorem witness_QueueEvents_barrier :
    let b := fun (v : Nat) (w : List (Word × Bool)) =>
      { queued (queue0 .active 1 [bigPkt 2 false w]) mapped with mem := writeLE [] 8 8 v }
    let w := [((0x40000008 : Word), false)]
    let two := [((0x40000008 : Word), false), (0x40000010, false)]
    let rd := fun (s : State) => (virtRead (viaPacket 0 0) s 0x40000008 8).2
    ((queueAt (b 0 w) 0).inflight.find? (fun y => y.at_ == 0 && y.typ == 2) = some (bigPkt 2 false w) ∧ w[0]? = some (0x40000008, false)) ∧
    ((rd (b 0 w)).toOption = some (toBytes 8 0) ∧ (w.set 0 (0x40000008, true)).all (fun y => y.2) = true ∧
      (two.set 0 (0x40000008, true)).all (fun y => y.2) = false) ∧
    ((rd (b (2 ^ 64 - 5) w)).toOption = some (toBytes 8 (2 ^ 64 - 5)) ∧ (BitVec.ofNat 64 (2 ^ 64 - 5)).toInt < 0) ∧
    ((rd (b 3 w)).toOption = some (toBytes 8 3) ∧ 0 < (BitVec.ofNat 64 3).toInt ∧ w.all (fun y => y.2) = false) ∧
    failure (rd { b 0 w with tlb := [] }) ≠ none := by decide +kernel
/-- The registers' effects on a queue, and a signal's write. -/
theorem witness_QueueEvents_acts :
    let s := queued (queue0 .active 1 []) mapped
    let rec_ := toBytes 8 0 ++ toBytes 8 1 ++ toBytes 4 (stateCode .active) ++ toBytes 4 0 ++ toBytes 8 0
    let h := queued (queue0 .halted 1 []) mapped
    (queueAt s 0).state ≠ .halted ∧ (1 : Nat) ≤ (queueAt s 0).wl ∧ (2 : Nat) - (queueAt s 0).ri ≤ 2 ^ (queueAt s 0).logn ∧
    2 ^ (queueAt s 0).logn < 65 - (queueAt s 0).ri ∧ (queueAt h 0).state = .halted ∧
    at_ (toBytes 32 0 ++ toBytes 32 0x40000100) 32 8 = 0x40000100 ∧ (virtWrite (viaPacket 0 0) s 0x40000100 rec_).2.toOption = some () ∧
    at_ (toBytes 32 0 ++ toBytes 32 1) 32 1 = 1 ∧ at_ (toBytes 32 0 ++ toBytes 32 2) 32 1 = 2 ∧
    (virtWrite (viaPacket 0 0) (updQueue h 0 (fun y => { y with ri := 1, covers := [] })) 0x40000800 (toBytes 8 1)).2.toOption = some () ∧
    (virtRmw { die := 0, ident := idDealer 0, ctx := 0, tag := 0 } s 0x40000008 (fun y => y - 1)).2.toOption = some () ∧
    0 < diesOf s.part ∧ permitted s { ident := 0, ctx := some 0 } (0x280000000000 + 0 * 0x1000 + 0xC0) .w = true := by decide +kernel

/-- The packets of a queue that is rearmed; a QUERY record and a read-index word that cannot be written. -/
theorem witness_QueueEvents_rearm :
    let nop := toBytes 64 0
    let s := packets .aborted [] 1 nop
    let q := queueAt s 0
    let short := packets .aborted [] 1 (toBytes 64 0x201)
    let gone := { s with tlb := [] }
    let rec_ := toBytes 8 0 ++ toBytes 8 1 ++ toBytes 4 (stateCode .aborted) ++ toBytes 4 0 ++ toBytes 8 0
    let at_' := fun (s : State) => virtWrite (viaPacket 0 0) (updQueue s 0 (fun y => { y with ri := 1, covers := y.covers.filter (fun z => decide (1 < z.1)) })) 0x40000800 (toBytes 8 1)
    (q.stalled = false ∧ q.ri < q.wl ∧ q.state = .aborted) ∧ (readPacket s 0 q).2 = .slots [nop] ∧ (readPacket short 0 (queueAt short 0)).2 = .short 2 ∧
    (match (readPacket gone 0 (queueAt gone 0)).2 with | .fault _ => true | _ => false) = true ∧
    (virtStore (viaPacket 0 0) s 0x40000100 rec_).2.toOption = some () ∧ failure (virtStore (viaPacket 0 0) gone 0x40000100 rec_).2 ≠ none ∧
    (at_' s).2.toOption = some () ∧ failure (at_' gone).2 ≠ none ∧ ¬((queueAt (packets .aborted [] 0 nop) 0).ri < (queueAt (packets .aborted [] 0 nop) 0).wl) := by
  decide +kernel

/-! ### Launches -/

/-- The checks of R320 in their order, one LAUNCH for each. -/
theorem witness_LaunchEvents_checks :
    let k := fun (h : Nat) (b : List Byte) => ({ hdr := h, b0 := b, b1 := [] } : LaunchPkt)
    let s := decked 1 1 []
    let sel := fun (s : State) => (selectKernel s via0 (BitVec.ofNat 64 0x40000000) 0 0).2
    let fits := fun (b : List Byte) => at_ b 5 1 < 16 ∧ partEntry s (at_ b 5 1) ≠ 0 ∧ bits (ctxPmask s 0) (at_ b 5 1) 1 = 1 ∧ at_ b 2 2 ≠ 0 ∧
      at_ b 2 2 ≤ (partCores s (at_ b 5 1)).length
    bits (rootsEntry mapped 0) 0 1 ≠ 1 ∧ bits (rootsEntry s 0) 0 1 = 1 ∧ launchFormOk (k 0 []) = false ∧ launchFormOk (k 1 (launchSlot 1)) = true ∧
    at_ (launchSlot 1) 8 8 = 0x40000000 ∧ at_ (launchSlot 1) 6 2 = 0 ∧ at_ (launchSlot 1) 4 1 = 0 ∧
    ¬fits (toBytes 64 0) ∧ fits (launchSlot 1) ∧ failure (sel { s with mem := [] }) = some 0x8C ∧
    (sel (decked 2 1 [])).toOption.map (fun x => decide (1 < x.kernel.stages)) = some true ∧
    (sel (decked 1 0 [])).toOption.map (fun x => (x.kernel.stages, poolOk x.kernel)) = some (1, false) ∧
    (sel s).toOption.map (fun x => (x.kernel.stages, poolOk x.kernel)) = some (1, true) ∧ at_ (launchSlot 0) 0x20 4 = 0 ∧ at_ (launchSlot 1) 0x20 4 = 1 ∧
    at_ (toBytes 64 (2 ^ 192)) 0x18 8 = 1 ∧ (1 : Nat) ≤ { s with dtime := 5 }.dtime ∧ at_ (launchSlot 1) 0x18 8 = 0 ∧ hdrNpre 1 = false := by
  decide +kernel

/-- A launch of partition 0, which is cores 8 to 15, with one group. -/
def launch7 (st : LState) : Launch :=
  { Launch.zero with tag := 7, state := st, part := 0, c := 1, s := 1, groups := 1, vregs := 8, idem := true, order := 1, cores := if st == .admitted then [] else [8] }
def launched (ls : List Launch) : State := { decked 1 1 [] with launches := ls, clkPend := false, bringup := 3 }
theorem witness_LaunchEvents_placement :
    let s := fun (l : Launch) => launched [l]
    let first := { launch7 .admitted with deadline := 5 }
    let full := (List.range 8).foldl (fun s c => s.updCore (8 + c) (fun x => { x with tag := 3 }))
      (launched [first, { launch7 .running with tag := 3, cores := [8, 9, 10, 11, 12, 13, 14, 15] }])
    (∀ l ∈ [launch7 .admitted, launch7 .saved], (s l).clkPend = false ∧ (s l).bringup = 3 ∧ unplaced (s l) 0 = [l]) ∧
    (launch7 .admitted).c ≤ ((partCores (s (launch7 .admitted)) 0).filter (coreFree (s (launch7 .admitted)))).length ∧
    (∀ y ∈ (launch7 .saved).cores, coreFree (s (launch7 .saved)) y = true) ∧ unplaced (launched []) 0 = [] ∧
    unplaced full 0 = [first] ∧ (tryPlace full 0 first []).isNone = true ∧ requestCores full 0 first ≠ full ∧ (launch7 .admitted).groups ≤ 32 ∧ (launch7 .admitted).idem = true := by decide +kernel

/-- A launch whose core has stopped for it, new and saved; one whose core set has been complete since before. -/
def placing7 (restore : Bool) : State := startPlacing (launched [{ launch7 .admitted with cores := [8] }]) { launch7 .admitted with cores := [8] } restore
theorem witness_LaunchEvents_placing :
    let kept := { launch7 .admitted with reserved := [9] }
    (∀ b ∈ [true, false], (partLaunches (placing7 b) 0).find? (fun y => y.state == .placing true || y.state == .placing false)
        = some ((placing7 b).launch 7)) ∧
    (let L := (placing7 false).launch 7
     L.tag = 7 ∧ L.state = .placing false ∧ L.groups ≤ 32 ∧ (∀ y ∈ L.cores, y < 512) ∧ 8 ∈ L.cores ∧
     ((readPoints (placing7 false) { die := 0, ident := idDealer 0, ctx := 0, tag := 0 } L.sp L.spCount).1.launch 7).tag = 7) ∧
    (unplaced (launched [kept]) 0 = [kept] ∧ kept.reserved.length = kept.c ∧ ∀ y ∈ kept.reserved, coreFree (launched [kept]) y = true) ∧
    (∀ y ∈ partLaunches (launched [kept]) 0, y.state ≠ .placing true ∧ y.state ≠ .placing false) ∧ kept.reserved ≠ [] ∧ (launch7 .admitted).reserved = [] ∧
    groupsMade ((placing7 false).launch 7) = false ∧ groupsMade { launch7 .running with cores := [8] } = true := by decide +kernel

/-- The launch runs on core 8 with one group. -/
def running7 (f : Launch → Launch) (g : Group → Group) : State :=
  let s := loadLaunch (placeNew (launched [launch7 .admitted]) (launch7 .admitted) [8]) 7
  (s.updLaunch 7 f).updGroup { tag := 7, core := 8, grp := 0 } g
theorem witness_LaunchEvents_preemption :
    let asked := fun (t : Nat) (l : Launch) => { l with asked := true, askedAt := t }
    let L := fun (s : State) => (s.launch 7).tag ≠ 0 ∧ (s.launch 7).asked = true ∧ (s.launch 7).state = .running
    let y := fun (s : State) => (launchGroups (s.launch 7)).foldl evictGroup s
    let left := fun (s : State) => (launchGroups (s.launch 7)).filter (fun g => ((y s).group g).status == .active)
    let early := running7 (asked 1) id
    let late := fun (g : Group → Group) => { running7 (asked 0) g with dtime := 2 ^ 20 }
    let saved := late (fun g => { g with status := .halted })
    let bare := late (fun g => { g with ck := { g.ck with ckv := false } })
    (L early ∧ early.dtime < (early.launch 7).askedAt + 1000 * ctxPolite early (early.launch 7).ctx) ∧
    (L saved ∧ (saved.launch 7).askedAt + 1000 * ctxPolite saved (saved.launch 7).ctx ≤ saved.dtime ∧ left saved = []) ∧
    (L bare ∧ left bare = [{ tag := 7, core := 8, grp := 0 }] ∧ ((y bare).group { tag := 7, core := 8, grp := 0 }).ck.ckv = false) ∧
    (left (late id) = [{ tag := 7, core := 8, grp := 0 }] ∧ ((y (late id)).group { tag := 7, core := 8, grp := 0 }).ck.ckv = true) ∧
    (let s := running7 (asked 0) (fun g => { g with status := .saved false })
     L s ∧ (s.core 8).tag = 7 ∧ wgSaved s (s.launch 7) 8 = true) := by decide +kernel
theorem witness_LaunchEvents_end :
    let s := fun (h : Option Word) => running7 (fun l => { l with budget := [0, -1, 0, 0], handler := h, enforced := true }) id
    let ovr := putReg (s none) (ctxBase 0) 4 (1 + 2 ^ 28)
    let has := fun (h : Option Word) => ((List.range 4).find? (fun j => decide (((s h).launch 7).budget.getD j 0 < 0)) = some 1 ∧ ((s h).launch 7).tag ≠ 0 ∧
      ((s h).launch 7).enforced = true ∧ ((s h).launch 7).state ≠ .completing ∧ ((s h).launch 7).handler = h)
    has none ∧ has (some 0x40) ∧
    ctxOvr (s none) 0 = false ∧ ctxOvr ovr 0 = true ∧ ((ovr.launch 7).budget = [0, -1, 0, 0] ∧ (ovr.launch 7).handler = none) ∧
    (List.range 4).find? (fun j => decide ((Launch.zero.budget).getD j 0 < 0)) = none ∧ mayComplete (s none) ((s none).launch 7) = false ∧
    (let d := running7 (fun l => { l with state := .completing }) (fun g => { g with status := .retired })
     mayComplete d (d.launch 7) = true) := by decide +kernel
/-- A workgroup whose one group has retired. -/
theorem witness_LaunchEvents_retired :
    let s := running7 id (fun g => { g with status := .retired })
    (s.launch 7).tag = 7 ∧ (s.launch 7).state = .running ∧ 8 ∈ (s.launch 7).cores ∧ wgDrained s 7 8 = true ∧ (s.wg 7 8).retired = false ∧
    (∀ y ∈ (s.launch 7).cores, y ≠ 8 → (s.wg 7 y).retired = true) ∧
    (let t := s.updLaunch 7 (fun l => { l with cores := [8, 9] })
     wgDrained t 7 8 = true ∧ (t.wg 7 9).retired = false) := by decide +kernel

/-- A core that launch 7 holds, one whose workgroup has retired, and one that has none; a workgroup that may leave its core. -/
theorem witness_LaunchEvents_free :
    let s := running7 id id
    let r := (running7 id (fun g => { g with status := .retired })).updWg 7 8 (fun w => { w with retired := true })
    let v := running7 (fun l => { l with asked := true }) (fun g => { g with status := .saved false })
    coreFree s 8 = false ∧ heldCores s (s.launch 7) = [8] ∧ coreFree r 8 = true ∧ (r.core 8).tag = 7 ∧ heldCores r (r.launch 7) = [] ∧
    (s.core 9).tag = 0 ∧ coreFree s 9 = true ∧ (v.wg 7 8).retired = false ∧ mayLeave v (v.launch 7) 8 = true := by decide +kernel
/-- A launch that was asked, on its last core: the group on the other one has been saved and has left it; and a group there that runs on. -/
theorem witness_LaunchEvents_retired_asked :
    let s := fun (st : GStatus) => ((running7 (fun l => { l with asked := true, cores := [8, 9], c := 2 }) (fun g => { g with status := .retired })).updGroup
      { tag := 7, core := 9, grp := 0 } (fun g => { g with status := st }))
    let left := fun (t : State) => [8, 9].all (fun y => decide ((t.core y).tag ≠ 7) || wgRetired t 7 y) && (launchGroups ((s (.saved false)).launch 7)).any (fun z => isSaved (t.group z))
    (∀ st ∈ [GStatus.saved false, .active], ((s st).launch 7).asked = true ∧ ((s st).launch 7).state = .running ∧ 8 ∈ ((s st).launch 7).cores ∧
      wgDrained (s st) 7 8 = true ∧ ((s st).wg 7 8).retired = false ∧ ((s st).wg 7 9).retired = false) ∧
    left (retireWg (s (.saved false)) 7 8) = true ∧ left (retireWg (s .active) 7 8) = false := by decide +kernel
/-- Two launches, one of which waits for the core on which the other's workgroup has been saved, or which it has left. -/
theorem witness_LaunchEvents_charged :
    let w := { launch7 .admitted with tag := 4, reserved := [8], stopped := [8] }
    let v := fun (g : Group → Group) => let s := running7 (fun l => { l with asked := true, askedFor := 4 }) g
      { s with launches := s.launches ++ [w] }
    let s := v (fun g => { g with status := .saved false })
    let gone := s.updCore 8 (fun c => { c with tag := 0 })
    (s.launches.map Launch.tag).Nodup ∧ (∀ a ∈ s.launches, a.tag ≠ 0) ∧ (∀ a ∈ s.launches, ∀ b ∈ s.launches, 8 ∈ a.reserved → 8 ∈ b.reserved → a = b) ∧
    s.launch 7 ∈ s.launches ∧ (s.core 8).tag = (s.launch 7).tag ∧ savedHere s (s.launch 7) 8 = true ∧ stopsFor s w 8 = true ∧ stopsFor gone w 8 = true ∧
    holdsWork (v id) ((v id).launch 7) 8 = true := by decide +kernel

/-- The demand test: a LAUNCH that passes; one that a background launch blocks, with a deadline and without; one whose own deadline is too near. -/
def pktOf (npre : Bool) (deadline budget : Nat) : LaunchPkt :=
  { hdr := if npre then 1 + 2 ^ 12 else 1
    b0 := toBytes 2 1 ++ toBytes 2 1 ++ toBytes 4 0 ++ toBytes 8 0x40000000 ++ toBytes 16 (deadline * 2 ^ 64) ++ toBytes 4 budget ++ toBytes 28 0, b1 := [] }
def demands (s : State) (k : LaunchPkt) : List Demand :=
  (partLaunches s 0).map (fun y => { r := y.budget.headD 0, c := y.c, deadline := y.deadline, npre := y.npre })
    ++ [{ r := (pktBudget k).headD 0, c := 1, deadline := at_ k.b0 0x18 8, npre := hdrNpre k.hdr }]
def fits (s : State) (k : LaunchPkt) (blocking : Bool) : Prop :=
  let sum := fun (ys : List Demand) => (ys.map Demand.r).sum
  let finite := (demands s k).filter (fun y => y.deadline != 0)
  let later := fun (d : Nat) => sum ((demands s k).filter (fun y => y.npre && (y.deadline == 0 || decide (d < y.deadline))))
  let room := fun (n d : Nat) => (n : Int) * clk2 s.clkCur * ((d : Int) - s.dtime)
  (∀ y ∈ finite, 2 * y.r ≤ room y.c y.deadline) ∧ ∀ y ∈ finite,
    2 * (sum (finite.filter (fun z => decide (z.deadline ≤ y.deadline))) + if blocking then later y.deadline else 0) ≤ room 8 y.deadline
theorem witness_LaunchEvents_demand :
    let back := launched [{ launch7 .running with npre := true, budget := [100000, 0, 0, 0] }]
    let timed := launched [{ launch7 .running with deadline := 1000, budget := [100, 0, 0, 0] }]
    (partCores back 0).length = 8 ∧ back.dtime < 1000 ∧ hdrNpre (pktOf true 0 200).hdr = true ∧ at_ (pktOf true 0 200).b0 0x18 8 = 0 ∧
    fits (launched []) (pktOf false 1000 1) true ∧ ¬fits back (pktOf false 1000 1) true ∧ fits back (pktOf false 1000 1) false ∧
    ¬fits back (pktOf false 100 1) true ∧ ¬fits back (pktOf false 100 1) false ∧ ¬fits timed (pktOf true 0 200) true ∧ at_ (pktOf false 1000 1).b0 0x18 8 = 1000 := by
  unfold fits; decide +kernel
/-- A waiting launch of two cores beside running ones that it may ask. -/
theorem witness_LaunchEvents_cores :
    let first := { launch7 .admitted with deadline := 5, c := 2 }
    let full := (List.range 8).foldl (fun s c => s.updCore (8 + c) (fun x => { x with tag := 3 }))
      (launched [first, { launch7 .running with tag := 3, cores := [8, 9, 10, 11, 12, 13, 14, 15] }])
    (coreSet full 0 first).2 = [full.launch 3] ∧ (askable full 0 first).filter (fun y => !y.asked) = [full.launch 3] ∧ (full.launch 7).tag = 7 ∧
    first.reserved = [] ∧ (full.launch 3).tag ≠ 0 ∧ ∃ n, ∀ y ∈ [full.launch 3], y.tag ≠ n := by
  refine ⟨by decide +kernel, by decide +kernel, by decide +kernel, rfl, by decide +kernel, 4, by decide +kernel⟩

/-! ### Registers, debugger, platform, links -/

def core0 : Master := { ident := 0, ctx := some 0 }
/-- A register of each kind that core 0 may write in `mapped`, and none in `demo`. -/
theorem witness_RegisterEvents :
    let free := fun (a : Nat) => notifyReg mapped.part a = none ∧ block64 mapped core0 a = none ∧ svcDieAt mapped.part a = none
    let ok := fun (a : Nat) => permitted mapped core0 a .w = true
    let d := decked 1 1 []
    (free (ctxBase 0)) ∧ ok (ctxBase 0) ∧ permitted demo core0 (ctxBase 0) .w = false ∧ notifyReg demo.part (ctxBase 0) = none ∧
    regAt mapped.part (ctxBase 0) = .table (ctxBase 0) ∧ ok pkgBase ∧ mapped.clkCur = 3 ∧ mapped.clkPend = false ∧ ok (dieBase 0 + 0x10000) ∧
    0 < diesOf mapped.part ∧ bits (partEntry d 0) (4 * 0 + 1) 1 = 1 ∧ permitted d core0 (dieBase 0 + 0x10000) .w = true ∧
    (∀ c q, c < 4 → q < 16 → (1 : Word).getLsbD c = true → bits (partEntry d q) (4 * 0 + c) 1 = 0) ∧
    permitted d core0 (partBase 1) .w = true ∧ partIgnored d 1 2 = true ∧ partIgnored d 1 1 = false ∧
    hasTarget mapped.part 0 (atselOf mapped 0) = true ∧ ok (dieBase 0 + 0x4000 + 256 * 63 + 16 * 15 + 8) ∧
    ok (pkgBase + 0x40) ∧ ok (pkgBase + 0xC0) ∧ ok (yctlBase 0 + 0x40) ∧ ok (yctlBase 0 + 0x80) := by
  refine And.intro ⟨by decide +kernel, by rfl, by decide +kernel⟩ ?_
  iterate 11 refine And.intro (by decide +kernel) ?_
  refine And.intro ?_ (by and_intros <;> decide +kernel)
  have h : ∀ c < 4, ∀ q < 16, (1 : Word).getLsbD c = true → bits (partEntry (decked 1 1 []) q) (4 * 0 + c) 1 = 0 := by decide +kernel
  exact fun c q hc hq => h c hc q hq
/-- Shootdown of a range with an access under way and without; the firmware's services. -/
theorem witness_RegisterEvents_services :
    let y0 : Master := { ident := 0x600, ctx := none }
    let h : Master := { ident := 0x800, ctx := none }
    let v : Word := 1 + 2 ^ 16
    let s := onGroup (fun g => { g with status := .halted }) mapped
    let cap := 0x40001000 + 0x40000800 * 2 ^ 64 + 6 * 2 ^ 128 + 15 * 2 ^ 133
    shotPending (loads [op0 .load (.sreg 1) [acc0 .pending] false] mapped) 0 0x40000000 0x1000 = true ∧ shotPending mapped 0 0x40000000 0x1000 = false ∧
    (1 ≤ mapped.bringup ∧ mapped.bringup ≤ 3) ∧ mintOk (decked 1 1 []) h cap = true ∧ mintOk (decked 1 1 []) core0 cap = false ∧
    (s.launch (bits v.toNat 16 16) = s.launch 1 ∧ (s.launch 1).tag ≠ 0 ∧ (s.launch 1).svc = true ∧ bits v.toNat 2 14 = 0 ∧ bits v.toNat 53 11 = 0 ∧
      permitted s y0 (yctlBase 0 + 0x80) .w = true ∧ bits v.toNat 0 2 = 1 ∧ bits (v + 1).toNat 0 2 = 2 ∧ bits v.toNat 32 16 ∈ (s.launch 1).cores ∧
      (s.group hostGroup).status = .halted) ∧
    permitted mapped core0 (yctlBase 0 + 0x80) .w = true ∧ core0.ident ≠ 0x600 ∧ core0.ident ≠ 0x601 := by decide +kernel
/-- A service group that `halt` stopped, for the Yarder that launched it and for the die's other one; and one that a breakpoint stopped. -/
theorem witness_RegisterEvents_halted :
    let s := onGroup (fun g => { g with status := .halted, byHalt := true }) mapped
    let b := onGroup (fun g => { g with status := .halted }) mapped
    let y := fun (n : Nat) => ({ ident := 0x600 + n, ctx := none } : Master)
    let v : Word := 1 + 2 ^ 16
    (s.launch 1).svcBy = 0 ∧ (y 0).ident = 0x600 + (s.launch 1).svcBy ∧ (s.launch 1).svcBy / 2 = 0 ∧ (y 1).ident ≠ 0x600 + (s.launch 1).svcBy ∧
    (y 1).ident = 0x600 + 2 * 0 + 1 ∧ haltedBySelf s (s.launch 1) = true ∧ haltedBySelf b (b.launch 1) = false ∧ (b.launch 1).tag ≠ 0 ∧
    (b.launch 1).svc = true ∧ bits (v + 1).toNat 2 14 = 0 ∧ bits (v + 1).toNat 53 11 = 0 ∧ bits (v + 1).toNat 0 2 = 2 ∧
    permitted b (y 1) (yctlBase 0 + 0x80) .w = true ∧ (s.group hostGroup).byHalt = true := by decide +kernel

/-- A write within one page goes through where the address is permitted and its tile is not poisoned, whatever its bytes. -/
theorem physWriteAll_ok (d : List Byte) (h : 0 < d.length ∧ d.length ≤ 4096) :
    (physWriteAll mapped { ident := 0x600, ctx := none } 0 d).2 = .ok () := by
  have hp : permitted mapped { ident := 0x600, ctx := none } 0 (writePerm mapped.part 0) = true := by decide +kernel
  have hl : locate mapped.part 0 = .slice 0 0 := by decide +kernel
  have ht : (mapped.tile (0 / 4096)).poisoned = false := by decide +kernel
  have hw : ∀ e, (physWrite mapped { ident := 0x600, ctx := none } 0 0 e).2 = .ok () := fun e => by
    simp only [physWrite, physReady, hp, hl, sliceReady, ht]; rfl
  have hd : d.isEmpty = false := by cases d with
    | nil => simp at h
    | cons => rfl
  have hk : min d.length (4096 - 0 % 4096) = d.length := by omega
  simp only [physWriteAll]
  rw [physWriteGo]
  simp only [hd, hk, List.take_length, List.drop_length]
  have := hw d
  generalize physWrite mapped { ident := 0x600, ctx := none } 0 0 d = x at this
  obtain ⟨t, r⟩ := x
  cases this
  simp [physWriteGo]
theorem length_quoteBody (s : State) (b : List Byte) : (quoteBody s b).length = 380 := by
  simp [quoteBody, fit, ecdsaPublic, toBytesBE, length_toBytes]
theorem length_ecdsaSign (d k : Nat) (h : List Byte) : (ecdsaSign d k h).length = 132 := by
  simp [ecdsaSign, toBytesBE, length_toBytes]
theorem witness_RegisterEvents_written (cap k : Nat) (b h : List Byte) :
    (physWriteAll mapped { ident := 0x600, ctx := none } 0 (quoteBody mapped b ++ ecdsaSign Config.attestPrivate k h)).2 = .ok () ∧
    (physWriteAll mapped { ident := 0x600, ctx := none } 0 (toBytes 32 cap ++ toBytes 8 0 ++ toBytes 24 0)).2 = .ok () ∧
    (physWriteAll mapped { ident := 0x600, ctx := none } 0 (toBytes 32 0 ++ toBytes 8 0x8A ++ toBytes 24 0)).2 = .ok () := by
  refine ⟨physWriteAll_ok _ ?_, physWriteAll_ok _ ?_, physWriteAll_ok _ ?_⟩
  · simp [length_quoteBody, length_ecdsaSign]
  · simp [length_toBytes]
  · simp [length_toBytes]

/-- Debugger: context 0 halts and resumes launch 1; DBGSEL and GPOOL name its halted group and granule 0. -/
def debugged (f : Group → Group) : State := putReg (putReg (onGroup f mapped) (dbgBase 0 + 0x18) 8 1) (dbgBase 0 + 0x20) 8 1
theorem witness_DebugEvents :
    let v := 2 ^ 16
    let h := debugged (fun g => { g with status := .halted })
    let ok := fun (o : Nat) => permitted h core0 (dbgBase 0 + o) .w = true
    (∀ c ∈ [1, 2, 3], bits (v + c) 0 2 = c ∧ dbgcmdOk (v + c) = true ∧ dbgLaunch h 0 (v + c) = some (h.launch 1) ∧
      bits (v + c) 32 16 ∈ (h.launch 1).cores ∧ bits (v + c) 48 5 < (h.launch 1).groups) ∧ ok 8 ∧ dbgcmdOk (v + 4) = false ∧
    ok 0x10000 ∧ ok 0x1FFF8 ∧ gstateGroup h 0 = some hostGroup ∧ gstateGroup (debugged id) 0 = none ∧
    ok 0x20000 ∧ gpoolSel h 0 = some (1, 0, true, 0) ∧ gpoolSel (debugged id) 0 = none := by decide +kernel
theorem witness_DebugEvents_image : 0 + 8 ≤ (List.replicate 8 (0 : Byte)).length := by decide
/-- A safe point at the group's word, with a request to halt and without; a sampler at its count; a word that has ended. -/
def pointed (req : Bool) : State :=
  let s := State.reset.withFetchWord 128 (pairWord 0 0 + 2 ^ 125)
  let s := { s with atab := (opened s).atab, tlb := [page0], tiles := [(0, { Tile.zero with resident := true })] }
  onGroup (fun g => { g with haltReq := req })
    { s.updLaunch 1 (fun l => { l with points := [(0, 3)] }) with iss := { Issue.zero with gid := hostGroup } }
def tag0 : TagRec :=
  { dtime := 0, gid := hostGroup, path := 0, deck := 0, offs := 0, spord := 0, vs := false, gf := false, id0 := 1, id1 := 2, bound := none, fate := .whole
    lq := 0, sq := 0, cq := 0, tq := 0, level := 0, waits := [] }
theorem witness_DebugEvents_points :
    let f := fun (s : State) => (fetchWord s hostGroup 0x10000)
    let smp := putReg (pointed false) (dbgBase 0 + 0x100) 8 1
    let rec_ := putReg ((pointed false).updCore 0 (fun c => { c with sample := some tag0 })) (dbgBase 0 + 0x108) 8 0x40000000
    let t0 : SampleTimes := { fetch := 0, issue := 0, opnd := 0, exec := 0, wb := 0, sat := false }
    (∀ b ∈ [true, false], (readyPaths (pointed b) hostGroup).contains 0 = true ∧ (pathOf ((pointed b).group hostGroup) 0).pc = 0x10000 ∧
      (f (pointed b)).2.toOption.map stopBit = some true ∧ ordinalAt ((f (pointed b)).1.launch 1) 0x10000 = some 3 ∧
      haltCause (f (pointed b)).1 hostGroup 0 3 = b ∧ ((f (pointed b)).1.group hostGroup).region = none) ∧
    sampling smp 0 = true ∧ (smp.core 0).sample = none ∧ (smp.core 0).due = none ∧ (smp.core 0).countdown ≤ 1 ∧
    sampling (pointed false) 0 = false ∧ (let l := smp.updCore 0 (fun c => { c with countdown := 5 }); 1 < (l.core 0).countdown) ∧
    (let d := smp.updCore 0 (fun c => { c with due := some tag0 })
     (d.core 0).due = some tag0 ∧ tag0.gid = hostGroup ∧ tag0.path = 0) ∧
    (rec_.core 0).sample = some tag0 ∧ tag0.id1 ≠ 0 ∧ sampleOpen rec_ tag0 = false ∧
    (virtWrite { die := 0 / 32, ident := 0, ctx := (rec_.launch 1).ctx, tag := 0 } rec_ 0x40000000 (toBytes 64 (sampleNat tag0 t0))).2.toOption
      = some () := by decide +kernel

/-- A tag whose operation is still queued; a group that stands where it resumed, and one that is to take a step. -/
theorem witness_DebugEvents_open :
    let r := { tag0 with id1 := 5 }
    let s := loads [op0 .load (.sreg 1) [acc0 .pending] false] (mapped.updCore 0 (fun c => { c with sample := some r }))
    let k : Skip := { path := 0, word := 0x10000, points := true }
    let h := onGroup (fun g => { g with skip := [k], stepReq := true }) (pointed false)
    (s.core 0).sample = some r ∧ sampleOpen s r = true ∧ (s.launch 1).state ≠ .completing ∧ resuming (h.group hostGroup) = [k] ∧
    haltCause h hostGroup 0 3 = false ∧ resuming ((onGroup (fun g => { g with stepReq := true }) (pointed false)).group hostGroup) = [] ∧
    haltCause (onGroup (fun g => { g with stepReq := true }) (pointed false)) hostGroup 0 3 = true ∧
    (let b := putReg (putReg (pointed false) (dbgBase 0 + 0xC0) 8 0) (dbgBase 0 + 0x40) 8 (2 ^ 63 + 3)
     breakpointAt b (b.launch 1) 3 = true) := by decide +kernel

/-- A tagged word whose path waits, whose waits have ended, and a word that issues while no tag of its path has acted. -/
theorem witness_DebugEvents_waits :
    let w := Wait.draw 1 2 0x10000 0x10010
    let r := { tag0 with waits := [w] }
    let at_ := fun (f : Core → Core) (s : State) => (waiting w s).updCore 0 f
    let s := at_ (fun c => { c with sample := some r }) mapped
    let e := (mapped.updCore 0 (fun c => { c with sample := some r }))
    let due := at_ (fun c => { c with due := some { tag0 with id1 := 0 } }) mapped
    (w ∈ r.waits ∧ w ∈ (pathOf (s.group r.gid) r.path).waits ∧ waitDone s r.gid w = false) ∧ sampleOpen e r = false ∧
    (due.core 0).due = some { tag0 with id1 := 0 } ∧ tag0.gid = hostGroup ∧ tag0.path = 0 ∧
    (∀ q, (mapped.core 0).sample = some q ∨ (mapped.core 0).due = some q → ¬(q.gid = hostGroup ∧ q.path = 0 ∧ q.id1 ≠ 0)) ∧
    (let t0 : SampleTimes := { fetch := 0, issue := 0, opnd := 0, exec := 0xFFFF, wb := 0, sat := true }
     t0.sat = true ∧ sampleNat tag0 t0 / 2 ^ 192 % 2 ^ 16 = 0xFFFF) := by
  iterate 5 refine And.intro (by decide +kernel) ?_
  refine ⟨fun q h => ?_, by decide +kernel⟩
  rcases h with h | h
  · rw [show (mapped.core 0).sample = none by decide +kernel] at h; cases h
  · rw [show (mapped.core 0).due = none by decide +kernel] at h; cases h

theorem witness_BringUpAndReset :
    let at_ := fun (b : Nat) => ({ State.reset with bringup := b } : State)
    State.reset.bringup = 0 ∧ (at_ 1).bringup = 1 ∧ (at_ 2).bringup = 2 ∧ 0 < diesOf State.reset.part ∧
    locate State.reset.part 0x200000000000 = .register 0 0x200000000000 ∧ { demo with stopped := true }.sched.head? ≠ some (.event .packageReset) ∧
    { demo with sched := [.event .packageReset] }.sched = [.event .packageReset] := by decide +kernel
/-- Firmware is accepted or not, as the free value says. -/
theorem witness_firmware (image : List Byte) : firmwareOk image = true ∨ firmwareOk image = false := by
  cases firmwareOk image <;> simp

def req (opc : Byte) (addr : BitVec 48) (d : List Byte) : HlReq :=
  { die := 0, opc := opc, ord := false, srcid := 0, tag := 5, len := 7, status := 0, addr := addr, resv := 0, data := d }
theorem witness_HighleadEvents :
    let in_ := { mapped with ports := sput Port.zero mapped.ports 0 { sget Port.zero mapped.ports 0 with discarding := false, replayAsked := false } }
    let m : Master := { ident := 0, ctx := none }
    let d := toBytes 8 9
    let out := { mapped with ports := [(0, { Port.zero with outstanding := [(5, [])] })] }
    reqOk (req 1 8 []) = true ∧ reqOk (req 1 4 []) = false ∧ reqOk (req 2 8 d) = true ∧ (req 2 8 d).data.length = (req 2 8 d).len.toNat + 1 ∧
    (physRead in_ m 0 8 8).2.toOption = some (toBytes 8 0) ∧ failure (physRead demo m 0 8 8).2 = some 0x0C ∧
    (devWrite in_ m 8 d).2.toOption = some () ∧ failure (devWrite demo m 8 d).2 = some 0x0C ∧ hlOther 6 = false ∧ (req 2 8 []).data.length ≠ 8 ∧
    (sget Port.zero out.ports 0).outstanding.any (fun x => x.1 == (5 : BitVec 16).toNat) = true ∧
    (sget Port.zero mapped.ports 0).outstanding.any (fun x => x.1 == (5 : BitVec 16).toNat) = false := by decide +kernel

/-- A write of 64 bytes to NOTIFY, and one of 8 bytes. -/
theorem witness_HighleadEvents_notify : notifyMisused mapped.part 0x280000000000 64 = false ∧ notifyMisused mapped.part 0x280000000000 8 = true ∧
    notifyMisused mapped.part 8 8 = false ∧ (req 2 8 (toBytes 8 9)).data.length = (req 2 8 (toBytes 8 9)).len.toNat + 1 := by decide +kernel

theorem witness_HighleadEvents_dies : 0 < diesOf mapped.part ∧ diesOf mapped.part ≤ 64 ∧ mapped.bringup ≠ 0 := by decide +kernel

/-! ### The invariant -/

/-- A step from a canonical state that writes memory lists: a register write that the access tables permit. -/
theorem witness_CanonStep : step { State.reset with sched := [.event .memoryTraining], bringup := 1 }
    = .next { State.reset with bringup := 2 } := by rfl

/-! ## Single steps and worked examples: each expected result comes from the spec or from its rules by hand -/

/-- What holds of the next state. -/
def after (r : Host.Outcome State Fault Refusal) (p : State → Bool) : Bool :=
  match r with
  | .next t => p t
  | _ => false

/-- R98, R111, R125: the pair word of `pairWd` runs as the first word after reset: s1 = s0 + 5, v0 = 7 in every lane, the pc one unit on. -/
theorem test_step_pair : after (step (State.reset.withFetchWord 128 pairWd)) (fun t =>
    readS (t.group hostGroup) 1 == 5 && readV (t.group hostGroup) 0 0 == 7 && readV (t.group hostGroup) 0 63 == 7
    && (t.group hostGroup).root.pc == 0x10010) = true := by decide +kernel
/-- R378: `y.bfx a0, a1, a2` with POS 8 and LEN 8 takes the second byte. -/
theorem test_step_yBfx : after (step ((yDemo 0xC5950B).updYarder 0 (fun y => writeX (writeX y 11 0xABCD) 12 (8 * 64 + 8)))) (fun t =>
    rx t 10 == 0xAB) = true := by decide +kernel
/-- R378: base instructions of RV64IMAC: `addi ra, zero, 5`, and its compressed form `c.li a0, 5` of two bytes. -/
theorem test_step_addi : after (step (yDemo 0x00500093)) (fun t => rx t 1 == 5 && (t.yarder 0).pc == ((yDemo 0x00500093).yarder 0).pc + 4) = true := by
  decide +kernel
theorem test_step_cli : after (step (yDemo 0x4515)) (fun t => rx t 10 == 5 && (t.yarder 0).pc == ((yDemo 0x4515).yarder 0).pc + 2) = true := by
  decide +kernel
/-- R126: division truncates toward zero; the remainder keeps the dividend's sign. -/
theorem test_sDiv : after (exec (.sDiv 3 1 2) (withS [(1, 7), (2, -3)] demo)) (fun t => rs t 3 == -2) = true := by decide +kernel
theorem test_sRem : after (exec (.sRem 3 1 2) (withS [(1, -7), (2, 3)] demo)) (fun t => rs t 3 == -1) = true := by decide +kernel
/-- R146: an integer sum wraps at the lane's width. -/
theorem test_vAdd_wraps : after (exec (.vAdd 0 (.vr .both 1 2 3) .i32)
    (onGroup (fun g => writeV (writeV g 2 0 0xFFFFFFFF) 3 0 2) demo)) (fun t => readV (cg t) 1 0 == 1) = true := by decide +kernel
/-- R56, as the commentary on execution works it: threads 0 to 15 take the branch, the others go on undivided. -/
theorem test_brv_splits : after (exec (.brv 7 1) (onGroup (fun g => writeM g 7 0xFFFF) demo)) (fun t =>
    (cg t).split.map (fun x => (x.1, x.2.mask, x.2.pc, x.2.parent)) == [(1, 0xFFFF, 0x10010, 0)] && (cg t).root.mask == 0xFFFFFFFFFFFF0000)
      = true := by decide +kernel
/-- R47: every LIVE lane demotes, so the group retires. -/
theorem test_demote_retires : after (exec (.demote .both 1) (onGroup (fun g => writeM g 1 (BitVec.allOnes 64)) demo)) (fun t =>
    (cg t).status == .retired) = true := by decide +kernel
/-- R190, R191: `trap 5` enters the handler with XPC after the word and XCODE of code 0x40. -/
theorem test_trap_enters : after (exec (.trap 5) (handled demo)) (fun t =>
    (cg t).xpc == 0x10010 && (cg t).xcode.toNat % 256 == 0x40 && (cg t).h) = true := by decide +kernel

/-- R75, as the commentary on number formats works it: five elements to QB4, exponent 0x81. -/
theorem test_quant : quant 4 (([0x40200000, 0xC0400000, 0x3E99999A, 0x4079999A, 0xC079999A] ++ List.replicate 11 0).map (unpack fp32))
    = (0x81, [5, -6, 1, 7, -8] ++ List.replicate 11 0, fNX) := by decide +kernel
/-- The same with +∞ and 1.0: the infinite element saturates. -/
theorem test_quant_infinite : quant 4 (([0x7F800000, 0x3F800000] ++ List.replicate 14 0).map (unpack fp32))
    = (0xFE, [7] ++ List.replicate 15 0, fQS ||| fNX) := by decide +kernel
/-- R82, as the commentary works it: two K blocks of a QB4 product, to nearest and upward. -/
theorem test_qb_blocks :
    let b1 := ((MVec.qb 4 0x80 (List.replicate 16 7)), (MVec.qb 4 0x7F (List.replicate 16 7)))
    let b2 := ((MVec.qb 4 0x80 (List.replicate 16 (-8))), (MVec.qb 4 0x80 (List.replicate 8 1 ++ List.replicate 8 0)))
    elemStep 0 0x4B800000 b1.1 b1.2 none = (0x4B80000C, fNX) ∧ elemStep 0 0x4B80000C b2.1 b2.2 none = (0x4B80000A, 0) ∧
    (elemStep 0 (elemStep 0 0x4B800000 b1.1 b1.2 none).1 b2.1 b2.2 none).1 = 0x4B80000A := by decide +kernel
/-- R89, R90, as the commentary works it: three ranks agree on one block, delivered as FP32 and as QB4. -/
theorem test_allreduce_block :
    alignElem 3 4 0x84 0x81 5 = 41943040 ∧ alignElem 3 4 0x84 0x7F (-7) = -14680064 ∧ alignElem 3 4 0x84 0x84 3 = 201326592 ∧
    packFV fp32 0 (sumValue 3 4 0x84 228589568) = (0x415A0000, 0) ∧
    (let q := quant 4 (sumValue 3 4 0x84 228589568 :: List.replicate 15 (.fin false 0 0))
     q.1 = 0x83 ∧ q.2.1.headD 0 = 7 ∧ q.2.2 = fNX) := by decide +kernel

/-- R158: a minimum of a signalling NaN and 1.0 is the canonical NaN, with NV; R84: infinite terms of both signs raise NV beside a NaN. -/
theorem test_min_signalling : fMinMax fp32 false 0x7F800001 0x3F800000 = (0x7FC00000, fNV) := by decide +kernel
theorem test_chunk_invalid : chunkSum 0 0x7FC00000 [.inf true, .inf false] = (0x7FC00000, fNV) := by decide +kernel
/-- The published example of SHA-512: the message "abc". -/
theorem test_sha512 : ofBytesBE (sha512 [97, 98, 99]) = 0xddaf35a193617abacc417349ae20413112e6fa4e89a97ea20a9eeee64b55d39a2192992a274fc1a836ba3c23a3feebbd454d4423643ce80e2a9ac94fa54ca49f := by
  decide +kernel
/-- A published signature over P-521 with that digest. -/
theorem test_ecdsa : ecdsaOk (toBytesBE 133 0x0400b0768b63e6f59218126133ad415a9708986673da626e9d372cb64d1d8cce1f400fd7ac2b13747de15150e644bda66a44805809333f7ffbfb3c765d6def6b7a42bf014c4312d406039ff9094ee16da5d807b1fac92cb5b205b8ce382500a034651fce253b61fd3dbfb6db51d0f7329a4e49fe30730e2716c80b79cf1f691ebf35c9c727)
    (toBytesBE 132 0x00a17a775ad3c70caeb2fc508545daf0b011b6f00c64057278741a33db07b2354a0d58dec11cc47434b948d66eb6e1394627bed8fd508c892b4cd6f9d750f193c4d901c5e36b2d0840082f2cfb8e0e276854c4105ff7e11aa3468c6690a9f0946b4588ba2f45293db392cde25abf402ccd17877511603ccad859e6becad63bed3926d55b)
    (toBytesBE 64 0xddaf35a193617abacc417349ae20413112e6fa4e89a97ea20a9eeee64b55d39a2192992a274fc1a836ba3c23a3feebbd454d4423643ce80e2a9ac94fa54ca49f) = true := by
  decide +kernel

end Sys2Proof.Tests
end

