-- ==== Sys2Proof/Proofs/Highlead.lean ====
section
/-!
PROOFS. Highlead (R385): the flits of a transaction, what a port holds after each operation on it, how each request is answered, and
O58 assembled from these.
-/

namespace Sys2Proof.Machine

/-! ## Flits -/

theorem length_headerFlit (opc src tag len status : Nat) : (headerFlit opc src tag len status).length = 32 :=
  length_toBytes 32 _

/-- Fields that keep to their widths (SRCID with ORD and the reserved bits above it) fill the upper 72 bits of a flit: none reaches
into the next. -/
theorem ofBytes_headerFlit {opc src tag len status : Nat} (ho : opc < 256) (hs : src < 2 ^ 24) (ht : tag < 2 ^ 16) (hl : len < 2 ^ 16)
    (hst : status < 256) : ofBytes (headerFlit opc src tag len status)
      = opc * 2 ^ 248 + src * 2 ^ 224 + tag * 2 ^ 208 + len * 2 ^ 192 + status * 2 ^ 184 := by
  unfold headerFlit
  rw [ofBytes_toBytes]
  exact Nat.mod_eq_of_lt (by omega)

/-- Byte i of the data stands in flit i / 32, at its byte i % 32. -/
theorem getD_dataFlits (b : List Byte) {i : Nat} (hi : i < b.length) : ((dataFlits b).getD (i / 32) []).getD (i % 32) 0 = b.getD i 0 := by
  have hflit : i / 32 < (b.length + 31) / 32 := by omega
  have hbyte : i % 32 < 32 := Nat.mod_lt _ (by decide)
  have flit : (dataFlits b).getD (i / 32) [] = (List.range 32).map (fun j => b.getD (32 * (i / 32) + j) 0) := by
    simp [dataFlits, hflit]
  rw [flit]
  simp [hbyte, Nat.div_add_mod]

/-! ## Ports -/

/-- The later of two writes at one number stands. -/
@[simp] theorem sput_sput {α : Type} [DecidableEq α] (d : α) (m : Sparse α) (k : Nat) (v w : α) :
    sput d (sput d m k v) k w = sput d m k w := by
  have below : (sput d m k v).filter (fun p => decide (p.1 < k)) = m.filter (fun p => decide (p.1 < k)) := by
    have not_above : ∀ a b, (a, b) ∈ m → a < k → a ≤ k := fun _ _ _ => Nat.le_of_lt
    unfold sput
    split <;> simpa [List.filter_append, List.filter_filter] using not_above
  have above : (sput d m k v).filter (fun p => decide (k < p.1)) = m.filter (fun p => decide (k < p.1)) := by
    have not_below : ∀ a b, (a, b) ∈ m → k < a → k ≤ a := fun _ _ _ => Nat.le_of_lt
    unfold sput
    split <;> simpa [List.filter_append, List.filter_filter] using not_below
  rw [sput, below, above, sput]

@[simp] theorem portArrive_part (s : State) (die : Nat) : (portArrive s die).part = s.part := rfl

theorem portArrive_port (s : State) (die : Nat) : sget .zero (portArrive s die).ports die
    = { sget .zero s.ports die with discarding := false, replayAsked := false } := sget_sput_same ..

/-- Flits that are sent go onto the link behind the others. -/
theorem sendFlits_wire (s : State) (die : Nat) (fs : List (List Byte)) :
    (sget .zero (sendFlits s die fs).ports die).wire = (sget .zero s.ports die).wire ++ fs := by
  simp [sendFlits]

/-- A sender keeps its last 512 flits. -/
theorem sendFlits_sent (s : State) (die : Nat) (fs : List (List Byte)) : (sget .zero (sendFlits s die fs).ports die).sent
      = ((sget .zero s.ports die).sent ++ fs).drop ((sget .zero s.ports die).sent.length + fs.length - 512) := by
  simp [sendFlits]

theorem updPort_of_lt {s : State} {die : Nat} (f : Port → Port) (h : die < diesOf s.part) :
    updPort s die f = { s with ports := sput .zero s.ports die (f (sget .zero s.ports die)) } := if_neg (Nat.not_le.2 h)

theorem updPort_of_le {s : State} {die : Nat} (f : Port → Port) (h : diesOf s.part ≤ die) : updPort s die f = s := if_pos h

/-! ## Requests that arrive -/

theorem respond_of_read {r : HlReq} (h : r.opc = 1) (s : State) (status : Nat) (d : List Byte) : respond s r status d
    = sendFlits s r.die (headerFlit 3 (0x1000 + s.part.package) r.tag.toNat (d.length - 1) status :: dataFlits d) := by
  simp [respond, h, idPeer]

theorem respond_of_not_read {r : HlReq} (h : r.opc ≠ 1) (s : State) (status : Nat) (d : List Byte) : respond s r status d
    = sendFlits s r.die (headerFlit 4 (0x1000 + s.part.package) r.tag.toNat (d.length - 1) status :: dataFlits d) := by
  simp only [respond, beq_iff_eq, if_neg h, idPeer]

section Read
variable {s u : State} {r : HlReq} (hdie : r.die < diesOf s.part) (hopc : r.opc = 1)
include hdie hopc

theorem highleadRead_malformed (hok : reqOk r = false) : highleadRead s r = respond (portArrive s r.die) r 3 [] := by
  simp [highleadRead, hopc, Nat.not_le.2 hdie, hok]

theorem highleadRead_done {b : List Byte} (hok : reqOk r = true)
    (hread : physRead (portArrive s r.die) (hlMaster r) 0 r.addr.toNat (r.len.toNat + 1) = (u, .ok b)) :
    highleadRead s r = respond u r 0 b := by
  simp [highleadRead, hopc, Nat.not_le.2 hdie, hok, hread]

theorem highleadRead_denied {e : Nat} (hok : reqOk r = true)
    (hread : physRead (portArrive s r.die) (hlMaster r) 0 r.addr.toNat (r.len.toNat + 1) = (u, .error e)) :
    highleadRead s r = respond u r 0x0C [] := by
  simp [highleadRead, hopc, Nat.not_le.2 hdie, hok, hread]

end Read

/-- A notify-block register takes writes of 64 bytes at its own address alone (R310, R385). -/
theorem notifyMisused_iff (p : Part) (a n : Nat) :
    notifyMisused p a n = true ↔ ∃ d o, regAt p a = .notify d o ∧ o < 0xC0 ∧ ¬(o % 64 = 0 ∧ n = 64) := by
  unfold notifyMisused
  cases regAt p a with
  | notify d o =>
    have size : decide (o < 0xC0) && !(o % 64 == 0 && n == 64) ↔ o < 0xC0 ∧ ¬(o % 64 = 0 ∧ n = 64) := by
      rw [Bool.and_eq_true, decide_eq_true_iff, Bool.not_eq_true', Bool.eq_false_iff, ne_eq, Bool.and_eq_true, beq_iff_eq, beq_iff_eq]
    refine size.trans ⟨fun h => ⟨d, o, rfl, h⟩, ?_⟩
    rintro ⟨_, _, ⟨⟩, h⟩
    exact h
  | _ => exact ⟨fun h => (nomatch h), fun ⟨_, _, h, _⟩ => (nomatch h)⟩

theorem hlOther_write : hlOther 2 = false := by decide

/-- An OPC that HIGHLEAD_WRITE takes up is no read's. -/
theorem ne_read_of_hlOther {opc : Byte} (h : hlOther opc = false) : opc ≠ 1 := by
  rintro rfl
  exact absurd h (by decide)

/-- A write out of form, and a reserved OPC. -/
theorem highleadWrite_malformed {s : State} {r : HlReq} (hdie : r.die < diesOf s.part) (hother : hlOther r.opc = false)
    (hbad : r.opc ≠ 2 ∨ reqOk r = false ∨ r.data.length ≠ r.len.toNat + 1) :
    highleadWrite s r = respond (portArrive s r.die) r 3 [] := by
  have hform : (r.opc != 2 || !reqOk r || r.data.length != r.len.toNat + 1) = true := by simpa [or_assoc] using hbad
  simp only [highleadWrite, hother, decide_eq_false (Nat.not_le.2 hdie), Bool.or_self, Bool.false_eq_true, if_false, hform, if_true]

section Write
variable {s u : State} {r : HlReq} (hdie : r.die < diesOf s.part) (hopc : r.opc = 2) (hok : reqOk r = true)
  (hlen : r.data.length = r.len.toNat + 1)
include hdie hopc hok hlen

theorem highleadWrite_misused (hmis : notifyMisused s.part r.addr.toNat r.data.length = true) :
    highleadWrite s r = respond (devWrite (portArrive s r.die) (hlMaster r) r.addr.toNat r.data).1 r 3 [] := by
  rw [hlen] at hmis
  simp [highleadWrite, hlOther, hopc, Nat.not_le.2 hdie, hok, hlen, hmis]

theorem highleadWrite_done (hmis : notifyMisused s.part r.addr.toNat r.data.length = false)
    (hwrite : devWrite (portArrive s r.die) (hlMaster r) r.addr.toNat r.data = (u, .ok ())) : highleadWrite s r = respond u r 0 [] := by
  rw [hlen] at hmis
  simp [highleadWrite, hlOther, hopc, Nat.not_le.2 hdie, hok, hlen, hmis, hwrite]

theorem highleadWrite_denied {e : Nat} (hmis : notifyMisused s.part r.addr.toNat r.data.length = false)
    (hwrite : devWrite (portArrive s r.die) (hlMaster r) r.addr.toNat r.data = (u, .error e)) :
    highleadWrite s r = respond u r 0x0C [] := by
  rw [hlen] at hmis
  simp [highleadWrite, hlOther, hopc, Nat.not_le.2 hdie, hok, hlen, hmis, hwrite]

end Write

/-! ## Responses to the device's own requests -/

/-- A port once the response of TAG `tag` has come: the request is no longer outstanding, and the response is kept with its TAG. -/
def portAnswered (p : Port) (tag : Nat) (d : List Byte) : Port :=
  { p with discarding := false, replayAsked := false, outstanding := p.outstanding.filter (fun x => x.1 != tag)
           answers := p.answers ++ [(tag, d)] }

theorem mem_portAnswered_outstanding (p : Port) (tag : Nat) (d : List Byte) (x : Nat × List Byte) :
    x ∈ (portAnswered p tag d).outstanding ↔ x ∈ p.outstanding ∧ x.1 ≠ tag := by
  simp [portAnswered]

section Response
variable {s : State} {die tag : Nat}

theorem hlResponse_outstanding (hdie : die < diesOf s.part) (h : (sget .zero s.ports die).outstanding.any (fun x => x.1 == tag) = true)
    (d : List Byte) :
    hlResponse s die tag d = { s with ports := sput .zero s.ports die (portAnswered (sget .zero s.ports die) tag d) } := by
  simp only [hlResponse, portArrive_port, Nat.not_le.2 hdie, h, if_false, if_true]
  simp only [portArrive, sput_sput, portAnswered]

/-- A response with a TAG that is not outstanding has only arrived. -/
theorem hlResponse_unknown (hdie : die < diesOf s.part) (h : (sget .zero s.ports die).outstanding.any (fun x => x.1 == tag) = false)
    (d : List Byte) : hlResponse s die tag d = portArrive s die := by
  simp [hlResponse, portArrive_port, Nat.not_le.2 hdie, h]

theorem hlResponse_of_le (hdie : diesOf s.part ≤ die) (d : List Byte) : hlResponse s die tag d = s := if_pos hdie

end Response

/-! ## The obligation -/

/-- Settles O58: each clause is the lemma about its operation above; a read's answer has OPC 3, every other one OPC 4. -/
theorem highleadEvents : Obligations.HighleadEvents := by
  unfold Obligations.HighleadEvents
  intro s u r die n b e tag st
  refine ⟨fun hdie => ⟨?readDone, ?readDenied, ?readMalformed, ?writeDone, ?writeDenied, ?misused, notifyMisused_iff _ _ _,
      ?writeMalformed, ?reserved⟩, ?header, fun i => getD_dataFlits b, ?outstanding, ?unknown, ?port, ?noPort,
    fun fs => ⟨sendFlits_wire s die fs, sendFlits_sent s die fs⟩⟩
  case readDone =>
    intro hopc hok hread
    exact congrArg Host.Outcome.next ((highleadRead_done hdie hopc hok hread).trans (respond_of_read hopc ..))
  case readDenied =>
    intro hopc hok hread
    exact congrArg Host.Outcome.next ((highleadRead_denied hdie hopc hok hread).trans (respond_of_read hopc ..))
  case readMalformed =>
    intro hopc hok
    exact congrArg Host.Outcome.next ((highleadRead_malformed hdie hopc hok).trans (respond_of_read hopc ..))
  case writeDone =>
    intro hopc hok hlen hmis hwrite
    exact congrArg Host.Outcome.next
      ((highleadWrite_done hdie hopc hok hlen hmis hwrite).trans (respond_of_not_read (by simp [hopc]) ..))
  case writeDenied =>
    intro hopc hok hlen hmis hwrite
    exact congrArg Host.Outcome.next
      ((highleadWrite_denied hdie hopc hok hlen hmis hwrite).trans (respond_of_not_read (by simp [hopc]) ..))
  case misused =>
    intro hopc hok hlen hmis
    exact congrArg Host.Outcome.next
      ((highleadWrite_misused hdie hopc hok hlen hmis).trans (respond_of_not_read (by simp [hopc]) ..))
  case writeMalformed =>
    intro hopc hbad
    exact congrArg Host.Outcome.next
      ((highleadWrite_malformed hdie (hopc ▸ hlOther_write) (.inr hbad)).trans (respond_of_not_read (by simp [hopc]) ..))
  case reserved =>
    intro hother hopc
    exact congrArg Host.Outcome.next
      ((highleadWrite_malformed hdie hother (.inl hopc)).trans (respond_of_not_read (ne_read_of_hlOther hother) ..))
  case header =>
    intro opc src t len status ho hs ht hl hst
    exact ⟨length_headerFlit .., ofBytes_headerFlit ho hs ht hl hst⟩
  case outstanding =>
    intro hdie hout
    refine ⟨⟨_, congrArg Host.Outcome.next (hlResponse_outstanding hdie hout (st :: b)), ?_, ?_⟩,
      ⟨_, congrArg Host.Outcome.next (hlResponse_outstanding hdie hout [st]), ?_⟩⟩
    · simp only [sget_sput_same, portAnswered]
    · simpa only [sget_sput_same] using mem_portAnswered_outstanding _ _ _
    · simp only [sget_sput_same, portAnswered]
  case unknown =>
    intro hdie hout
    exact congrArg Host.Outcome.next (hlResponse_unknown hdie hout _)
  case port =>
    intro hdie
    exact ⟨congrArg Host.Outcome.next (updPort_of_lt _ hdie), congrArg Host.Outcome.next (updPort_of_lt _ hdie),
      congrArg Host.Outcome.next (updPort_of_lt _ hdie)⟩
  case noPort =>
    intro hdie
    exact ⟨congrArg Host.Outcome.next (hlResponse_of_le hdie _), congrArg Host.Outcome.next (hlResponse_of_le hdie _),
      congrArg Host.Outcome.next (updPort_of_le _ hdie), congrArg Host.Outcome.next (updPort_of_le _ hdie),
      congrArg Host.Outcome.next (updPort_of_le _ hdie)⟩

end Sys2Proof.Machine
end
